-- ==== Sys2Proof/Word.lean ====
section
/-! DEFINITION. The words of the KN9600: a control-space register is 32 bits (R5), a memory byte 8 bits. -/

namespace Sys2Proof

/-- A 32-bit register or guide-core word (R5, R316). -/
abbrev Word := BitVec 32

/-- A byte of memory. -/
abbrev Byte := BitVec 8

/-- A 64-bit quantity or memory word (R7, R56, R145). -/
abbrev DWord := BitVec 64

/-- A field of a control-space register: the register's offset and the field's bits [hi:lo] (R3). -/
structure Fld where
  off : Nat
  hi : Nat
  lo : Nat
deriving DecidableEq, Repr

/-- One row of the register tables: the offset of the first register, the counts and strides of its copies
(outermost first), the bits of each access type of R3, and the reset value of R4. -/
structure RegDesc where
  base : Nat
  dims : List (Nat × Nat)
  ro : Nat
  rw : Nat
  w1c : Nat
  rc : Nat
  sh : Nat
  reset : Nat
deriving DecidableEq, Repr

/-- A sparse array: the entries that differ from what an unlisted key reads as, keys strictly rising. -/
abbrev Store (α : Type) := List (Nat × α)

end Sys2Proof
end

