-- ==== Sys2Proof/Syntax.lean ====
section
/-! DEFINITION. The commands of the KN9600 model: one constructor per row of the spec's table, with the operands
the rules give the row. A command stands for one whole and indivisible step of the module. -/

namespace Sys2Proof

/-- The agents that access the control space (R7): a partner port, a guide core, the debug access port, and the
command executor that serves REG_READ and REG_WRITE. -/
inductive Agent where
  | port (n : BitVec 2)
  | core (n : BitVec 5)
  | dap
  | executor
deriving DecidableEq, Repr

/-- What a read of the control space names: its width in bytes and its offset (R5). -/
structure RegRead where
  width : BitVec 4
  off : BitVec 25
deriving DecidableEq, Repr

/-- Who asked for a command: a host on a partner port, named by port and tag (R277), or the manager's relay,
named by the manager's position and the relay tag (R285). -/
inductive CmdRef where
  | host (port : BitVec 2) (tag : BitVec 16)
  | relay (pos : BitVec 10) (rtag : BitVec 8)
deriving DecidableEq, Repr

/-- What the link layer and the routing word give of an accepted data flit (R102, R104): the rope it came on,
HOPS, RSV, and the routing word without SUB. -/
structure Rx where
  rope : BitVec 5
  hops : BitVec 4
  rsv : Bool
  src : BitVec 10
  dkind : Bool
  dest : BitVec 10
  pcast : Bool
deriving DecidableEq, Repr

/-- One value of a SIGNAL flit (R106). -/
structure SigEntry where
  slot : BitVec 9
  tile : BitVec 8
  value : Bool
deriving DecidableEq, Repr

/-- One delta of a PARITY flit (R153): word address (byte address / 8) and 64-bit delta. -/
structure DeltaEntry where
  addr : BitVec 37
  delta : DWord
deriving DecidableEq, Repr

/-- A pulse of R368: of a trigger unit, a system trigger line, or STATUS signal 5, 6 or 7. -/
inductive Pulse where
  | trigger (n : BitVec 6)
  | systrig (n : BitVec 6)
  | status (n : BitVec 3)
deriving DecidableEq, Repr

/-- Why a port is reset (R274). -/
inductive PortResetCause where
  | perst
  | linkDown
  | flr
deriving DecidableEq, Repr

/-- Why a data flit is discarded by the link layer (R98, R101, R109). -/
inductive DiscardCause where
  | uncorrectable
  | crc
  | sequence
deriving DecidableEq, Repr

/-- What reached DP_HPD (R418). -/
inductive HpdEvent where
  | irq
  | level (high : Bool)
deriving DecidableEq, Repr

/-- The slip of a clock-slave port's elastic buffer in a frame (R423). -/
inductive Slip where
  | none
  | drop
  | again
deriving DecidableEq, Repr

/-- The commands, one constructor per row of spec/opcode_table.json, in the table's order. -/
inductive Instr where
  -- control space (R3, R5, R7)
  | registerWrite (a : Agent) (width : BitVec 4) (off : BitVec 25) (v : Word)
  | readClear (a : Agent) (nse : Bool) (r : RegRead)
  | loRead (a : Agent) (nse : Bool) (r : RegRead)
  -- supplies, reset, boot (R296-R312, R446-R452)
  | resetN
  | vauxFirstGood
  | vauxLoss
  | vinGood
  | vioChange (bankB good : Bool)
  | railOutOfWindow (rail : BitVec 4)
  | powerMeasurement (watts : BitVec 10) (vinMv vinCa : BitVec 16) (mj : Word) (capMv : BitVec 10) (excess : BitVec 10)
  | temperatureReading (face : BitVec 32) (col reg0 reg1 hbm : BitVec 8) (tempMv : BitVec 10)
  | configurationRead (copyA copyB : List Byte) (sfdp quad : Bool) (sizeLog2 : BitVec 8)
  | baseCampStart
  | hbmTrainingComplete
  | engineInitComplete
  | bootWindowExpiry
  -- modes (R23-R31, R263)
  | transitionEnd
  | managerTimeout
  | strand
  | strandTimeout
  -- fabric (R34-R90, R133-R148, R204-R207)
  | traverseBegin (tile : BitVec 8)
  | tileStep (tile : BitVec 8)
  | tileNetworkArrival (index : Nat)
  | portAccessComplete (port : BitVec 10)
  | traverseEnd (tile : BitVec 8)
  | traceRecordWrite
  | stepMemoryScrub (evaluator : BitVec 17) (step : BitVec 10)
  | patrolScrub (word : BitVec 37)
  | stall
  | hostwaitLimit
  | rateWindow
  -- run control flits (R108)
  | hold (rx : Rx)
  | high (rx : Rx) (h : DWord)
  | stop (rx : Rx) (s : DWord)
  | arrived (rx : Rx) (s : DWord)
  | feeder (rx : Rx)
  | hostwaitOn (rx : Rx) (endpoint : BitVec 13)
  | hostwaitOff (rx : Rx) (endpoint : BitVec 13)
  | ropeLost (rx : Rx) (lastSeq : BitVec 12) (rope : BitVec 5)
  -- values and floor marks (R106, R107)
  | floor (rx : Rx) (count : DWord) (restores : BitVec 16)
  | signal (rx : Rx) (parity : Bool) (values : List SigEntry)
  | signalFlitClose (partition : BitVec 10) (parity : Bool)
  -- links (R92-R132)
  | belay (rope : BitVec 5) (reason : BitVec 8) (origin : BitVec 10) (epoch : BitVec 8)
  | heartbeat (rope : BitVec 5) (pos : BitVec 10) (mode : BitVec 3) (role : BitVec 2) (stranded : Bool)
  | linkBelayRaise (a : Agent) (v : Word)
  | lcTrain (rope : BitVec 5) (pos : BitVec 10) (peerRope : BitVec 5) (fallback : Bool) (lanes : BitVec 8) (ready : Bool)
  | lcStatus (rope : BitVec 5) (payload : BitVec 184)
  | lcNak (rope : BitVec 5) (expSeq : BitVec 12) (lanes : BitVec 8)
  | lcStatusTimer (rope : BitVec 5)
  | ropeTrainingTimeout (rope : BitVec 5)
  | resendTimeout (rope : BitVec 5)
  | ropeAckTimeout (rope : BitVec 5)
  | laneLoss (rope : BitVec 5) (lane : BitVec 3)
  | laneDis (a : Agent) (rope : BitVec 5) (v : Word)
  | retrainPeriod (rope : BitVec 5) (lane : Option (BitVec 3))
  | laneRejoin (rope : BitVec 5) (lane : BitVec 3)
  | retrain (a : Agent) (rope : BitVec 5) (v : Word)
  | deviceSilence (rope : BitVec 5)
  | timeExchangePeriod (t1 : DWord)
  | timeRequest (rope : BitVec 5) (t1 t2 t3 : DWord)
  | timeReply (rope : BitVec 5) (t1 t2 t3 t4 : DWord)
  -- parity and rebuild (R151-R155, R256-R259)
  | parity (rx : Rx) (seq8 : BitVec 8) (deltas : List DeltaEntry)
  | parityMark (rx : Rx) (ckpSeq : Word) (count : DWord)
  | parityFlitClose
  | rebuildWords (rx : Rx) (seq8 : BitVec 8) (words : List DeltaEntry)
  | rebuildPageEnd (rx : Rx) (page : Word) (count : DWord)
  -- BAR2 (R276)
  | bar2Read (port : BitVec 2) (addr : BitVec 37) (len : BitVec 13)
  | bar2Write (port : BitVec 2) (addr : BitVec 37) (data : List Byte)
  -- checkpoints (R156-R182)
  | pageRestore (page : BitVec 25)
  | wallCapExpiry
  | request (rx : Rx)
  | reply (rx : Rx) (fence : DWord)
  | boundary (rx : Rx) (seq : Word) (k : DWord)
  | ready (rx : Rx) (seq : Word) (k : DWord) (fromSpare asks : Bool)
  | commit (rx : Rx) (seq : Word) (k : DWord)
  | abandon (rx : Rx) (seq : Word) (k : DWord)
  | rollback (rx : Rx) (seq : Word) (k : DWord)
  | restoreComplete
  | jack (rx : Rx) (seq : Word) (offset : DWord) (stored : Bool)
  | ckpdataState (rx : Rx) (seq7 : BitVec 7) (offset : BitVec 24) (words : List DWord)
  | ckpdataTram (rx : Rx) (seq7 : BitVec 7) (offset : BitVec 24) (words : List DWord)
  | ckpdataQpos (rx : Rx) (seq7 : BitVec 7) (offset : BitVec 24) (words : List DWord)
  | ckpdataJrnl (rx : Rx) (seq7 : BitVec 7) (offset : BitVec 24) (words : List DWord)
  | ckpdataEnd (rx : Rx) (seq : Word) (k : DWord) (flits : Word)
  -- queues (R183-R203)
  | quePublish (a : Agent) (v : Word)
  | queRelease (a : Agent) (v : Word)
  | entry (rx : Rx) (queue : BitVec 13) (chunk : BitVec 12) (last : Bool) (index : DWord) (data : BitVec 128)
  | prod (rx : Rx) (queue : BitVec 13) (value : DWord)
  | cons (rx : Rx) (queue : BitVec 13) (value : DWord)
  | refuse (rx : Rx) (queue : BitVec 13) (entry : DWord) (code : BitVec 8)
  | reattach (rx : Rx) (queue : BitVec 13) (resume : DWord)
  -- probes, triggers, replay (R204-R222)
  | trigLine (rx : Rx) (line : BitVec 6) (t : DWord) (unit : BitVec 6)
  | trigFreeze (rx : Rx) (t : DWord) (unit : BitVec 6)
  | triggerUnitWrite (a : Agent) (unit : BitVec 6) (reg : BitVec 3) (v : Word)
  | traceMaskWrite (a : Agent) (n : BitVec 3) (v : Word)
  | trace (rx : Rx) (source : BitVec 2) (tag : BitVec 8) (offset : Word) (data : BitVec 192)
  | replayEnd
  -- the Cairn (R223-R239)
  | cairnEvent (source : BitVec 8) (detail traverse : DWord)
  | ackWindowExpiry (n : BitVec 2)
  | cairnAck (a : Agent) (n : BitVec 3) (v : Word)
  | latchClear (a : Agent) (v : Word)
  | fltNPulseEnd
  | cairnSrcWrite (a : Agent) (source : BitVec 8) (v : Word)
  | inject (a : Agent) (v : Word)
  | report (rx : Rx) (rec : BitVec 224)
  | silent (rx : Rx) (pos : BitVec 10)
  | safe (rx : Rx) (seq : Word) (rec : BitVec 192)
  -- resilience (R240-R272)
  | settleExpiry
  | mode (rx : Rx) (epoch : BitVec 16) (arg : BitVec 10) (value : DWord) (period wallcap : Word) (lead : BitVec 8)
  | topo (rx : Rx) (epoch : BitVec 16) (pos : BitVec 10) (value : DWord)
  | map (rx : Rx) (epoch : BitVec 16) (partition : BitVec 10) (value : DWord)
  | lost (rx : Rx) (epoch : BitVec 16) (pos : BitVec 10)
  | ack (rx : Rx) (epoch : BitVec 16) (pos : BitVec 10) (value : DWord)
  | beat (rx : Rx) (epoch : BitVec 16) (pos : BitVec 10) (bound : DWord) (seq : Word) (restores : BitVec 16)
  | beatPeriod
  | census (rx : Rx) (epoch : BitVec 16) (pos : BitVec 10)
  | censusReply (rx : Rx) (epoch : BitVec 16) (pos : BitVec 10) (bound : DWord) (seq : Word) (role : BitVec 2) (edited : Bool)
  | censusClose
  | adopt (rx : Rx) (epoch : BitVec 16) (partition : BitVec 10) (k : DWord) (seq : Word)
  | adoptImageLoaded
  | adopted (rx : Rx) (epoch : BitVec 16) (partition : BitVec 10)
  | takeover (rx : Rx) (epoch : BitVec 16) (pos : BitVec 10) (k : DWord) (seq : Word) (oldMgr : BitVec 10)
  | done (rx : Rx) (epoch : BitVec 16) (pos : BitVec 10) (bound h : DWord)
  | appoint (rx : Rx) (epoch : BitVec 16) (pos : BitVec 10)
  | rebuildReq (rx : Rx) (epoch : BitVec 16) (partition : BitVec 10) (addr : BitVec 37) (oneWord : Bool)
  | stepword (rx : Rx) (epoch : BitVec 16) (partition : BitVec 10) (tile : BitVec 8) (evaluator : BitVec 9)
      (step : BitVec 10) (isReply : Bool) (word : BitVec 80)
  | probe (rx : Rx) (epoch : BitVec 16) (pos : BitVec 10) (count : DWord) (mapEpoch : BitVec 16)
  | probePeriod
  -- partner ports and commands (R273-R295)
  | hostMbGo (port : BitVec 2) (v : Word)
  | hostMbPop (port : BitVec 2) (v : Word)
  | hostPpSqTail (a : Agent) (port : BitVec 2) (v : Word) (fetched : List (List Word))
  | hostPpCqHead (a : Agent) (port : BitVec 2) (v : Word)
  | hostPpCqCfg (a : Agent) (port : BitVec 2) (v : Word)
  | portReset (port : BitVec 2) (cause : PortResetCause)
  | portLinkUp (port : BitVec 2) (gen : BitVec 3) (width : BitVec 4)
  | status (r : CmdRef)
  | regRead (r : CmdRef)
  | regWrite (r : CmdRef)
  | belayCommand (r : CmdRef)
  | load (r : CmdRef)
  | loadPart (r : CmdRef) (image : List Byte) (busError : Bool)
  | loadComplete
  | loadAbort (r : CmdRef)
  | unload (r : CmdRef)
  | run (r : CmdRef)
  | step (r : CmdRef)
  | freeze (r : CmdRef)
  | resume (r : CmdRef)
  | replay (r : CmdRef)
  | replayAbort (r : CmdRef)
  | memRead (r : CmdRef)
  | memWrite (r : CmdRef) (data : List Byte) (busError : Bool)
  | fabricRead (r : CmdRef)
  | fabricWrite (r : CmdRef) (data : List Byte) (busError : Bool)
  | traceRead (r : CmdRef)
  | queueAttach (r : CmdRef)
  | commandSlice (r : CmdRef)
  | cmd (rx : Rx) (rtag : BitVec 16) (part : BitVec 8) (data : BitVec 192)
  | cmdResp (rx : Rx) (rtag : BitVec 16) (part : BitVec 8) (data : BitVec 128)
  | bulk (rx : Rx) (kind : BitVec 2) (rtag : BitVec 8) (offset : Word) (data : BitVec 192)
  -- guide-core instructions (R313-R334); ext holds the EXT prefixes, first prefix first
  | mov (c : BitVec 5) (ext : List (BitVec 10)) (rd rs : BitVec 4)
  | add (c : BitVec 5) (ext : List (BitVec 10)) (rd rs : BitVec 4)
  | adc (c : BitVec 5) (ext : List (BitVec 10)) (rd rs : BitVec 4)
  | sub (c : BitVec 5) (ext : List (BitVec 10)) (rd rs : BitVec 4)
  | sbc (c : BitVec 5) (ext : List (BitVec 10)) (rd rs : BitVec 4)
  | cmp (c : BitVec 5) (ext : List (BitVec 10)) (rd rs : BitVec 4)
  | and (c : BitVec 5) (ext : List (BitVec 10)) (rd rs : BitVec 4)
  | or (c : BitVec 5) (ext : List (BitVec 10)) (rd rs : BitVec 4)
  | xor (c : BitVec 5) (ext : List (BitVec 10)) (rd rs : BitVec 4)
  | tst (c : BitVec 5) (ext : List (BitVec 10)) (rd rs : BitVec 4)
  | lsl (c : BitVec 5) (ext : List (BitVec 10)) (rd rs : BitVec 4)
  | lsr (c : BitVec 5) (ext : List (BitVec 10)) (rd rs : BitVec 4)
  | asr (c : BitVec 5) (ext : List (BitVec 10)) (rd rs : BitVec 4)
  | mul (c : BitVec 5) (ext : List (BitVec 10)) (rd rs : BitVec 4)
  | div (c : BitVec 5) (ext : List (BitVec 10)) (rd rs : BitVec 4)
  | divu (c : BitVec 5) (ext : List (BitVec 10)) (rd rs : BitVec 4)
  | movi (c : BitVec 5) (ext : List (BitVec 10)) (imm6 : BitVec 6) (rd : BitVec 4)
  | addi (c : BitVec 5) (ext : List (BitVec 10)) (imm6 : BitVec 6) (rd : BitVec 4)
  | cmpi (c : BitVec 5) (ext : List (BitVec 10)) (imm6 : BitVec 6) (rd : BitVec 4)
  | shi (c : BitVec 5) (ext : List (BitVec 10)) (imm6 : BitVec 6) (rd : BitVec 4)
  | ld (c : BitVec 5) (ext : List (BitVec 10)) (size : BitVec 2) (p : Bool) (rd rb : BitVec 4)
  | st (c : BitVec 5) (ext : List (BitVec 10)) (size : BitVec 2) (p : Bool) (rd rb : BitVec 4)
  | branch (c : BitVec 5) (ext : List (BitVec 10)) (cond : BitVec 4) (disp6 : BitVec 6)
  | jmp (c : BitVec 5) (ext : List (BitVec 10)) (disp9 : BitVec 9)
  | call (c : BitVec 5) (ext : List (BitVec 10)) (disp9 : BitVec 9)
  | nop (c : BitVec 5) (ext : List (BitVec 10)) (opd : BitVec 4)
  | jr (c : BitVec 5) (ext : List (BitVec 10)) (rs : BitVec 4)
  | callr (c : BitVec 5) (ext : List (BitVec 10)) (rs : BitVec 4)
  | xret (c : BitVec 5) (ext : List (BitVec 10)) (opd : BitVec 4)
  | trap (c : BitVec 5) (ext : List (BitVec 10)) (n : BitVec 4)
  | bkpt (c : BitVec 5) (ext : List (BitVec 10)) (n : BitVec 4)
  | wait (c : BitVec 5) (ext : List (BitVec 10)) (opd : BitVec 4)
  | loop (c : BitVec 5) (ext : List (BitVec 10)) (rc : BitVec 4)
  | breakl (c : BitVec 5) (ext : List (BitVec 10)) (opd : BitVec 4)
  | ll (c : BitVec 5) (ext : List (BitVec 10)) (rd : BitVec 4)
  | sc (c : BitVec 5) (ext : List (BitVec 10)) (rs : BitVec 4)
  | push (c : BitVec 5) (ext : List (BitVec 10)) (rs : BitVec 4)
  | pop (c : BitVec 5) (ext : List (BitVec 10)) (rd : BitVec 4)
  | sync (c : BitVec 5) (ext : List (BitVec 10)) (opd : BitVec 4)
  | neg (c : BitVec 5) (ext : List (BitVec 10)) (rd : BitVec 4)
  | not (c : BitVec 5) (ext : List (BitVec 10)) (rd : BitVec 4)
  | mts (c : BitVec 5) (ext : List (BitVec 10)) (sr rs : BitVec 4)
  | mfs (c : BitVec 5) (ext : List (BitVec 10)) (sr rd : BitVec 4)
  | sextb (c : BitVec 5) (ext : List (BitVec 10)) (rd : BitVec 4)
  | sexth (c : BitVec 5) (ext : List (BitVec 10)) (rd : BitVec 4)
  | zextb (c : BitVec 5) (ext : List (BitVec 10)) (rd : BitVec 4)
  | zexth (c : BitVec 5) (ext : List (BitVec 10)) (rd : BitVec 4)
  | clz (c : BitVec 5) (ext : List (BitVec 10)) (rd : BitVec 4)
  | rev (c : BitVec 5) (ext : List (BitVec 10)) (rd : BitVec 4)
  | illegal (c : BitVec 5) (ext : List (BitVec 10))
  -- guide-core events (R335-R351)
  | extint (c : BitVec 5)
  | nmi
  | dataLoadReturn (c : BitVec 5)
  | programCacheFill (c : BitVec 5) (line : BitVec 15)
  | storeBufferDrain (c : BitVec 5)
  | gcoreRun (a : Agent) (c : BitVec 5) (v : Word)
  | gcoreReset (a : Agent) (c : BitVec 5) (v : Word)
  | det (a : Agent) (c : BitVec 5) (v : Word)
  | icinv (a : Agent) (c : BitVec 5) (v : Word)
  | dcinv (a : Agent) (c : BitVec 5) (v : Word)
  | gcorePdata (a : Agent) (write nse : Bool) (v : Word)
  -- interrupts and timers (R352-R367)
  | claim (a : Agent) (nse : Bool) (c : BitVec 5)
  | complete (a : Agent) (c : BitVec 5) (v : Word)
  | swi (a : Agent) (v : Word)
  | clrpend (a : Agent) (source : BitVec 9) (v : Word)
  | disable (a : Agent) (v : Word)
  | glitchFilter (pin : BitVec 6) (level : Bool)
  | countTick (timer : BitVec 4)
  | tmrCountLatch (a : Agent) (timer : BitVec 4)
  | capture (timer : BitVec 4) (k : BitVec 1) (edge : Option Bool)
  | tmrCapRead (a : Agent) (nse : Bool) (timer : BitVec 4) (k : BitVec 1)
  | alarmArm (a : Agent) (v : Word)
  | alarm
  | kick (a : Agent) (c : BitVec 5) (v : Word)
  | watchdogWarning (c : BitVec 5)
  | watchdogExpiry (c : BitVec 5)
  -- pins (R368-R378)
  | gpioPinWrite (a : Agent) (pin : BitVec 6) (v : Word)
  | gpioSet (a : Agent) (bankB : Bool) (v : Word)
  | gpioClr (a : Agent) (bankB : Bool) (v : Word)
  | pulseEnd (p : Pulse)
  -- DMA, Float, mailboxes (R379-R395)
  | dmaStart (a : Agent) (ch : BitVec 4) (v : Word)
  | dmaStop (a : Agent) (ch : BitVec 4) (v : Word) (moved : BitVec 24)
  | dmaComplete (ch : BitVec 4)
  | fill (a : Agent) (v : Word)
  | copy (a : Agent) (v : Word)
  | blend (a : Agent) (v : Word)
  | floatAbort (a : Agent) (v : Word)
  | floatComplete
  | mbxSendGo (a : Agent) (c : BitVec 5) (v : Word)
  | mbxRxRelease (a : Agent) (c : BitVec 5) (v : Word)
  | park (c : BitVec 5)
  | unpark (c : BitVec 5)
  -- video (R396-R420)
  | frameBoundary
  | vidCommit (a : Agent) (v : Word)
  | lineListApply (line : BitVec 12)
  | captureBind (a : Agent) (p : BitVec 2) (v : Word)
  | captureEntry (p : BitVec 2)
  | auxStart (a : Agent) (v : Word)
  | auxReply (reply : BitVec 3) (data : List Byte)
  | hpdChange (e : HpdEvent)
  -- audio (R421-R434)
  | blockBoundary
  | audioPortBind (a : Agent) (p : BitVec 1) (v : Word)
  | outputEntryRead (p : BitVec 1)
  | zcTimeout (output : Bool) (path : BitVec 4)
  | fsyncAbsent (p : BitVec 1)
  -- debug port and run control (R435-R445)
  | tapReset
  | extest
  | idcode
  | samplePreload (pins : BitVec 225)
  | clamp
  | highz
  | bypass
  | dapacc (request : BitVec 80)
  | dapRead
  | dapWrite
  | debugHalt (a : Agent) (v : Word)
  | debugRelease (a : Agent) (v : Word)
  | haltreq (a : Agent) (c : BitVec 5) (v : Word)
  | dbgResume (a : Agent) (c : BitVec 5) (v : Word)
  | dbgStim (a : Agent) (c : BitVec 5) (n : BitVec 5) (v : Word)
  | dbgTraceDataHi (a : Agent) (nse : Bool)
  -- the table's last rows
  | resetNRelease
  | refclkDetected
  | flitDiscard (rope : BitVec 5) (cause : DiscardCause) (seq : BitVec 12)
  | linkProtocolFault (rope : BitVec 5) (type : BitVec 6)
  | replayRecordWrite
  | audioFrame (p : BitVec 1) (din : List (BitVec 24)) (slip : Slip)
  | fsyncReturn (p : BitVec 1)
deriving DecidableEq, Repr

end Sys2Proof
end

