-- ==== Sys2Proof/Config.lean ====
section
/-! DEFINITION. The free values: what the rules leave open. Each is a constant without a body, applied to the plain
counter `Dev.free` or to the operands it depends on, so nothing can be proved of the value it takes. -/

namespace Sys2Proof.Config

/-- A bit the rules leave unpredictable (R40, R42, R65). -/
opaque freeBit : Nat → Bool

/-- A byte the rules leave undefined (overlapping transfers, R381). -/
opaque freeByte : Nat → Byte

/-- A choice the rules leave to the module: a cache way to give up (R339, R340), a VIA among equals. -/
opaque freeChoice : Nat → Nat

/-- Where the compressor's envelope moves, in 1/2^23 of full scale, from the rate in Hz, the time constant in 0.1 ms, the envelope
and the sample's size (R425 gives the factor, an irrational number, and no arithmetic for it). -/
opaque envelope : Nat → Nat → Nat → Nat → Nat

/-- The colour of an A8 surface on a video layer, red, green and blue of 10 bits each: R405 names one for skim layers only. -/
opaque a8Colour : Nat → BitVec 30

/-- The lanes a receiver finds trained at one attempt of a rope (R92, R94): what stands on the wires is outside the model. -/
opaque trainedLanes : Nat → BitVec 8

/-- Whether a stack still has a repair resource after `n` retired rows (R147; the rules give no number). -/
opaque repairLeft : Nat → Nat → Bool

end Sys2Proof.Config
end

