-- ==== Sys2Proof/Machine/Regs.lean ====
section
/-! DEFINITION. The registers of the control space as the register tables of the chapters give them: the offset of
every register, the place of every field, and the access type and reset value of every bit (R3, R4, R32). A register
that is one of many takes its index. cfg and kept resets stand as 0 here (R4); Machine/Ops.lean adds the resets that
the text gives in words. -/

namespace Sys2Proof.Machine

/-- SYS_ID (00_scope.md). -/
abbrev SYS_ID : Nat := 0x0
abbrev SYS_ID_FAMILY : Fld := ⟨SYS_ID, 31, 16⟩
abbrev SYS_ID_PART : Fld := ⟨SYS_ID, 15, 0⟩
/-- SYS_STEPPING (00_scope.md). -/
abbrev SYS_STEPPING : Nat := 0x4
abbrev SYS_STEPPING_MAJOR : Fld := ⟨SYS_STEPPING, 7, 4⟩
abbrev SYS_STEPPING_MINOR : Fld := ⟨SYS_STEPPING, 3, 0⟩
/-- SYS_MODE (01_architecture.md). -/
abbrev SYS_MODE : Nat := 0x8
abbrev SYS_MODE_MODE : Fld := ⟨SYS_MODE, 2, 0⟩
abbrev SYS_MODE_STRANDED : Fld := ⟨SYS_MODE, 3, 3⟩
abbrev SYS_MODE_TRANSIT : Fld := ⟨SYS_MODE, 4, 4⟩
abbrev SYS_MODE_PREV : Fld := ⟨SYS_MODE, 10, 8⟩
abbrev SYS_MODE_PROTECTED : Fld := ⟨SYS_MODE, 11, 11⟩
abbrev SYS_MODE_CHANGES : Fld := ⟨SYS_MODE, 31, 16⟩
/-- SYS_ROLE (01_architecture.md). -/
abbrev SYS_ROLE : Nat := 0xC
abbrev SYS_ROLE_ROLE : Fld := ⟨SYS_ROLE, 1, 0⟩
abbrev SYS_ROLE_CFG_ROLE : Fld := ⟨SYS_ROLE, 3, 2⟩
/-- SYS_POSITION (01_architecture.md). -/
abbrev SYS_POSITION : Nat := 0x10
abbrev SYS_POSITION_MEMBER : Fld := ⟨SYS_POSITION, 3, 0⟩
abbrev SYS_POSITION_PARTY : Fld := ⟨SYS_POSITION, 9, 4⟩
/-- SYS_PARTITION (01_architecture.md). -/
abbrev SYS_PARTITION : Nat := 0x14
abbrev SYS_PARTITION_NUMBER : Fld := ⟨SYS_PARTITION, 9, 0⟩
abbrev SYS_PARTITION_VALID : Fld := ⟨SYS_PARTITION, 31, 31⟩
/-- SYS_TOPOLOGY (01_architecture.md). -/
abbrev SYS_TOPOLOGY : Nat := 0x18
abbrev SYS_TOPOLOGY_MGR_POS : Fld := ⟨SYS_TOPOLOGY, 9, 0⟩
abbrev SYS_TOPOLOGY_DEP_POS : Fld := ⟨SYS_TOPOLOGY, 25, 16⟩
abbrev SYS_TOPOLOGY_DEP_VALID : Fld := ⟨SYS_TOPOLOGY, 26, 26⟩
/-- SYS_EXTENT (01_architecture.md). -/
abbrev SYS_EXTENT : Nat := 0x1C
abbrev SYS_EXTENT_PARTIES : Fld := ⟨SYS_EXTENT, 6, 0⟩
/-- SYS_READY (01_architecture.md). -/
abbrev SYS_READY : Nat := 0x20
abbrev SYS_READY_CFG : Fld := ⟨SYS_READY, 0, 0⟩
abbrev SYS_READY_BASECAMP : Fld := ⟨SYS_READY, 1, 1⟩
abbrev SYS_READY_HBM : Fld := ⟨SYS_READY, 2, 2⟩
abbrev SYS_READY_LINK : Fld := ⟨SYS_READY, 3, 3⟩
abbrev SYS_READY_TSYNC : Fld := ⟨SYS_READY, 4, 4⟩
abbrev SYS_READY_FABRIC : Fld := ⟨SYS_READY, 5, 5⟩
abbrev SYS_READY_TOPO : Fld := ⟨SYS_READY, 6, 6⟩
abbrev SYS_READY_CKP : Fld := ⟨SYS_READY, 7, 7⟩
abbrev SYS_READY_QUE : Fld := ⟨SYS_READY, 8, 8⟩
abbrev SYS_READY_VIS : Fld := ⟨SYS_READY, 9, 9⟩
abbrev SYS_READY_VID : Fld := ⟨SYS_READY, 10, 10⟩
abbrev SYS_READY_AUD : Fld := ⟨SYS_READY, 11, 11⟩
abbrev SYS_READY_PP : Fld := ⟨SYS_READY, 15, 12⟩
/-- TRV_SCRUB (02_evaluators.md). -/
abbrev TRV_SCRUB : Nat := 0x9F000
abbrev TRV_SCRUB_ENABLE : Fld := ⟨TRV_SCRUB, 0, 0⟩
abbrev TRV_SCRUB_PERIOD : Fld := ⟨TRV_SCRUB, 31, 8⟩
/-- TRV_SCRUB_STAT (02_evaluators.md). -/
abbrev TRV_SCRUB_STAT : Nat := 0x9F004
abbrev TRV_SCRUB_STAT_CORRECTED : Fld := ⟨TRV_SCRUB_STAT, 15, 0⟩
abbrev TRV_SCRUB_STAT_PASSES : Fld := ⟨TRV_SCRUB_STAT, 31, 16⟩
/-- TRV_LENGTH (03_traverse.md). -/
abbrev TRV_LENGTH : Nat := 0x80000
abbrev TRV_LENGTH_N : Fld := ⟨TRV_LENGTH, 10, 0⟩
/-- TRV_STATUS (03_traverse.md). -/
abbrev TRV_STATUS : Nat := 0x80004
abbrev TRV_STATUS_HOLD : Fld := ⟨TRV_STATUS, 0, 0⟩
abbrev TRV_STATUS_STOP_VALID : Fld := ⟨TRV_STATUS, 1, 1⟩
abbrev TRV_STATUS_HOSTWAIT_LOCAL : Fld := ⟨TRV_STATUS, 2, 2⟩
abbrev TRV_STATUS_HOSTWAIT_SYS : Fld := ⟨TRV_STATUS, 3, 3⟩
abbrev TRV_STATUS_GATED : Fld := ⟨TRV_STATUS, 4, 4⟩
abbrev TRV_STATUS_STALLED : Fld := ⟨TRV_STATUS, 5, 5⟩
abbrev TRV_STATUS_RESTORES : Fld := ⟨TRV_STATUS, 31, 16⟩
/-- TRV_COUNT_LO (03_traverse.md). -/
abbrev TRV_COUNT_LO : Nat := 0x80008
/-- TRV_COUNT_HI (03_traverse.md). -/
abbrev TRV_COUNT_HI : Nat := 0x8000C
/-- TRV_STOP_LO (03_traverse.md). -/
abbrev TRV_STOP_LO : Nat := 0x80010
/-- TRV_STOP_HI (03_traverse.md). -/
abbrev TRV_STOP_HI : Nat := 0x80014
/-- TRV_RUNCNT_LO (03_traverse.md). -/
abbrev TRV_RUNCNT_LO : Nat := 0x80018
/-- TRV_RUNCNT_HI (03_traverse.md). -/
abbrev TRV_RUNCNT_HI : Nat := 0x8001C
abbrev TRV_RUNCNT_HI_COUNT : Fld := ⟨TRV_RUNCNT_HI, 15, 0⟩
/-- TRV_STALL (03_traverse.md). -/
abbrev TRV_STALL : Nat := 0x80020
abbrev TRV_STALL_ENABLE : Fld := ⟨TRV_STALL, 0, 0⟩
abbrev TRV_STALL_WINDOW : Fld := ⟨TRV_STALL, 31, 12⟩
/-- TRV_HOSTWAIT (03_traverse.md). -/
abbrev TRV_HOSTWAIT : Nat := 0x80024
abbrev TRV_HOSTWAIT_LIMIT : Fld := ⟨TRV_HOSTWAIT, 15, 0⟩
/-- TRV_RATE_WIN (03_traverse.md). -/
abbrev TRV_RATE_WIN : Nat := 0x80028
/-- TRV_RATE (03_traverse.md). -/
abbrev TRV_RATE : Nat := 0x8002C
/-- TRV_RUNTIME_LO (03_traverse.md). -/
abbrev TRV_RUNTIME_LO : Nat := 0x80030
/-- TRV_RUNTIME_HI (03_traverse.md). -/
abbrev TRV_RUNTIME_HI : Nat := 0x80034
/-- TRV_GATE (03_traverse.md). -/
abbrev TRV_GATE : Nat := 0x80038
abbrev TRV_GATE_LIMIT_POS : Fld := ⟨TRV_GATE, 9, 0⟩
abbrev TRV_GATE_TARGETS : Fld := ⟨TRV_GATE, 20, 10⟩
abbrev TRV_GATE_LIMITING : Fld := ⟨TRV_GATE, 31, 31⟩
/-- TRV_TILE_SEL (03_traverse.md). -/
abbrev TRV_TILE_SEL : Nat := 0x80040
abbrev TRV_TILE_SEL_TILE : Fld := ⟨TRV_TILE_SEL, 7, 0⟩
/-- TRV_TILE_STAT (03_traverse.md). -/
abbrev TRV_TILE_STAT : Nat := 0x80044
abbrev TRV_TILE_STAT_STEP : Fld := ⟨TRV_TILE_STAT, 9, 0⟩
abbrev TRV_TILE_STAT_PARITY : Fld := ⟨TRV_TILE_STAT, 10, 10⟩
abbrev TRV_TILE_STAT_WAIT : Fld := ⟨TRV_TILE_STAT, 15, 12⟩
abbrev TRV_TILE_STAT_DETAIL : Fld := ⟨TRV_TILE_STAT, 24, 16⟩
/-- TRV_TILE_COUNT (03_traverse.md). -/
abbrev TRV_TILE_COUNT : Nat := 0x80048
/-- LINK_ROPES (04_ropes_and_parties.md). -/
abbrev LINK_ROPES : Nat := 0x40000
abbrev LINK_ROPES_UP : Fld := ⟨LINK_ROPES, 17, 0⟩
/-- LINK_RETRAIN (04_ropes_and_parties.md). -/
abbrev LINK_RETRAIN : Nat := 0x40004
abbrev LINK_RETRAIN_PERIOD : Fld := ⟨LINK_RETRAIN, 15, 0⟩
/-- LINK_BELAY_RAISE (04_ropes_and_parties.md). -/
abbrev LINK_BELAY_RAISE : Nat := 0x40008
abbrev LINK_BELAY_RAISE_RAISE : Fld := ⟨LINK_BELAY_RAISE, 0, 0⟩
abbrev LINK_BELAY_RAISE_REASON : Fld := ⟨LINK_BELAY_RAISE, 15, 8⟩
/-- LINK_BELAY_LAST (04_ropes_and_parties.md). -/
abbrev LINK_BELAY_LAST : Nat := 0x4000C
abbrev LINK_BELAY_LAST_REASON : Fld := ⟨LINK_BELAY_LAST, 7, 0⟩
abbrev LINK_BELAY_LAST_ORIGIN : Fld := ⟨LINK_BELAY_LAST, 17, 8⟩
abbrev LINK_BELAY_LAST_EPOCH : Fld := ⟨LINK_BELAY_LAST, 25, 18⟩
abbrev LINK_BELAY_LAST_COUNT : Fld := ⟨LINK_BELAY_LAST, 31, 26⟩
/-- LINK_TIMEOUT (04_ropes_and_parties.md). -/
abbrev LINK_TIMEOUT : Nat := 0x40010
abbrev LINK_TIMEOUT_LANE_TMO : Fld := ⟨LINK_TIMEOUT, 11, 0⟩
abbrev LINK_TIMEOUT_DEV_TMO : Fld := ⟨LINK_TIMEOUT, 31, 16⟩
/-- LINK_TSYNC (04_ropes_and_parties.md). -/
abbrev LINK_TSYNC : Nat := 0x40014
abbrev LINK_TSYNC_OFFSET : Fld := ⟨LINK_TSYNC, 15, 0⟩
abbrev LINK_TSYNC_PARENT : Fld := ⟨LINK_TSYNC, 25, 16⟩
abbrev LINK_TSYNC_ROOT : Fld := ⟨LINK_TSYNC, 26, 26⟩
/-- LINK_DETOUR (04_ropes_and_parties.md). -/
abbrev LINK_DETOUR (k : Nat) : Nat := 0x40040 + 0x4 * k
abbrev LINK_DETOUR_VIA (k : Nat) : Fld := ⟨LINK_DETOUR k, 3, 0⟩
abbrev LINK_DETOUR_VALID (k : Nat) : Fld := ⟨LINK_DETOUR k, 31, 31⟩
/-- LINK_PROUTE (04_ropes_and_parties.md). -/
abbrev LINK_PROUTE (q : Nat) : Nat := 0x40100 + 0x4 * q
abbrev LINK_PROUTE_DIM (q : Nat) : Fld := ⟨LINK_PROUTE q, 1, 0⟩
abbrev LINK_PROUTE_MINUS (q : Nat) : Fld := ⟨LINK_PROUTE q, 2, 2⟩
/-- LINK_RP_STAT (04_ropes_and_parties.md). -/
abbrev LINK_RP_STAT (k : Nat) : Nat := 0x41000 + 0x40 * k
abbrev LINK_RP_STAT_STATE (k : Nat) : Fld := ⟨LINK_RP_STAT k, 2, 0⟩
abbrev LINK_RP_STAT_RATE (k : Nat) : Fld := ⟨LINK_RP_STAT k, 3, 3⟩
abbrev LINK_RP_STAT_LANES (k : Nat) : Fld := ⟨LINK_RP_STAT k, 11, 4⟩
abbrev LINK_RP_STAT_PEER (k : Nat) : Fld := ⟨LINK_RP_STAT k, 21, 12⟩
abbrev LINK_RP_STAT_PEER_ROPE (k : Nat) : Fld := ⟨LINK_RP_STAT k, 26, 22⟩
/-- LINK_RP_FEC (04_ropes_and_parties.md). -/
abbrev LINK_RP_FEC (k : Nat) : Nat := 0x41004 + 0x40 * k
/-- LINK_RP_ERR (04_ropes_and_parties.md). -/
abbrev LINK_RP_ERR (k : Nat) : Nat := 0x41008 + 0x40 * k
abbrev LINK_RP_ERR_UNCORR (k : Nat) : Fld := ⟨LINK_RP_ERR k, 15, 0⟩
abbrev LINK_RP_ERR_CRCFAIL (k : Nat) : Fld := ⟨LINK_RP_ERR k, 31, 16⟩
/-- LINK_RP_RETRY (04_ropes_and_parties.md). -/
abbrev LINK_RP_RETRY (k : Nat) : Nat := 0x4100C + 0x40 * k
abbrev LINK_RP_RETRY_EPISODES (k : Nat) : Fld := ⟨LINK_RP_RETRY k, 15, 0⟩
abbrev LINK_RP_RETRY_NAKS (k : Nat) : Fld := ⟨LINK_RP_RETRY k, 31, 16⟩
/-- LINK_RP_FLOW (04_ropes_and_parties.md). -/
abbrev LINK_RP_FLOW (k : Nat) : Nat := 0x41010 + 0x40 * k
abbrev LINK_RP_FLOW_SHARED (k : Nat) : Fld := ⟨LINK_RP_FLOW k, 10, 0⟩
abbrev LINK_RP_FLOW_UNACKED (k : Nat) : Fld := ⟨LINK_RP_FLOW k, 22, 12⟩
/-- LINK_RP_TEST (04_ropes_and_parties.md). -/
abbrev LINK_RP_TEST (k : Nat) : Nat := 0x41014 + 0x40 * k
abbrev LINK_RP_TEST_LANE_DIS (k : Nat) : Fld := ⟨LINK_RP_TEST k, 7, 0⟩
abbrev LINK_RP_TEST_RETRAIN (k : Nat) : Fld := ⟨LINK_RP_TEST k, 8, 8⟩
/-- MEM_REGION (05_memory_models.md). -/
abbrev MEM_REGION : Nat := 0xA0000
abbrev MEM_REGION_SIZE_GIB : Fld := ⟨MEM_REGION, 6, 0⟩
abbrev MEM_REGION_PARITY : Fld := ⟨MEM_REGION, 8, 8⟩
abbrev MEM_REGION_PARITY_VALID : Fld := ⟨MEM_REGION, 9, 9⟩
/-- MEM_WIN_SEL (05_memory_models.md). -/
abbrev MEM_WIN_SEL : Nat := 0xA0004
abbrev MEM_WIN_SEL_TILE : Fld := ⟨MEM_WIN_SEL, 7, 0⟩
/-- MEM_WIN_BASE (05_memory_models.md). -/
abbrev MEM_WIN_BASE : Nat := 0xA0008
/-- MEM_WIN_SIZE (05_memory_models.md). -/
abbrev MEM_WIN_SIZE : Nat := 0xA000C
/-- MEM_ECC (05_memory_models.md). -/
abbrev MEM_ECC : Nat := 0xA0010
abbrev MEM_ECC_CORRECTED : Fld := ⟨MEM_ECC, 15, 0⟩
abbrev MEM_ECC_UNCORR : Fld := ⟨MEM_ECC, 31, 16⟩
/-- MEM_ECC_ADDR_LO (05_memory_models.md). -/
abbrev MEM_ECC_ADDR_LO : Nat := 0xA0014
/-- MEM_ECC_ADDR_HI (05_memory_models.md). -/
abbrev MEM_ECC_ADDR_HI : Nat := 0xA0018
abbrev MEM_ECC_ADDR_HI_ADDR : Fld := ⟨MEM_ECC_ADDR_HI, 4, 0⟩
/-- MEM_RANGE (05_memory_models.md). -/
abbrev MEM_RANGE : Nat := 0xA001C
abbrev MEM_RANGE_PORT : Fld := ⟨MEM_RANGE, 9, 0⟩
abbrev MEM_RANGE_WRITE : Fld := ⟨MEM_RANGE, 10, 10⟩
abbrev MEM_RANGE_COUNT : Fld := ⟨MEM_RANGE, 31, 16⟩
/-- MEM_HOSTWR (05_memory_models.md). -/
abbrev MEM_HOSTWR : Nat := 0xA0020
abbrev MEM_HOSTWR_DROPPED : Fld := ⟨MEM_HOSTWR, 15, 0⟩
/-- MEM_PQUEUE (05_memory_models.md). -/
abbrev MEM_PQUEUE : Nat := 0xA0024
abbrev MEM_PQUEUE_DEPTH : Fld := ⟨MEM_PQUEUE, 16, 0⟩
/-- MEM_PLOG (05_memory_models.md). -/
abbrev MEM_PLOG : Nat := 0xA0028
abbrev MEM_PLOG_SIZE_MIB : Fld := ⟨MEM_PLOG, 15, 0⟩
/-- MEM_PLOG_FILL (05_memory_models.md). -/
abbrev MEM_PLOG_FILL : Nat := 0xA002C
/-- MEM_SCRUB (05_memory_models.md). -/
abbrev MEM_SCRUB : Nat := 0xA0030
abbrev MEM_SCRUB_ENABLE : Fld := ⟨MEM_SCRUB, 0, 0⟩
abbrev MEM_SCRUB_PERIOD : Fld := ⟨MEM_SCRUB, 31, 8⟩
/-- CKP_PERIOD (06_checkpoints.md). -/
abbrev CKP_PERIOD : Nat := 0x100000
abbrev CKP_PERIOD_PERIOD : Fld := ⟨CKP_PERIOD, 24, 0⟩
/-- CKP_WALLCAP (06_checkpoints.md). -/
abbrev CKP_WALLCAP : Nat := 0x100004
/-- CKP_LEAD (06_checkpoints.md). -/
abbrev CKP_LEAD : Nat := 0x100008
abbrev CKP_LEAD_LEAD : Fld := ⟨CKP_LEAD, 7, 0⟩
/-- CKP_HIST (06_checkpoints.md). -/
abbrev CKP_HIST : Nat := 0x10000C
abbrev CKP_HIST_DEPTH : Fld := ⟨CKP_HIST, 6, 0⟩
abbrev CKP_HIST_EVERY : Fld := ⟨CKP_HIST, 31, 16⟩
/-- CKP_ABANDON (06_checkpoints.md). -/
abbrev CKP_ABANDON : Nat := 0x100010
abbrev CKP_ABANDON_LIMIT : Fld := ⟨CKP_ABANDON, 3, 0⟩
abbrev CKP_ABANDON_RUN : Fld := ⟨CKP_ABANDON, 15, 8⟩
abbrev CKP_ABANDON_TOTAL : Fld := ⟨CKP_ABANDON, 31, 16⟩
/-- CKP_STATUS (06_checkpoints.md). -/
abbrev CKP_STATUS : Nat := 0x100014
abbrev CKP_STATUS_PENDING : Fld := ⟨CKP_STATUS, 0, 0⟩
abbrev CKP_STATUS_CAPTURED : Fld := ⟨CKP_STATUS, 1, 1⟩
abbrev CKP_STATUS_READY_SENT : Fld := ⟨CKP_STATUS, 2, 2⟩
abbrev CKP_STATUS_EDITED : Fld := ⟨CKP_STATUS, 3, 3⟩
abbrev CKP_STATUS_DEGRADED : Fld := ⟨CKP_STATUS, 4, 4⟩
abbrev CKP_STATUS_PREV_VALID : Fld := ⟨CKP_STATUS, 5, 5⟩
abbrev CKP_STATUS_RESTORING : Fld := ⟨CKP_STATUS, 6, 6⟩
abbrev CKP_STATUS_HIST_COUNT : Fld := ⟨CKP_STATUS, 14, 8⟩
/-- CKP_SEQ (06_checkpoints.md). -/
abbrev CKP_SEQ : Nat := 0x100018
/-- CKP_BOUND_LO (06_checkpoints.md). -/
abbrev CKP_BOUND_LO : Nat := 0x10001C
/-- CKP_BOUND_HI (06_checkpoints.md). -/
abbrev CKP_BOUND_HI : Nat := 0x100020
/-- CKP_NEXT_LO (06_checkpoints.md). -/
abbrev CKP_NEXT_LO : Nat := 0x100024
/-- CKP_NEXT_HI (06_checkpoints.md). -/
abbrev CKP_NEXT_HI : Nat := 0x100028
/-- CKP_COMMIT_TIME (06_checkpoints.md). -/
abbrev CKP_COMMIT_TIME : Nat := 0x10002C
abbrev CKP_COMMIT_TIME_TICKS : Fld := ⟨CKP_COMMIT_TIME, 23, 0⟩
/-- CKP_AREA (06_checkpoints.md). -/
abbrev CKP_AREA : Nat := 0x100030
abbrev CKP_AREA_SIZE_GIB : Fld := ⟨CKP_AREA, 4, 0⟩
abbrev CKP_AREA_FILL : Fld := ⟨CKP_AREA, 14, 8⟩
/-- CKP_JOURNAL (06_checkpoints.md). -/
abbrev CKP_JOURNAL : Nat := 0x100034
abbrev CKP_JOURNAL_SIZE_MIB : Fld := ⟨CKP_JOURNAL, 4, 0⟩
abbrev CKP_JOURNAL_FILL : Fld := ⟨CKP_JOURNAL, 14, 8⟩
/-- CKP_HIST_SEL (06_checkpoints.md). -/
abbrev CKP_HIST_SEL : Nat := 0x100038
abbrev CKP_HIST_SEL_INDEX : Fld := ⟨CKP_HIST_SEL, 5, 0⟩
/-- CKP_HIST_SEQ (06_checkpoints.md). -/
abbrev CKP_HIST_SEQ : Nat := 0x10003C
/-- CKP_HIST_BOUND_LO (06_checkpoints.md). -/
abbrev CKP_HIST_BOUND_LO : Nat := 0x100040
/-- CKP_HIST_BOUND_HI (06_checkpoints.md). -/
abbrev CKP_HIST_BOUND_HI : Nat := 0x100044
/-- QUE_DTAB_LO (07_queues.md). -/
abbrev QUE_DTAB_LO : Nat := 0xC0000
/-- QUE_DTAB_HI (07_queues.md). -/
abbrev QUE_DTAB_HI : Nat := 0xC0004
abbrev QUE_DTAB_HI_ADDR : Fld := ⟨QUE_DTAB_HI, 4, 0⟩
/-- QUE_RTAB_LO (07_queues.md). -/
abbrev QUE_RTAB_LO : Nat := 0xC0008
/-- QUE_RTAB_HI (07_queues.md). -/
abbrev QUE_RTAB_HI : Nat := 0xC000C
abbrev QUE_RTAB_HI_ADDR : Fld := ⟨QUE_RTAB_HI, 4, 0⟩
/-- QUE_RCOUNT (07_queues.md). -/
abbrev QUE_RCOUNT : Nat := 0xC0010
abbrev QUE_RCOUNT_COUNT : Fld := ⟨QUE_RCOUNT, 13, 0⟩
/-- QUE_AREA (07_queues.md). -/
abbrev QUE_AREA : Nat := 0xC0014
abbrev QUE_AREA_RING_MIB : Fld := ⟨QUE_AREA, 14, 0⟩
abbrev QUE_AREA_FILL : Fld := ⟨QUE_AREA, 22, 16⟩
/-- QUE_HOLD (07_queues.md). -/
abbrev QUE_HOLD : Nat := 0xC0018
abbrev QUE_HOLD_SIZE_MIB : Fld := ⟨QUE_HOLD, 14, 0⟩
abbrev QUE_HOLD_FILL : Fld := ⟨QUE_HOLD, 22, 16⟩
/-- QUE_PUBLISH (07_queues.md). -/
abbrev QUE_PUBLISH : Nat := 0xC0020
abbrev QUE_PUBLISH_QUEUE : Fld := ⟨QUE_PUBLISH, 12, 0⟩
abbrev QUE_PUBLISH_COUNT : Fld := ⟨QUE_PUBLISH, 20, 13⟩
abbrev QUE_PUBLISH_RELAY : Fld := ⟨QUE_PUBLISH, 31, 31⟩
/-- QUE_RELEASE (07_queues.md). -/
abbrev QUE_RELEASE : Nat := 0xC0024
abbrev QUE_RELEASE_QUEUE : Fld := ⟨QUE_RELEASE, 12, 0⟩
abbrev QUE_RELEASE_COUNT : Fld := ⟨QUE_RELEASE, 20, 13⟩
abbrev QUE_RELEASE_RELAY : Fld := ⟨QUE_RELEASE, 31, 31⟩
/-- QUE_ERR (07_queues.md). -/
abbrev QUE_ERR : Nat := 0xC0028
abbrev QUE_ERR_QUEUE : Fld := ⟨QUE_ERR, 12, 0⟩
abbrev QUE_ERR_CODE : Fld := ⟨QUE_ERR, 16, 13⟩
abbrev QUE_ERR_RELAY : Fld := ⟨QUE_ERR, 17, 17⟩
abbrev QUE_ERR_PUBLISH : Fld := ⟨QUE_ERR, 18, 18⟩
/-- QUE_OUTCOUNT (07_queues.md). -/
abbrev QUE_OUTCOUNT : Nat := 0xC002C
abbrev QUE_OUTCOUNT_DROPPED : Fld := ⟨QUE_OUTCOUNT, 15, 0⟩
abbrev QUE_OUTCOUNT_TRUNCATED : Fld := ⟨QUE_OUTCOUNT, 31, 16⟩
/-- QUE_PEND (07_queues.md). -/
abbrev QUE_PEND (n : Nat) : Nat := 0xC0100 + 0x4 * n
/-- QUE_RPEND (07_queues.md). -/
abbrev QUE_RPEND (n : Nat) : Nat := 0xC0500 + 0x4 * n
/-- VIS_TRACE_CTRL (08_visibility.md). -/
abbrev VIS_TRACE_CTRL : Nat := 0x110000
abbrev VIS_TRACE_CTRL_ENABLE : Fld := ⟨VIS_TRACE_CTRL, 0, 0⟩
abbrev VIS_TRACE_CTRL_MODE : Fld := ⟨VIS_TRACE_CTRL, 1, 1⟩
abbrev VIS_TRACE_CTRL_FULL : Fld := ⟨VIS_TRACE_CTRL, 2, 2⟩
/-- VIS_TRACE_AREA (08_visibility.md). -/
abbrev VIS_TRACE_AREA : Nat := 0x110004
abbrev VIS_TRACE_AREA_SIZE_GIB : Fld := ⟨VIS_TRACE_AREA, 5, 0⟩
/-- VIS_TRACE_BASE_LO (08_visibility.md). -/
abbrev VIS_TRACE_BASE_LO : Nat := 0x110008
/-- VIS_TRACE_BASE_HI (08_visibility.md). -/
abbrev VIS_TRACE_BASE_HI : Nat := 0x11000C
abbrev VIS_TRACE_BASE_HI_ADDR : Fld := ⟨VIS_TRACE_BASE_HI, 4, 0⟩
/-- VIS_TRACE_RECLEN (08_visibility.md). -/
abbrev VIS_TRACE_RECLEN : Nat := 0x110010
abbrev VIS_TRACE_RECLEN_BYTES : Fld := ⟨VIS_TRACE_RECLEN, 13, 0⟩
/-- VIS_TRACE_RECORDS (08_visibility.md). -/
abbrev VIS_TRACE_RECORDS : Nat := 0x110014
/-- VIS_TRACE_WRITE (08_visibility.md). -/
abbrev VIS_TRACE_WRITE : Nat := 0x110018
/-- VIS_TRACE_HELD (08_visibility.md). -/
abbrev VIS_TRACE_HELD : Nat := 0x11001C
/-- VIS_TRACE_TMASK (08_visibility.md). -/
abbrev VIS_TRACE_TMASK (n : Nat) : Nat := 0x110020 + 0x4 * n
/-- VIS_TRG_FIRED0 (08_visibility.md). -/
abbrev VIS_TRG_FIRED0 : Nat := 0x110040
/-- VIS_TRG_FIRED1 (08_visibility.md). -/
abbrev VIS_TRG_FIRED1 : Nat := 0x110044
/-- VIS_TRG_ARMED0 (08_visibility.md). -/
abbrev VIS_TRG_ARMED0 : Nat := 0x110048
/-- VIS_TRG_ARMED1 (08_visibility.md). -/
abbrev VIS_TRG_ARMED1 : Nat := 0x11004C
/-- VIS_SYSTRIG0 (08_visibility.md). -/
abbrev VIS_SYSTRIG0 : Nat := 0x110050
/-- VIS_SYSTRIG1 (08_visibility.md). -/
abbrev VIS_SYSTRIG1 : Nat := 0x110054
/-- VIS_TRG_EVAL_LO (08_visibility.md). -/
abbrev VIS_TRG_EVAL_LO : Nat := 0x110058
/-- VIS_TRG_EVAL_HI (08_visibility.md). -/
abbrev VIS_TRG_EVAL_HI : Nat := 0x11005C
/-- VIS_RPL_STAT (08_visibility.md). -/
abbrev VIS_RPL_STAT : Nat := 0x110080
abbrev VIS_RPL_STAT_ACTIVE : Fld := ⟨VIS_RPL_STAT, 0, 0⟩
abbrev VIS_RPL_STAT_CAPTURING : Fld := ⟨VIS_RPL_STAT, 1, 1⟩
abbrev VIS_RPL_STAT_DONE : Fld := ⟨VIS_RPL_STAT, 2, 2⟩
abbrev VIS_RPL_STAT_ERR : Fld := ⟨VIS_RPL_STAT, 11, 8⟩
/-- VIS_RPL_AREA (08_visibility.md). -/
abbrev VIS_RPL_AREA : Nat := 0x110084
abbrev VIS_RPL_AREA_SIZE_GIB : Fld := ⟨VIS_RPL_AREA, 5, 0⟩
/-- VIS_RPL_BASE_LO (08_visibility.md). -/
abbrev VIS_RPL_BASE_LO : Nat := 0x110088
/-- VIS_RPL_BASE_HI (08_visibility.md). -/
abbrev VIS_RPL_BASE_HI : Nat := 0x11008C
abbrev VIS_RPL_BASE_HI_ADDR : Fld := ⟨VIS_RPL_BASE_HI, 4, 0⟩
/-- VIS_RPL_RECLEN (08_visibility.md). -/
abbrev VIS_RPL_RECLEN : Nat := 0x110090
abbrev VIS_RPL_RECLEN_BYTES : Fld := ⟨VIS_RPL_RECLEN, 20, 0⟩
/-- VIS_RPL_RECORDS (08_visibility.md). -/
abbrev VIS_RPL_RECORDS : Nat := 0x110094
/-- VIS_RPL_CUR_LO (08_visibility.md). -/
abbrev VIS_RPL_CUR_LO : Nat := 0x110098
/-- VIS_RPL_CUR_HI (08_visibility.md). -/
abbrev VIS_RPL_CUR_HI : Nat := 0x11009C
/-- VIS_RPL_TMASK (08_visibility.md). -/
abbrev VIS_RPL_TMASK (n : Nat) : Nat := 0x1100A0 + 0x4 * n
/-- VIS_TRG_CTRL (08_visibility.md). -/
abbrev VIS_TRG_CTRL (u : Nat) : Nat := 0x111000 + 0x20 * u
abbrev VIS_TRG_CTRL_ENABLE (u : Nat) : Fld := ⟨VIS_TRG_CTRL u, 0, 0⟩
abbrev VIS_TRG_CTRL_FUNC (u : Nat) : Fld := ⟨VIS_TRG_CTRL u, 4, 1⟩
abbrev VIS_TRG_CTRL_EDGE (u : Nat) : Fld := ⟨VIS_TRG_CTRL u, 6, 5⟩
abbrev VIS_TRG_CTRL_ONESHOT (u : Nat) : Fld := ⟨VIS_TRG_CTRL u, 7, 7⟩
abbrev VIS_TRG_CTRL_ARM_UNIT (u : Nat) : Fld := ⟨VIS_TRG_CTRL u, 13, 8⟩
abbrev VIS_TRG_CTRL_ARM_EN (u : Nat) : Fld := ⟨VIS_TRG_CTRL u, 14, 14⟩
abbrev VIS_TRG_CTRL_INREPLAY (u : Nat) : Fld := ⟨VIS_TRG_CTRL u, 15, 15⟩
abbrev VIS_TRG_CTRL_FREEZE (u : Nat) : Fld := ⟨VIS_TRG_CTRL u, 17, 16⟩
abbrev VIS_TRG_CTRL_SYSTRIG (u : Nat) : Fld := ⟨VIS_TRG_CTRL u, 18, 18⟩
abbrev VIS_TRG_CTRL_LINE (u : Nat) : Fld := ⟨VIS_TRG_CTRL u, 24, 19⟩
abbrev VIS_TRG_CTRL_TRACE_START (u : Nat) : Fld := ⟨VIS_TRG_CTRL u, 25, 25⟩
abbrev VIS_TRG_CTRL_TRACE_STOP (u : Nat) : Fld := ⟨VIS_TRG_CTRL u, 26, 26⟩
abbrev VIS_TRG_CTRL_IRQ (u : Nat) : Fld := ⟨VIS_TRG_CTRL u, 27, 27⟩
abbrev VIS_TRG_CTRL_CKP (u : Nat) : Fld := ⟨VIS_TRG_CTRL u, 28, 28⟩
abbrev VIS_TRG_CTRL_RPL_END (u : Nat) : Fld := ⟨VIS_TRG_CTRL u, 29, 29⟩
abbrev VIS_TRG_CTRL_RPL_MARK (u : Nat) : Fld := ⟨VIS_TRG_CTRL u, 30, 30⟩
/-- VIS_TRG_SRC_A (08_visibility.md). -/
abbrev VIS_TRG_SRC_A (u : Nat) : Nat := 0x111004 + 0x20 * u
abbrev VIS_TRG_SRC_A_SEL (u : Nat) : Fld := ⟨VIS_TRG_SRC_A u, 17, 0⟩
abbrev VIS_TRG_SRC_A_INV (u : Nat) : Fld := ⟨VIS_TRG_SRC_A u, 18, 18⟩
/-- VIS_TRG_SRC_B (08_visibility.md). -/
abbrev VIS_TRG_SRC_B (u : Nat) : Nat := 0x111008 + 0x20 * u
abbrev VIS_TRG_SRC_B_SEL (u : Nat) : Fld := ⟨VIS_TRG_SRC_B u, 17, 0⟩
abbrev VIS_TRG_SRC_B_INV (u : Nat) : Fld := ⟨VIS_TRG_SRC_B u, 18, 18⟩
/-- VIS_TRG_COUNT (08_visibility.md). -/
abbrev VIS_TRG_COUNT (u : Nat) : Nat := 0x11100C + 0x20 * u
/-- VIS_TRG_MATCH_LO (08_visibility.md). -/
abbrev VIS_TRG_MATCH_LO (u : Nat) : Nat := 0x111010 + 0x20 * u
/-- VIS_TRG_MATCH_HI (08_visibility.md). -/
abbrev VIS_TRG_MATCH_HI (u : Nat) : Nat := 0x111014 + 0x20 * u
/-- VIS_TRG_HIT_LO (08_visibility.md). -/
abbrev VIS_TRG_HIT_LO (u : Nat) : Nat := 0x111018 + 0x20 * u
/-- VIS_TRG_HIT_HI (08_visibility.md). -/
abbrev VIS_TRG_HIT_HI (u : Nat) : Nat := 0x11101C + 0x20 * u
/-- CAIRN_STATUS (09_cairn.md). -/
abbrev CAIRN_STATUS : Nat := 0x10000
abbrev CAIRN_STATUS_PEND : Fld := ⟨CAIRN_STATUS, 4, 0⟩
abbrev CAIRN_STATUS_LATCH_C3 : Fld := ⟨CAIRN_STATUS, 8, 8⟩
abbrev CAIRN_STATUS_LATCH_C4 : Fld := ⟨CAIRN_STATUS, 9, 9⟩
abbrev CAIRN_STATUS_OVERRUN : Fld := ⟨CAIRN_STATUS, 10, 10⟩
abbrev CAIRN_STATUS_FLT : Fld := ⟨CAIRN_STATUS, 11, 11⟩
abbrev CAIRN_STATUS_LOCKUP : Fld := ⟨CAIRN_STATUS, 12, 12⟩
abbrev CAIRN_STATUS_SAFE_DONE : Fld := ⟨CAIRN_STATUS, 13, 13⟩
/-- CAIRN_CTRL (09_cairn.md). -/
abbrev CAIRN_CTRL : Nat := 0x10004
abbrev CAIRN_CTRL_INJ_EN : Fld := ⟨CAIRN_CTRL, 0, 0⟩
abbrev CAIRN_CTRL_C0_NMI : Fld := ⟨CAIRN_CTRL, 1, 1⟩
abbrev CAIRN_CTRL_JOIN : Fld := ⟨CAIRN_CTRL, 15, 4⟩
/-- CAIRN_WIN_C (09_cairn.md). -/
abbrev CAIRN_WIN_C (n : Nat) : Nat := 0x10010 + 0x4 * n
/-- CAIRN_ACK_C (09_cairn.md). -/
abbrev CAIRN_ACK_C (n : Nat) : Nat := 0x10020 + 0x4 * n
/-- CAIRN_SEQ (09_cairn.md). -/
abbrev CAIRN_SEQ : Nat := 0x10040
/-- CAIRN_OLDEST_C (09_cairn.md). -/
abbrev CAIRN_OLDEST_C (n : Nat) : Nat := 0x10050 + 0x4 * n
/-- CAIRN_COUNT_C (09_cairn.md). -/
abbrev CAIRN_COUNT_C (n : Nat) : Nat := 0x10070 + 0x4 * n
/-- CAIRN_SRC (09_cairn.md). -/
abbrev CAIRN_SRC (s : Nat) : Nat := 0x10100 + 0x4 * s
abbrev CAIRN_SRC_CLASS (s : Nat) : Fld := ⟨CAIRN_SRC s, 2, 0⟩
abbrev CAIRN_SRC_FLOOR (s : Nat) : Fld := ⟨CAIRN_SRC s, 5, 3⟩
abbrev CAIRN_SRC_REPEAT (s : Nat) : Fld := ⟨CAIRN_SRC s, 8, 6⟩
/-- CAIRN_INJ_CTRL (09_cairn.md). -/
abbrev CAIRN_INJ_CTRL : Nat := 0x10200
abbrev CAIRN_INJ_CTRL_TARGET : Fld := ⟨CAIRN_INJ_CTRL, 3, 0⟩
abbrev CAIRN_INJ_CTRL_MASK : Fld := ⟨CAIRN_INJ_CTRL, 11, 4⟩
abbrev CAIRN_INJ_CTRL_GO : Fld := ⟨CAIRN_INJ_CTRL, 12, 12⟩
abbrev CAIRN_INJ_CTRL_DONE : Fld := ⟨CAIRN_INJ_CTRL, 13, 13⟩
abbrev CAIRN_INJ_CTRL_ERR : Fld := ⟨CAIRN_INJ_CTRL, 15, 14⟩
/-- CAIRN_INJ_ADDR_LO (09_cairn.md). -/
abbrev CAIRN_INJ_ADDR_LO : Nat := 0x10204
/-- CAIRN_INJ_ADDR_HI (09_cairn.md). -/
abbrev CAIRN_INJ_ADDR_HI : Nat := 0x10208
/-- RES_STATUS (10_resilience.md). -/
abbrev RES_STATUS : Nat := 0x120000
abbrev RES_STATUS_EPOCH : Fld := ⟨RES_STATUS, 15, 0⟩
abbrev RES_STATUS_SPLIT : Fld := ⟨RES_STATUS, 16, 16⟩
abbrev RES_STATUS_REBUILD : Fld := ⟨RES_STATUS, 17, 17⟩
abbrev RES_STATUS_RESTORING : Fld := ⟨RES_STATUS, 18, 18⟩
abbrev RES_STATUS_PROTECTED : Fld := ⟨RES_STATUS, 19, 19⟩
abbrev RES_STATUS_ADOPTED : Fld := ⟨RES_STATUS, 20, 20⟩
/-- RES_TIMING (10_resilience.md). -/
abbrev RES_TIMING : Nat := 0x120004
abbrev RES_TIMING_SETTLE : Fld := ⟨RES_TIMING, 11, 0⟩
abbrev RES_TIMING_MGR_TMO : Fld := ⟨RES_TIMING, 31, 16⟩
/-- RES_STRAND (10_resilience.md). -/
abbrev RES_STRAND : Nat := 0x120008
abbrev RES_STRAND_TIMEOUT : Fld := ⟨RES_STRAND, 19, 0⟩
/-- RES_LAST (10_resilience.md). -/
abbrev RES_LAST : Nat := 0x12000C
abbrev RES_LAST_TICKS : Fld := ⟨RES_LAST, 23, 0⟩
/-- RES_REBUILD (10_resilience.md). -/
abbrev RES_REBUILD : Nat := 0x120010
/-- RES_COUNT (10_resilience.md). -/
abbrev RES_COUNT : Nat := 0x120014
abbrev RES_COUNT_ADOPTIONS : Fld := ⟨RES_COUNT, 15, 0⟩
abbrev RES_COUNT_TAKEOVERS : Fld := ⟨RES_COUNT, 31, 16⟩
/-- RES_UNREACH0 (10_resilience.md). -/
abbrev RES_UNREACH0 : Nat := 0x120018
/-- RES_UNREACH1 (10_resilience.md). -/
abbrev RES_UNREACH1 : Nat := 0x12001C
/-- RES_LOST (10_resilience.md). -/
abbrev RES_LOST (n : Nat) : Nat := 0x120100 + 0x4 * n
/-- RES_PMAP (10_resilience.md). -/
abbrev RES_PMAP (p : Nat) : Nat := 0x121000 + 0x4 * p
abbrev RES_PMAP_POSITION (p : Nat) : Fld := ⟨RES_PMAP p, 9, 0⟩
abbrev RES_PMAP_HELD (p : Nat) : Fld := ⟨RES_PMAP p, 31, 31⟩
/-- HOST_MB_W (11_partner_ports.md). -/
abbrev HOST_MB_W (i : Nat) : Nat := 0x1000000 + 0x4 * i
/-- HOST_MB_GO (11_partner_ports.md). -/
abbrev HOST_MB_GO : Nat := 0x1000040
abbrev HOST_MB_GO_GO : Fld := ⟨HOST_MB_GO, 0, 0⟩
/-- HOST_MB_CPL (11_partner_ports.md). -/
abbrev HOST_MB_CPL (i : Nat) : Nat := 0x1000080 + 0x4 * i
/-- HOST_MB_POP (11_partner_ports.md). -/
abbrev HOST_MB_POP : Nat := 0x10000A0
abbrev HOST_MB_POP_POP : Fld := ⟨HOST_MB_POP, 0, 0⟩
/-- HOST_MB_FILL (11_partner_ports.md). -/
abbrev HOST_MB_FILL : Nat := 0x10000A4
abbrev HOST_MB_FILL_COUNT : Fld := ⟨HOST_MB_FILL, 6, 0⟩
/-- HOST_PP_STAT (11_partner_ports.md). -/
abbrev HOST_PP_STAT (n : Nat) : Nat := 0x140000 + 0x100 * n
abbrev HOST_PP_STAT_LINK_UP (n : Nat) : Fld := ⟨HOST_PP_STAT n, 0, 0⟩
abbrev HOST_PP_STAT_GEN (n : Nat) : Fld := ⟨HOST_PP_STAT n, 3, 1⟩
abbrev HOST_PP_STAT_WIDTH (n : Nat) : Fld := ⟨HOST_PP_STAT n, 7, 4⟩
abbrev HOST_PP_STAT_BME (n : Nat) : Fld := ⟨HOST_PP_STAT n, 8, 8⟩
abbrev HOST_PP_STAT_MSIX (n : Nat) : Fld := ⟨HOST_PP_STAT n, 9, 9⟩
abbrev HOST_PP_STAT_DOWNS (n : Nat) : Fld := ⟨HOST_PP_STAT n, 31, 16⟩
/-- HOST_PP_CTRL (11_partner_ports.md). -/
abbrev HOST_PP_CTRL (n : Nat) : Nat := 0x140004 + 0x100 * n
abbrev HOST_PP_CTRL_PRIV (n : Nat) : Fld := ⟨HOST_PP_CTRL n, 2, 0⟩
abbrev HOST_PP_CTRL_PROG_EVERY (n : Nat) : Fld := ⟨HOST_PP_CTRL n, 15, 8⟩
abbrev HOST_PP_CTRL_EVMASK (n : Nat) : Fld := ⟨HOST_PP_CTRL n, 31, 16⟩
/-- HOST_PP_SQ_BASE_LO (11_partner_ports.md). -/
abbrev HOST_PP_SQ_BASE_LO (n : Nat) : Nat := 0x140008 + 0x100 * n
/-- HOST_PP_SQ_BASE_HI (11_partner_ports.md). -/
abbrev HOST_PP_SQ_BASE_HI (n : Nat) : Nat := 0x14000C + 0x100 * n
/-- HOST_PP_SQ_CFG (11_partner_ports.md). -/
abbrev HOST_PP_SQ_CFG (n : Nat) : Nat := 0x140010 + 0x100 * n
abbrev HOST_PP_SQ_CFG_SIZE_LOG2 (n : Nat) : Fld := ⟨HOST_PP_SQ_CFG n, 3, 0⟩
/-- HOST_PP_SQ_TAIL (11_partner_ports.md). -/
abbrev HOST_PP_SQ_TAIL (n : Nat) : Nat := 0x140014 + 0x100 * n
abbrev HOST_PP_SQ_TAIL_INDEX (n : Nat) : Fld := ⟨HOST_PP_SQ_TAIL n, 11, 0⟩
/-- HOST_PP_SQ_HEAD (11_partner_ports.md). -/
abbrev HOST_PP_SQ_HEAD (n : Nat) : Nat := 0x140018 + 0x100 * n
abbrev HOST_PP_SQ_HEAD_INDEX (n : Nat) : Fld := ⟨HOST_PP_SQ_HEAD n, 11, 0⟩
/-- HOST_PP_CQ_BASE_LO (11_partner_ports.md). -/
abbrev HOST_PP_CQ_BASE_LO (n : Nat) : Nat := 0x140020 + 0x100 * n
/-- HOST_PP_CQ_BASE_HI (11_partner_ports.md). -/
abbrev HOST_PP_CQ_BASE_HI (n : Nat) : Nat := 0x140024 + 0x100 * n
/-- HOST_PP_CQ_CFG (11_partner_ports.md). -/
abbrev HOST_PP_CQ_CFG (n : Nat) : Nat := 0x140028 + 0x100 * n
abbrev HOST_PP_CQ_CFG_SIZE_LOG2 (n : Nat) : Fld := ⟨HOST_PP_CQ_CFG n, 3, 0⟩
/-- HOST_PP_CQ_HEAD (11_partner_ports.md). -/
abbrev HOST_PP_CQ_HEAD (n : Nat) : Nat := 0x14002C + 0x100 * n
abbrev HOST_PP_CQ_HEAD_INDEX (n : Nat) : Fld := ⟨HOST_PP_CQ_HEAD n, 11, 0⟩
/-- HOST_PP_CQ_TAIL (11_partner_ports.md). -/
abbrev HOST_PP_CQ_TAIL (n : Nat) : Nat := 0x140030 + 0x100 * n
abbrev HOST_PP_CQ_TAIL_INDEX (n : Nat) : Fld := ⟨HOST_PP_CQ_TAIL n, 11, 0⟩
/-- HOST_PP_ACTIVE (11_partner_ports.md). -/
abbrev HOST_PP_ACTIVE (n : Nat) : Nat := 0x140034 + 0x100 * n
abbrev HOST_PP_ACTIVE_COUNT (n : Nat) : Fld := ⟨HOST_PP_ACTIVE n, 6, 0⟩
/-- HOST_PP_DROP (11_partner_ports.md). -/
abbrev HOST_PP_DROP (n : Nat) : Nat := 0x140038 + 0x100 * n
abbrev HOST_PP_DROP_EVENTS (n : Nat) : Fld := ⟨HOST_PP_DROP n, 15, 0⟩
abbrev HOST_PP_DROP_PROGRESS (n : Nat) : Fld := ⟨HOST_PP_DROP n, 31, 16⟩
/-- HOST_PP_BUSERR (11_partner_ports.md). -/
abbrev HOST_PP_BUSERR (n : Nat) : Nat := 0x14003C + 0x100 * n
abbrev HOST_PP_BUSERR_LAST (n : Nat) : Fld := ⟨HOST_PP_BUSERR n, 1, 0⟩
abbrev HOST_PP_BUSERR_COUNT (n : Nat) : Fld := ⟨HOST_PP_BUSERR n, 31, 16⟩
/-- HOST_RELAY (11_partner_ports.md). -/
abbrev HOST_RELAY : Nat := 0x141000
abbrev HOST_RELAY_ACTIVE : Fld := ⟨HOST_RELAY, 8, 0⟩
/-- HOST_BAR2_DROP (11_partner_ports.md). -/
abbrev HOST_BAR2_DROP : Nat := 0x141004
/-- NVM_STATUS (12_boot_and_images.md). -/
abbrev NVM_STATUS : Nat := 0x300000
abbrev NVM_STATUS_USED : Fld := ⟨NVM_STATUS, 1, 0⟩
abbrev NVM_STATUS_QUAD : Fld := ⟨NVM_STATUS, 2, 2⟩
abbrev NVM_STATUS_A_FAIL : Fld := ⟨NVM_STATUS, 11, 8⟩
abbrev NVM_STATUS_B_FAIL : Fld := ⟨NVM_STATUS, 15, 12⟩
/-- NVM_FLASH (12_boot_and_images.md). -/
abbrev NVM_FLASH : Nat := 0x300004
abbrev NVM_FLASH_SIZE_LOG2 : Fld := ⟨NVM_FLASH, 7, 0⟩
/-- NVM_TIME (12_boot_and_images.md). -/
abbrev NVM_TIME : Nat := 0x300008
/-- NVM_LENGTH (12_boot_and_images.md). -/
abbrev NVM_LENGTH : Nat := 0x30000C
abbrev NVM_LENGTH_BYTES : Fld := ⟨NVM_LENGTH, 23, 0⟩
/-- GCORE_CTL (14_guide_pipeline.md). -/
abbrev GCORE_CTL (n : Nat) : Nat := 0x160000 + 0x40 * n
abbrev GCORE_CTL_RUN (n : Nat) : Fld := ⟨GCORE_CTL n, 0, 0⟩
abbrev GCORE_CTL_RESET (n : Nat) : Fld := ⟨GCORE_CTL n, 1, 1⟩
abbrev GCORE_CTL_DET (n : Nat) : Fld := ⟨GCORE_CTL n, 2, 2⟩
abbrev GCORE_CTL_SCREED_NC (n : Nat) : Fld := ⟨GCORE_CTL n, 3, 3⟩
abbrev GCORE_CTL_HBM_NC (n : Nat) : Fld := ⟨GCORE_CTL n, 4, 4⟩
abbrev GCORE_CTL_ICINV (n : Nat) : Fld := ⟨GCORE_CTL n, 5, 5⟩
abbrev GCORE_CTL_DCINV (n : Nat) : Fld := ⟨GCORE_CTL n, 6, 6⟩
/-- GCORE_STAT (14_guide_pipeline.md). -/
abbrev GCORE_STAT (n : Nat) : Nat := 0x160004 + 0x40 * n
abbrev GCORE_STAT_STATE (n : Nat) : Fld := ⟨GCORE_STAT n, 2, 0⟩
abbrev GCORE_STAT_S (n : Nat) : Fld := ⟨GCORE_STAT n, 3, 3⟩
abbrev GCORE_STAT_IE (n : Nat) : Fld := ⟨GCORE_STAT n, 4, 4⟩
abbrev GCORE_STAT_NMI_ACTIVE (n : Nat) : Fld := ⟨GCORE_STAT n, 5, 5⟩
abbrev GCORE_STAT_SBUF_EMPTY (n : Nat) : Fld := ⟨GCORE_STAT n, 6, 6⟩
abbrev GCORE_STAT_RESV (n : Nat) : Fld := ⟨GCORE_STAT n, 7, 7⟩
abbrev GCORE_STAT_VECTOR (n : Nat) : Fld := ⟨GCORE_STAT n, 11, 8⟩
/-- GCORE_PC (14_guide_pipeline.md). -/
abbrev GCORE_PC (n : Nat) : Nat := 0x160008 + 0x40 * n
abbrev GCORE_PC_PC (n : Nat) : Fld := ⟨GCORE_PC n, 19, 0⟩
/-- GCORE_APBASE (14_guide_pipeline.md). -/
abbrev GCORE_APBASE (n : Nat) : Nat := 0x16000C + 0x40 * n
abbrev GCORE_APBASE_BASE (n : Nat) : Fld := ⟨GCORE_APBASE n, 20, 0⟩
/-- GCORE_PBASE (14_guide_pipeline.md). -/
abbrev GCORE_PBASE (n : Nat) : Nat := 0x160010 + 0x40 * n
abbrev GCORE_PBASE_BASE (n : Nat) : Fld := ⟨GCORE_PBASE n, 15, 0⟩
abbrev GCORE_PBASE_VALID (n : Nat) : Fld := ⟨GCORE_PBASE n, 31, 31⟩
/-- GCORE_LOCK (14_guide_pipeline.md). -/
abbrev GCORE_LOCK (n : Nat) : Nat := 0x160014 + 0x40 * n
abbrev GCORE_LOCK_CAUSE (n : Nat) : Fld := ⟨GCORE_LOCK n, 1, 0⟩
abbrev GCORE_LOCK_VECTOR (n : Nat) : Fld := ⟨GCORE_LOCK n, 7, 4⟩
/-- GCORE_ECC (14_guide_pipeline.md). -/
abbrev GCORE_ECC (n : Nat) : Nat := 0x160018 + 0x40 * n
abbrev GCORE_ECC_PROGRAM (n : Nat) : Fld := ⟨GCORE_ECC n, 15, 0⟩
abbrev GCORE_ECC_DATA (n : Nat) : Fld := ⟨GCORE_ECC n, 31, 16⟩
/-- GCORE_RETIRED (14_guide_pipeline.md). -/
abbrev GCORE_RETIRED (n : Nat) : Nat := 0x16001C + 0x40 * n
/-- GCORE_PAIRED (14_guide_pipeline.md). -/
abbrev GCORE_PAIRED (n : Nat) : Nat := 0x160020 + 0x40 * n
/-- GCORE_MISS (14_guide_pipeline.md). -/
abbrev GCORE_MISS (n : Nat) : Nat := 0x160024 + 0x40 * n
abbrev GCORE_MISS_IMISS (n : Nat) : Fld := ⟨GCORE_MISS n, 15, 0⟩
abbrev GCORE_MISS_MISPRED (n : Nat) : Fld := ⟨GCORE_MISS n, 31, 16⟩
/-- GCORE_PSEL (14_guide_pipeline.md). -/
abbrev GCORE_PSEL : Nat := 0x161000
abbrev GCORE_PSEL_ADDR : Fld := ⟨GCORE_PSEL, 15, 0⟩
abbrev GCORE_PSEL_CORE : Fld := ⟨GCORE_PSEL, 20, 16⟩
abbrev GCORE_PSEL_AUTOINC : Fld := ⟨GCORE_PSEL, 31, 31⟩
/-- GCORE_PDATA (14_guide_pipeline.md). -/
abbrev GCORE_PDATA : Nat := 0x161004
abbrev GCORE_PDATA_WORD : Fld := ⟨GCORE_PDATA, 13, 0⟩
/-- GCORE_PERR (14_guide_pipeline.md). -/
abbrev GCORE_PERR : Nat := 0x161008
abbrev GCORE_PERR_ADDR : Fld := ⟨GCORE_PERR, 15, 0⟩
abbrev GCORE_PERR_CORE : Fld := ⟨GCORE_PERR, 20, 16⟩
abbrev GCORE_PERR_VALID : Fld := ⟨GCORE_PERR, 31, 31⟩
/-- GCORE_LOCKED (14_guide_pipeline.md). -/
abbrev GCORE_LOCKED : Nat := 0x16100C
/-- ICU_GCTRL (15_interrupts_timers.md). -/
abbrev ICU_GCTRL : Nat := 0x170000
abbrev ICU_GCTRL_DISABLE : Fld := ⟨ICU_GCTRL, 0, 0⟩
/-- ICU_SWI (15_interrupts_timers.md). -/
abbrev ICU_SWI : Nat := 0x170004
abbrev ICU_SWI_INDEX : Fld := ⟨ICU_SWI, 5, 0⟩
/-- ICU_PEND (15_interrupts_timers.md). -/
abbrev ICU_PEND (n : Nat) : Nat := 0x170080 + 0x4 * n
/-- ICU_ACTIVE (15_interrupts_timers.md). -/
abbrev ICU_ACTIVE (n : Nat) : Nat := 0x1700C0 + 0x4 * n
/-- ICU_THRESH (15_interrupts_timers.md). -/
abbrev ICU_THRESH (c : Nat) : Nat := 0x170400 + 0x10 * c
abbrev ICU_THRESH_THRESH (c : Nat) : Fld := ⟨ICU_THRESH c, 3, 0⟩
/-- ICU_CLAIM (15_interrupts_timers.md). -/
abbrev ICU_CLAIM (c : Nat) : Nat := 0x170404 + 0x10 * c
abbrev ICU_CLAIM_SOURCE (c : Nat) : Fld := ⟨ICU_CLAIM c, 8, 0⟩
abbrev ICU_CLAIM_PRIO (c : Nat) : Fld := ⟨ICU_CLAIM c, 15, 12⟩
abbrev ICU_CLAIM_NONE (c : Nat) : Fld := ⟨ICU_CLAIM c, 31, 31⟩
/-- ICU_COMPLETE (15_interrupts_timers.md). -/
abbrev ICU_COMPLETE (c : Nat) : Nat := 0x170408 + 0x10 * c
abbrev ICU_COMPLETE_SOURCE (c : Nat) : Fld := ⟨ICU_COMPLETE c, 8, 0⟩
/-- ICU_RUNPRI (15_interrupts_timers.md). -/
abbrev ICU_RUNPRI (c : Nat) : Nat := 0x17040C + 0x10 * c
abbrev ICU_RUNPRI_RUNPRI (c : Nat) : Fld := ⟨ICU_RUNPRI c, 3, 0⟩
/-- ICU_SRC (15_interrupts_timers.md). -/
abbrev ICU_SRC (s : Nat) : Nat := 0x171000 + 0x4 * s
abbrev ICU_SRC_PRIO (s : Nat) : Fld := ⟨ICU_SRC s, 3, 0⟩
abbrev ICU_SRC_TARGET (s : Nat) : Fld := ⟨ICU_SRC s, 8, 4⟩
abbrev ICU_SRC_KIND (s : Nat) : Fld := ⟨ICU_SRC s, 9, 9⟩
abbrev ICU_SRC_PENDING (s : Nat) : Fld := ⟨ICU_SRC s, 10, 10⟩
abbrev ICU_SRC_ACTIVE (s : Nat) : Fld := ⟨ICU_SRC s, 11, 11⟩
abbrev ICU_SRC_CLRPEND (s : Nat) : Fld := ⟨ICU_SRC s, 12, 12⟩
abbrev ICU_SRC_SENSE (s : Nat) : Fld := ⟨ICU_SRC s, 18, 16⟩
abbrev ICU_SRC_FILTER (s : Nat) : Fld := ⟨ICU_SRC s, 31, 24⟩
/-- TMR_CFG (15_interrupts_timers.md). -/
abbrev TMR_CFG (n : Nat) : Nat := 0x180000 + 0x40 * n
abbrev TMR_CFG_PSC (n : Nat) : Fld := ⟨TMR_CFG n, 3, 0⟩
abbrev TMR_CFG_SLAVE (n : Nat) : Fld := ⟨TMR_CFG n, 5, 4⟩
abbrev TMR_CFG_MOUT (n : Nat) : Fld := ⟨TMR_CFG n, 8, 6⟩
/-- TMR_TOP (15_interrupts_timers.md). -/
abbrev TMR_TOP (n : Nat) : Nat := 0x180004 + 0x40 * n
/-- TMR_COUNT (15_interrupts_timers.md). -/
abbrev TMR_COUNT (n : Nat) : Nat := 0x180008 + 0x40 * n
/-- TMR_LATCH (15_interrupts_timers.md). -/
abbrev TMR_LATCH (n : Nat) : Nat := 0x18000C + 0x40 * n
/-- TMR_CMP (15_interrupts_timers.md). -/
abbrev TMR_CMP (n : Nat) (j : Nat) : Nat := 0x180010 + 0x40 * n + 0x4 * j
/-- TMR_OUT (15_interrupts_timers.md). -/
abbrev TMR_OUT (n : Nat) : Nat := 0x180020 + 0x40 * n
abbrev TMR_OUT_MODES (n : Nat) : Fld := ⟨TMR_OUT n, 11, 0⟩
abbrev TMR_OUT_LEVEL (n : Nat) : Fld := ⟨TMR_OUT n, 19, 16⟩
/-- TMR_CAPSEL (15_interrupts_timers.md). -/
abbrev TMR_CAPSEL (n : Nat) : Nat := 0x180024 + 0x40 * n
abbrev TMR_CAPSEL_PIN0 (n : Nat) : Fld := ⟨TMR_CAPSEL n, 5, 0⟩
abbrev TMR_CAPSEL_PIN1 (n : Nat) : Fld := ⟨TMR_CAPSEL n, 21, 16⟩
abbrev TMR_CAPSEL_MASTER0 (n : Nat) : Fld := ⟨TMR_CAPSEL n, 6, 6⟩
abbrev TMR_CAPSEL_MASTER1 (n : Nat) : Fld := ⟨TMR_CAPSEL n, 22, 22⟩
abbrev TMR_CAPSEL_EDGE0 (n : Nat) : Fld := ⟨TMR_CAPSEL n, 9, 8⟩
abbrev TMR_CAPSEL_EDGE1 (n : Nat) : Fld := ⟨TMR_CAPSEL n, 25, 24⟩
/-- TMR_CAP (15_interrupts_timers.md). -/
abbrev TMR_CAP (n : Nat) (k : Nat) : Nat := 0x180028 + 0x40 * n + 0x4 * k
/-- TMR_STAT (15_interrupts_timers.md). -/
abbrev TMR_STAT (n : Nat) : Nat := 0x180030 + 0x40 * n
abbrev TMR_STAT_WRAP (n : Nat) : Fld := ⟨TMR_STAT n, 0, 0⟩
abbrev TMR_STAT_CMP (n : Nat) : Fld := ⟨TMR_STAT n, 4, 1⟩
abbrev TMR_STAT_NEW (n : Nat) : Fld := ⟨TMR_STAT n, 6, 5⟩
abbrev TMR_STAT_OVR (n : Nat) : Fld := ⟨TMR_STAT n, 8, 7⟩
/-- TMR_IEN (15_interrupts_timers.md). -/
abbrev TMR_IEN (n : Nat) : Nat := 0x180034 + 0x40 * n
abbrev TMR_IEN_IEN (n : Nat) : Fld := ⟨TMR_IEN n, 8, 0⟩
/-- TMR_SYSTIME_LO (15_interrupts_timers.md). -/
abbrev TMR_SYSTIME_LO : Nat := 0x180400
/-- TMR_SYSTIME_HI (15_interrupts_timers.md). -/
abbrev TMR_SYSTIME_HI : Nat := 0x180404
/-- TMR_ALARM_LO (15_interrupts_timers.md). -/
abbrev TMR_ALARM_LO : Nat := 0x180408
/-- TMR_ALARM_HI (15_interrupts_timers.md). -/
abbrev TMR_ALARM_HI : Nat := 0x18040C
/-- TMR_WDT_CTL (15_interrupts_timers.md). -/
abbrev TMR_WDT_CTL (c : Nat) : Nat := 0x180800 + 0x20 * c
abbrev TMR_WDT_CTL_ENABLE (c : Nat) : Fld := ⟨TMR_WDT_CTL c, 0, 0⟩
abbrev TMR_WDT_CTL_ACTION (c : Nat) : Fld := ⟨TMR_WDT_CTL c, 2, 1⟩
/-- TMR_WDT_LOAD (15_interrupts_timers.md). -/
abbrev TMR_WDT_LOAD (c : Nat) : Nat := 0x180804 + 0x20 * c
/-- TMR_WDT_WARN (15_interrupts_timers.md). -/
abbrev TMR_WDT_WARN (c : Nat) : Nat := 0x180808 + 0x20 * c
/-- TMR_WDT_KICK (15_interrupts_timers.md). -/
abbrev TMR_WDT_KICK (c : Nat) : Nat := 0x18080C + 0x20 * c
abbrev TMR_WDT_KICK_KEY (c : Nat) : Fld := ⟨TMR_WDT_KICK c, 15, 0⟩
/-- TMR_WDT_COUNT (15_interrupts_timers.md). -/
abbrev TMR_WDT_COUNT (c : Nat) : Nat := 0x180810 + 0x20 * c
/-- GPIO_PIN (16_pins.md). -/
abbrev GPIO_PIN (n : Nat) : Nat := 0x190000 + 0x4 * n
abbrev GPIO_PIN_FUNC (n : Nat) : Fld := ⟨GPIO_PIN n, 3, 0⟩
abbrev GPIO_PIN_PULL (n : Nat) : Fld := ⟨GPIO_PIN n, 5, 4⟩
abbrev GPIO_PIN_OE (n : Nat) : Fld := ⟨GPIO_PIN n, 6, 6⟩
abbrev GPIO_PIN_OUT (n : Nat) : Fld := ⟨GPIO_PIN n, 7, 7⟩
abbrev GPIO_PIN_SAFE (n : Nat) : Fld := ⟨GPIO_PIN n, 9, 8⟩
abbrev GPIO_PIN_MERGE (n : Nat) : Fld := ⟨GPIO_PIN n, 10, 10⟩
abbrev GPIO_PIN_HOLD (n : Nat) : Fld := ⟨GPIO_PIN n, 11, 11⟩
abbrev GPIO_PIN_MHOLD (n : Nat) : Fld := ⟨GPIO_PIN n, 12, 12⟩
abbrev GPIO_PIN_HELD (n : Nat) : Fld := ⟨GPIO_PIN n, 13, 13⟩
abbrev GPIO_PIN_IN (n : Nat) : Fld := ⟨GPIO_PIN n, 14, 14⟩
/-- GPIO_IN_A (16_pins.md). -/
abbrev GPIO_IN_A : Nat := 0x190100
/-- GPIO_IN_B (16_pins.md). -/
abbrev GPIO_IN_B : Nat := 0x190104
/-- GPIO_SET_A (16_pins.md). -/
abbrev GPIO_SET_A : Nat := 0x190108
/-- GPIO_SET_B (16_pins.md). -/
abbrev GPIO_SET_B : Nat := 0x19010C
/-- GPIO_CLR_A (16_pins.md). -/
abbrev GPIO_CLR_A : Nat := 0x190110
/-- GPIO_CLR_B (16_pins.md). -/
abbrev GPIO_CLR_B : Nat := 0x190114
/-- GPIO_BANK (16_pins.md). -/
abbrev GPIO_BANK : Nat := 0x190120
abbrev GPIO_BANK_A_GOOD : Fld := ⟨GPIO_BANK, 0, 0⟩
abbrev GPIO_BANK_B_GOOD : Fld := ⟨GPIO_BANK, 1, 1⟩
/-- DMA_SRC_LO (17_dma_mailbox_float.md). -/
abbrev DMA_SRC_LO (n : Nat) : Nat := 0x1A0000 + 0x40 * n
/-- DMA_SRC_HI (17_dma_mailbox_float.md). -/
abbrev DMA_SRC_HI (n : Nat) : Nat := 0x1A0004 + 0x40 * n
abbrev DMA_SRC_HI_ADDR (n : Nat) : Fld := ⟨DMA_SRC_HI n, 7, 0⟩
/-- DMA_DST_LO (17_dma_mailbox_float.md). -/
abbrev DMA_DST_LO (n : Nat) : Nat := 0x1A0008 + 0x40 * n
/-- DMA_DST_HI (17_dma_mailbox_float.md). -/
abbrev DMA_DST_HI (n : Nat) : Nat := 0x1A000C + 0x40 * n
abbrev DMA_DST_HI_ADDR (n : Nat) : Fld := ⟨DMA_DST_HI n, 7, 0⟩
/-- DMA_LEN (17_dma_mailbox_float.md). -/
abbrev DMA_LEN (n : Nat) : Nat := 0x1A0010 + 0x40 * n
abbrev DMA_LEN_LEN (n : Nat) : Fld := ⟨DMA_LEN n, 23, 0⟩
/-- DMA_CFG (17_dma_mailbox_float.md). -/
abbrev DMA_CFG (n : Nat) : Nat := 0x1A0014 + 0x40 * n
abbrev DMA_CFG_SWAP (n : Nat) : Fld := ⟨DMA_CFG n, 1, 0⟩
abbrev DMA_CFG_SRC_WRAP (n : Nat) : Fld := ⟨DMA_CFG n, 6, 2⟩
abbrev DMA_CFG_DST_WRAP (n : Nat) : Fld := ⟨DMA_CFG n, 11, 7⟩
abbrev DMA_CFG_IEN_DONE (n : Nat) : Fld := ⟨DMA_CFG n, 12, 12⟩
abbrev DMA_CFG_IEN_ERR (n : Nat) : Fld := ⟨DMA_CFG n, 13, 13⟩
/-- DMA_CTRL (17_dma_mailbox_float.md). -/
abbrev DMA_CTRL (n : Nat) : Nat := 0x1A0018 + 0x40 * n
abbrev DMA_CTRL_START (n : Nat) : Fld := ⟨DMA_CTRL n, 0, 0⟩
abbrev DMA_CTRL_STOP (n : Nat) : Fld := ⟨DMA_CTRL n, 1, 1⟩
/-- DMA_STAT (17_dma_mailbox_float.md). -/
abbrev DMA_STAT (n : Nat) : Nat := 0x1A001C + 0x40 * n
abbrev DMA_STAT_BUSY (n : Nat) : Fld := ⟨DMA_STAT n, 0, 0⟩
abbrev DMA_STAT_DONE (n : Nat) : Fld := ⟨DMA_STAT n, 1, 1⟩
abbrev DMA_STAT_ERR (n : Nat) : Fld := ⟨DMA_STAT n, 2, 2⟩
abbrev DMA_STAT_CODE (n : Nat) : Fld := ⟨DMA_STAT n, 6, 3⟩
/-- DMA_COUNT (17_dma_mailbox_float.md). -/
abbrev DMA_COUNT (n : Nat) : Nat := 0x1A0020 + 0x40 * n
abbrev DMA_COUNT_BYTES (n : Nat) : Fld := ⟨DMA_COUNT n, 24, 0⟩
/-- DMA_FADDR_LO (17_dma_mailbox_float.md). -/
abbrev DMA_FADDR_LO (n : Nat) : Nat := 0x1A0024 + 0x40 * n
/-- DMA_FADDR_HI (17_dma_mailbox_float.md). -/
abbrev DMA_FADDR_HI (n : Nat) : Nat := 0x1A0028 + 0x40 * n
abbrev DMA_FADDR_HI_ADDR (n : Nat) : Fld := ⟨DMA_FADDR_HI n, 7, 0⟩
/-- MBX_SEND_W (17_dma_mailbox_float.md). -/
abbrev MBX_SEND_W (c : Nat) (i : Nat) : Nat := 0x1C0000 + 0x2000 * c + 0x4 * i
/-- MBX_SEND_GO (17_dma_mailbox_float.md). -/
abbrev MBX_SEND_GO (c : Nat) : Nat := 0x1C0040 + 0x2000 * c
abbrev MBX_SEND_GO_GO (c : Nat) : Fld := ⟨MBX_SEND_GO c, 0, 0⟩
/-- MBX_RX_W (17_dma_mailbox_float.md). -/
abbrev MBX_RX_W (c : Nat) (k : Nat) (i : Nat) : Nat := 0x1C0800 + 0x2000 * c + 0x80 * k + 0x4 * i
/-- MBX_RX_PEND_LO (17_dma_mailbox_float.md). -/
abbrev MBX_RX_PEND_LO (c : Nat) : Nat := 0x1C1C00 + 0x2000 * c
/-- MBX_RX_PEND_HI (17_dma_mailbox_float.md). -/
abbrev MBX_RX_PEND_HI (c : Nat) : Nat := 0x1C1C04 + 0x2000 * c
abbrev MBX_RX_PEND_HI_FULL (c : Nat) : Fld := ⟨MBX_RX_PEND_HI c, 3, 0⟩
/-- MBX_RX_RELEASE (17_dma_mailbox_float.md). -/
abbrev MBX_RX_RELEASE (c : Nat) : Nat := 0x1C1C08 + 0x2000 * c
abbrev MBX_RX_RELEASE_CHANNEL (c : Nat) : Fld := ⟨MBX_RX_RELEASE c, 5, 0⟩
/-- MBX_RX_IEN_LO (17_dma_mailbox_float.md). -/
abbrev MBX_RX_IEN_LO (c : Nat) : Nat := 0x1C1C0C + 0x2000 * c
/-- MBX_RX_IEN_HI (17_dma_mailbox_float.md). -/
abbrev MBX_RX_IEN_HI (c : Nat) : Nat := 0x1C1C10 + 0x2000 * c
abbrev MBX_RX_IEN_HI_IEN (c : Nat) : Fld := ⟨MBX_RX_IEN_HI c, 3, 0⟩
/-- MBX_CTL (17_dma_mailbox_float.md). -/
abbrev MBX_CTL (c : Nat) : Nat := 0x1C1C14 + 0x2000 * c
abbrev MBX_CTL_PARK (c : Nat) : Fld := ⟨MBX_CTL c, 0, 0⟩
abbrev MBX_CTL_WAKE_RUN (c : Nat) : Fld := ⟨MBX_CTL c, 1, 1⟩
abbrev MBX_CTL_PARKED (c : Nat) : Fld := ⟨MBX_CTL c, 2, 2⟩
/-- FLOAT_OP (17_dma_mailbox_float.md). -/
abbrev FLOAT_OP : Nat := 0x1B0000
abbrev FLOAT_OP_OP : Fld := ⟨FLOAT_OP, 1, 0⟩
abbrev FLOAT_OP_SFMT : Fld := ⟨FLOAT_OP, 3, 2⟩
abbrev FLOAT_OP_DFMT : Fld := ⟨FLOAT_OP, 5, 4⟩
abbrev FLOAT_OP_PP : Fld := ⟨FLOAT_OP, 6, 6⟩
abbrev FLOAT_OP_IEN_DONE : Fld := ⟨FLOAT_OP, 7, 7⟩
abbrev FLOAT_OP_IEN_ERR : Fld := ⟨FLOAT_OP, 8, 8⟩
/-- FLOAT_SRC_LO (17_dma_mailbox_float.md). -/
abbrev FLOAT_SRC_LO : Nat := 0x1B0004
/-- FLOAT_SRC_HI (17_dma_mailbox_float.md). -/
abbrev FLOAT_SRC_HI : Nat := 0x1B0008
abbrev FLOAT_SRC_HI_ADDR : Fld := ⟨FLOAT_SRC_HI, 7, 0⟩
/-- FLOAT_SPITCH (17_dma_mailbox_float.md). -/
abbrev FLOAT_SPITCH : Nat := 0x1B000C
abbrev FLOAT_SPITCH_PITCH : Fld := ⟨FLOAT_SPITCH, 19, 0⟩
/-- FLOAT_DST_LO (17_dma_mailbox_float.md). -/
abbrev FLOAT_DST_LO : Nat := 0x1B0010
/-- FLOAT_DST_HI (17_dma_mailbox_float.md). -/
abbrev FLOAT_DST_HI : Nat := 0x1B0014
abbrev FLOAT_DST_HI_ADDR : Fld := ⟨FLOAT_DST_HI, 7, 0⟩
/-- FLOAT_DPITCH (17_dma_mailbox_float.md). -/
abbrev FLOAT_DPITCH : Nat := 0x1B0018
abbrev FLOAT_DPITCH_PITCH : Fld := ⟨FLOAT_DPITCH, 19, 0⟩
/-- FLOAT_SIZE (17_dma_mailbox_float.md). -/
abbrev FLOAT_SIZE : Nat := 0x1B001C
abbrev FLOAT_SIZE_W : Fld := ⟨FLOAT_SIZE, 13, 0⟩
abbrev FLOAT_SIZE_H : Fld := ⟨FLOAT_SIZE, 29, 16⟩
/-- FLOAT_COLOR (17_dma_mailbox_float.md). -/
abbrev FLOAT_COLOR : Nat := 0x1B0020
/-- FLOAT_GALPHA (17_dma_mailbox_float.md). -/
abbrev FLOAT_GALPHA : Nat := 0x1B0024
abbrev FLOAT_GALPHA_G : Fld := ⟨FLOAT_GALPHA, 9, 0⟩
/-- FLOAT_CTRL (17_dma_mailbox_float.md). -/
abbrev FLOAT_CTRL : Nat := 0x1B0028
abbrev FLOAT_CTRL_START : Fld := ⟨FLOAT_CTRL, 0, 0⟩
abbrev FLOAT_CTRL_ABORT : Fld := ⟨FLOAT_CTRL, 1, 1⟩
/-- FLOAT_STAT (17_dma_mailbox_float.md). -/
abbrev FLOAT_STAT : Nat := 0x1B002C
abbrev FLOAT_STAT_BUSY : Fld := ⟨FLOAT_STAT, 0, 0⟩
abbrev FLOAT_STAT_DONE : Fld := ⟨FLOAT_STAT, 1, 1⟩
abbrev FLOAT_STAT_ERR : Fld := ⟨FLOAT_STAT, 2, 2⟩
abbrev FLOAT_STAT_CODE : Fld := ⟨FLOAT_STAT, 6, 3⟩
abbrev FLOAT_STAT_ROWS : Fld := ⟨FLOAT_STAT, 29, 16⟩
/-- VID_CTRL (18_video_bridge.md). -/
abbrev VID_CTRL : Nat := 0x200000
abbrev VID_CTRL_ENABLE : Fld := ⟨VID_CTRL, 0, 0⟩
abbrev VID_CTRL_BLANK : Fld := ⟨VID_CTRL, 1, 1⟩
/-- VID_STAT (18_video_bridge.md). -/
abbrev VID_STAT : Nat := 0x200004
abbrev VID_STAT_VBLANK : Fld := ⟨VID_STAT, 0, 0⟩
abbrev VID_STAT_LINE : Fld := ⟨VID_STAT, 27, 16⟩
/-- VID_COMMIT (18_video_bridge.md). -/
abbrev VID_COMMIT : Nat := 0x200008
abbrev VID_COMMIT_GO : Fld := ⟨VID_COMMIT, 0, 0⟩
abbrev VID_COMMIT_ERR : Fld := ⟨VID_COMMIT, 11, 8⟩
/-- VID_FRAMES (18_video_bridge.md). -/
abbrev VID_FRAMES : Nat := 0x20000C
/-- VID_BG (18_video_bridge.md). -/
abbrev VID_BG : Nat := 0x200010
abbrev VID_BG_RGB : Fld := ⟨VID_BG, 29, 0⟩
/-- VID_OUT (18_video_bridge.md). -/
abbrev VID_OUT : Nat := 0x200014
abbrev VID_OUT_BPC : Fld := ⟨VID_OUT, 1, 0⟩
/-- VID_HTIM (18_video_bridge.md). -/
abbrev VID_HTIM : Nat := 0x200020
abbrev VID_HTIM_HACTIVE : Fld := ⟨VID_HTIM, 12, 0⟩
abbrev VID_HTIM_HTOTAL : Fld := ⟨VID_HTIM, 28, 16⟩
/-- VID_HSYNC (18_video_bridge.md). -/
abbrev VID_HSYNC : Nat := 0x200024
abbrev VID_HSYNC_START : Fld := ⟨VID_HSYNC, 12, 0⟩
abbrev VID_HSYNC_WIDTH : Fld := ⟨VID_HSYNC, 24, 16⟩
abbrev VID_HSYNC_POL : Fld := ⟨VID_HSYNC, 31, 31⟩
/-- VID_VTIM (18_video_bridge.md). -/
abbrev VID_VTIM : Nat := 0x200028
abbrev VID_VTIM_VACTIVE : Fld := ⟨VID_VTIM, 11, 0⟩
abbrev VID_VTIM_VTOTAL : Fld := ⟨VID_VTIM, 27, 16⟩
/-- VID_VSYNC (18_video_bridge.md). -/
abbrev VID_VSYNC : Nat := 0x20002C
abbrev VID_VSYNC_START : Fld := ⟨VID_VSYNC, 11, 0⟩
abbrev VID_VSYNC_WIDTH : Fld := ⟨VID_VSYNC, 23, 16⟩
abbrev VID_VSYNC_POL : Fld := ⟨VID_VSYNC, 31, 31⟩
/-- VID_PCLK (18_video_bridge.md). -/
abbrev VID_PCLK : Nat := 0x200030
abbrev VID_PCLK_KHZ : Fld := ⟨VID_PCLK, 19, 0⟩
/-- VID_LL_BASE (18_video_bridge.md). -/
abbrev VID_LL_BASE : Nat := 0x200034
abbrev VID_LL_BASE_BASE : Fld := ⟨VID_LL_BASE, 26, 0⟩
abbrev VID_LL_BASE_EN : Fld := ⟨VID_LL_BASE, 31, 31⟩
/-- VID_LL_STAT (18_video_bridge.md). -/
abbrev VID_LL_STAT : Nat := 0x200038
abbrev VID_LL_STAT_EXCESS : Fld := ⟨VID_LL_STAT, 15, 0⟩
abbrev VID_LL_STAT_ORDER : Fld := ⟨VID_LL_STAT, 31, 16⟩
/-- VID_IEN (18_video_bridge.md). -/
abbrev VID_IEN : Nat := 0x200040
abbrev VID_IEN_IEN : Fld := ⟨VID_IEN, 5, 0⟩
/-- VID_ISTAT (18_video_bridge.md). -/
abbrev VID_ISTAT : Nat := 0x200044
abbrev VID_ISTAT_EVENTS : Fld := ⟨VID_ISTAT, 5, 0⟩
/-- VID_RC_MISMATCH (18_video_bridge.md). -/
abbrev VID_RC_MISMATCH : Nat := 0x200048
abbrev VID_RC_MISMATCH_BITS : Fld := ⟨VID_RC_MISMATCH, 15, 0⟩
/-- VID_RC_DONE (18_video_bridge.md). -/
abbrev VID_RC_DONE : Nat := 0x20004C
abbrev VID_RC_DONE_BITS : Fld := ⟨VID_RC_DONE, 15, 0⟩
/-- VID_L_CFG (18_video_bridge.md). -/
abbrev VID_L_CFG (n : Nat) : Nat := 0x201000 + 0x40 * n
abbrev VID_L_CFG_EN (n : Nat) : Fld := ⟨VID_L_CFG n, 0, 0⟩
abbrev VID_L_CFG_FMT (n : Nat) : Fld := ⟨VID_L_CFG n, 3, 1⟩
abbrev VID_L_CFG_TILE (n : Nat) : Fld := ⟨VID_L_CFG n, 4, 4⟩
abbrev VID_L_CFG_ROT (n : Nat) : Fld := ⟨VID_L_CFG n, 6, 5⟩
abbrev VID_L_CFG_MIRROR (n : Nat) : Fld := ⟨VID_L_CFG n, 7, 7⟩
abbrev VID_L_CFG_PP (n : Nat) : Fld := ⟨VID_L_CFG n, 8, 8⟩
abbrev VID_L_CFG_SRC (n : Nat) : Fld := ⟨VID_L_CFG n, 11, 9⟩
abbrev VID_L_CFG_NEAREST (n : Nat) : Fld := ⟨VID_L_CFG n, 12, 12⟩
abbrev VID_L_CFG_TSIZE (n : Nat) : Fld := ⟨VID_L_CFG n, 13, 13⟩
/-- VID_L_BASE (18_video_bridge.md). -/
abbrev VID_L_BASE (n : Nat) : Nat := 0x201004 + 0x40 * n
abbrev VID_L_BASE_OFFSET (n : Nat) : Fld := ⟨VID_L_BASE n, 26, 0⟩
/-- VID_L_PITCH (18_video_bridge.md). -/
abbrev VID_L_PITCH (n : Nat) : Nat := 0x201008 + 0x40 * n
abbrev VID_L_PITCH_BYTES (n : Nat) : Fld := ⟨VID_L_PITCH n, 19, 0⟩
/-- VID_L_SRC (18_video_bridge.md). -/
abbrev VID_L_SRC (n : Nat) : Nat := 0x20100C + 0x40 * n
abbrev VID_L_SRC_W (n : Nat) : Fld := ⟨VID_L_SRC n, 12, 0⟩
abbrev VID_L_SRC_H (n : Nat) : Fld := ⟨VID_L_SRC n, 28, 16⟩
/-- VID_L_OFS (18_video_bridge.md). -/
abbrev VID_L_OFS (n : Nat) : Nat := 0x201010 + 0x40 * n
abbrev VID_L_OFS_X (n : Nat) : Fld := ⟨VID_L_OFS n, 12, 0⟩
abbrev VID_L_OFS_Y (n : Nat) : Fld := ⟨VID_L_OFS n, 28, 16⟩
/-- VID_L_DPOS (18_video_bridge.md). -/
abbrev VID_L_DPOS (n : Nat) : Nat := 0x201014 + 0x40 * n
abbrev VID_L_DPOS_X (n : Nat) : Fld := ⟨VID_L_DPOS n, 12, 0⟩
abbrev VID_L_DPOS_Y (n : Nat) : Fld := ⟨VID_L_DPOS n, 28, 16⟩
/-- VID_L_DSIZE (18_video_bridge.md). -/
abbrev VID_L_DSIZE (n : Nat) : Nat := 0x201018 + 0x40 * n
abbrev VID_L_DSIZE_W (n : Nat) : Fld := ⟨VID_L_DSIZE n, 12, 0⟩
abbrev VID_L_DSIZE_H (n : Nat) : Fld := ⟨VID_L_DSIZE n, 28, 16⟩
/-- VID_L_GALPHA (18_video_bridge.md). -/
abbrev VID_L_GALPHA (n : Nat) : Nat := 0x20101C + 0x40 * n
abbrev VID_L_GALPHA_G (n : Nat) : Fld := ⟨VID_L_GALPHA n, 9, 0⟩
/-- VID_L_TMAP (18_video_bridge.md). -/
abbrev VID_L_TMAP (n : Nat) : Nat := 0x201020 + 0x40 * n
abbrev VID_L_TMAP_OFFSET (n : Nat) : Fld := ⟨VID_L_TMAP n, 26, 0⟩
/-- VID_L_MAPW (18_video_bridge.md). -/
abbrev VID_L_MAPW (n : Nat) : Nat := 0x201024 + 0x40 * n
abbrev VID_L_MAPW_MAPW (n : Nat) : Fld := ⟨VID_L_MAPW n, 9, 0⟩
abbrev VID_L_MAPW_MAPH (n : Nat) : Fld := ⟨VID_L_MAPW n, 25, 16⟩
/-- VID_L_STAT (18_video_bridge.md). -/
abbrev VID_L_STAT (n : Nat) : Nat := 0x201028 + 0x40 * n
abbrev VID_L_STAT_FALLBACK (n : Nat) : Fld := ⟨VID_L_STAT n, 0, 0⟩
abbrev VID_L_STAT_FALLBACKS (n : Nat) : Fld := ⟨VID_L_STAT n, 31, 16⟩
/-- VID_L_SHOWN (18_video_bridge.md). -/
abbrev VID_L_SHOWN (n : Nat) : Nat := 0x20102C + 0x40 * n
/-- VID_C_CFG (18_video_bridge.md). -/
abbrev VID_C_CFG (p : Nat) : Nat := 0x202000 + 0x40 * p
abbrev VID_C_CFG_EN (p : Nat) : Fld := ⟨VID_C_CFG p, 0, 0⟩
abbrev VID_C_CFG_FMT (p : Nat) : Fld := ⟨VID_C_CFG p, 2, 1⟩
abbrev VID_C_CFG_THREE (p : Nat) : Fld := ⟨VID_C_CFG p, 3, 3⟩
abbrev VID_C_CFG_QUEUE (p : Nat) : Fld := ⟨VID_C_CFG p, 16, 4⟩
abbrev VID_C_CFG_LATE (p : Nat) : Fld := ⟨VID_C_CFG p, 31, 24⟩
/-- VID_C_BASE (18_video_bridge.md). -/
abbrev VID_C_BASE (p : Nat) : Nat := 0x202004 + 0x40 * p
abbrev VID_C_BASE_OFFSET (p : Nat) : Fld := ⟨VID_C_BASE p, 26, 0⟩
/-- VID_C_STRIDE (18_video_bridge.md). -/
abbrev VID_C_STRIDE (p : Nat) : Nat := 0x202008 + 0x40 * p
abbrev VID_C_STRIDE_BYTES (p : Nat) : Fld := ⟨VID_C_STRIDE p, 26, 0⟩
/-- VID_C_PITCH (18_video_bridge.md). -/
abbrev VID_C_PITCH (p : Nat) : Nat := 0x20200C + 0x40 * p
abbrev VID_C_PITCH_BYTES (p : Nat) : Fld := ⟨VID_C_PITCH p, 19, 0⟩
/-- VID_C_SIZE (18_video_bridge.md). -/
abbrev VID_C_SIZE (p : Nat) : Nat := 0x202010 + 0x40 * p
abbrev VID_C_SIZE_W (p : Nat) : Fld := ⟨VID_C_SIZE p, 12, 0⟩
abbrev VID_C_SIZE_H (p : Nat) : Fld := ⟨VID_C_SIZE p, 28, 16⟩
/-- VID_C_STAT (18_video_bridge.md). -/
abbrev VID_C_STAT (p : Nat) : Nat := 0x202014 + 0x40 * p
abbrev VID_C_STAT_SHOWN (p : Nat) : Fld := ⟨VID_C_STAT p, 1, 0⟩
abbrev VID_C_STAT_READY (p : Nat) : Fld := ⟨VID_C_STAT p, 3, 2⟩
abbrev VID_C_STAT_FILLING (p : Nat) : Fld := ⟨VID_C_STAT p, 5, 4⟩
abbrev VID_C_STAT_ERR (p : Nat) : Fld := ⟨VID_C_STAT p, 7, 6⟩
/-- VID_C_FRAMES (18_video_bridge.md). -/
abbrev VID_C_FRAMES (p : Nat) : Nat := 0x202018 + 0x40 * p
/-- VID_C_COUNTS (18_video_bridge.md). -/
abbrev VID_C_COUNTS (p : Nat) : Nat := 0x20201C + 0x40 * p
abbrev VID_C_COUNTS_BAD (p : Nat) : Fld := ⟨VID_C_COUNTS p, 7, 0⟩
abbrev VID_C_COUNTS_ABANDONED (p : Nat) : Fld := ⟨VID_C_COUNTS p, 15, 8⟩
abbrev VID_C_COUNTS_SKIPPED (p : Nat) : Fld := ⟨VID_C_COUNTS p, 23, 16⟩
abbrev VID_C_COUNTS_LATE (p : Nat) : Fld := ⟨VID_C_COUNTS p, 31, 24⟩
/-- VID_RC_POS (18_video_bridge.md). -/
abbrev VID_RC_POS (r : Nat) : Nat := 0x203000 + 0x20 * r
abbrev VID_RC_POS_X (r : Nat) : Fld := ⟨VID_RC_POS r, 12, 0⟩
abbrev VID_RC_POS_Y (r : Nat) : Fld := ⟨VID_RC_POS r, 28, 16⟩
/-- VID_RC_SIZE (18_video_bridge.md). -/
abbrev VID_RC_SIZE (r : Nat) : Nat := 0x203004 + 0x20 * r
abbrev VID_RC_SIZE_W (r : Nat) : Fld := ⟨VID_RC_SIZE r, 12, 0⟩
abbrev VID_RC_SIZE_H (r : Nat) : Fld := ⟨VID_RC_SIZE r, 28, 16⟩
/-- VID_RC_CTL (18_video_bridge.md). -/
abbrev VID_RC_CTL (r : Nat) : Nat := 0x203008 + 0x20 * r
abbrev VID_RC_CTL_MODE (r : Nat) : Fld := ⟨VID_RC_CTL r, 1, 0⟩
/-- VID_RC_EXPECT (18_video_bridge.md). -/
abbrev VID_RC_EXPECT (r : Nat) : Nat := 0x20300C + 0x20 * r
/-- VID_RC_CRC (18_video_bridge.md). -/
abbrev VID_RC_CRC (r : Nat) : Nat := 0x203010 + 0x20 * r
/-- VID_RC_FRAME (18_video_bridge.md). -/
abbrev VID_RC_FRAME (r : Nat) : Nat := 0x203014 + 0x20 * r
/-- VID_DP_CTL (18_video_bridge.md). -/
abbrev VID_DP_CTL : Nat := 0x206000
abbrev VID_DP_CTL_LANES : Fld := ⟨VID_DP_CTL, 1, 0⟩
abbrev VID_DP_CTL_RATE : Fld := ⟨VID_DP_CTL, 3, 2⟩
abbrev VID_DP_CTL_PATTERN : Fld := ⟨VID_DP_CTL, 6, 4⟩
abbrev VID_DP_CTL_EFRAME : Fld := ⟨VID_DP_CTL, 7, 7⟩
abbrev VID_DP_CTL_SSC : Fld := ⟨VID_DP_CTL, 8, 8⟩
/-- VID_DP_DRIVE (18_video_bridge.md). -/
abbrev VID_DP_DRIVE : Nat := 0x206004
abbrev VID_DP_DRIVE_LEVELS : Fld := ⟨VID_DP_DRIVE, 15, 0⟩
/-- VID_DP_STAT (18_video_bridge.md). -/
abbrev VID_DP_STAT : Nat := 0x206008
abbrev VID_DP_STAT_LOCK : Fld := ⟨VID_DP_STAT, 0, 0⟩
abbrev VID_DP_STAT_HPD : Fld := ⟨VID_DP_STAT, 1, 1⟩
abbrev VID_DP_STAT_VIDEO : Fld := ⟨VID_DP_STAT, 2, 2⟩
abbrev VID_DP_STAT_IRQ_HPD : Fld := ⟨VID_DP_STAT, 3, 3⟩
abbrev VID_DP_STAT_PLUG : Fld := ⟨VID_DP_STAT, 4, 4⟩
abbrev VID_DP_STAT_OVER : Fld := ⟨VID_DP_STAT, 5, 5⟩
/-- VID_AUX_CMD (18_video_bridge.md). -/
abbrev VID_AUX_CMD : Nat := 0x206010
abbrev VID_AUX_CMD_REQ : Fld := ⟨VID_AUX_CMD, 3, 0⟩
abbrev VID_AUX_CMD_ADDR : Fld := ⟨VID_AUX_CMD, 23, 4⟩
abbrev VID_AUX_CMD_LEN : Fld := ⟨VID_AUX_CMD, 28, 24⟩
abbrev VID_AUX_CMD_START : Fld := ⟨VID_AUX_CMD, 31, 31⟩
/-- VID_AUX_DATA (18_video_bridge.md). -/
abbrev VID_AUX_DATA (i : Nat) : Nat := 0x206014 + 0x4 * i
/-- VID_AUX_STAT (18_video_bridge.md). -/
abbrev VID_AUX_STAT : Nat := 0x206024
abbrev VID_AUX_STAT_BUSY : Fld := ⟨VID_AUX_STAT, 0, 0⟩
abbrev VID_AUX_STAT_REPLY : Fld := ⟨VID_AUX_STAT, 3, 1⟩
abbrev VID_AUX_STAT_RLEN : Fld := ⟨VID_AUX_STAT, 8, 4⟩
/-- AUD_CTRL (19_audio_bridge.md). -/
abbrev AUD_CTRL : Nat := 0x240000
abbrev AUD_CTRL_RATE : Fld := ⟨AUD_CTRL, 0, 0⟩
/-- AUD_STAT (19_audio_bridge.md). -/
abbrev AUD_STAT : Nat := 0x240004
abbrev AUD_STAT_LOCK : Fld := ⟨AUD_STAT, 0, 0⟩
/-- AUD_BLOCKS (19_audio_bridge.md). -/
abbrev AUD_BLOCKS : Nat := 0x240008
/-- AUD_IEN (19_audio_bridge.md). -/
abbrev AUD_IEN : Nat := 0x24000C
abbrev AUD_IEN_IEN : Fld := ⟨AUD_IEN, 2, 0⟩
/-- AUD_ISTAT (19_audio_bridge.md). -/
abbrev AUD_ISTAT : Nat := 0x240010
abbrev AUD_ISTAT_EVENTS : Fld := ⟨AUD_ISTAT, 2, 0⟩
/-- AUD_P_CFG (19_audio_bridge.md). -/
abbrev AUD_P_CFG (p : Nat) : Nat := 0x241000 + 0x40 * p
abbrev AUD_P_CFG_EN (p : Nat) : Fld := ⟨AUD_P_CFG p, 0, 0⟩
abbrev AUD_P_CFG_MASTER (p : Nat) : Fld := ⟨AUD_P_CFG p, 1, 1⟩
abbrev AUD_P_CFG_CHANS (p : Nat) : Fld := ⟨AUD_P_CFG p, 4, 2⟩
abbrev AUD_P_CFG_IN_EN (p : Nat) : Fld := ⟨AUD_P_CFG p, 5, 5⟩
abbrev AUD_P_CFG_OUT_EN (p : Nat) : Fld := ⟨AUD_P_CFG p, 6, 6⟩
/-- AUD_P_QUEUE (19_audio_bridge.md). -/
abbrev AUD_P_QUEUE (p : Nat) : Nat := 0x241004 + 0x40 * p
abbrev AUD_P_QUEUE_IN_QUEUE (p : Nat) : Fld := ⟨AUD_P_QUEUE p, 12, 0⟩
abbrev AUD_P_QUEUE_OUT_QUEUE (p : Nat) : Fld := ⟨AUD_P_QUEUE p, 28, 16⟩
/-- AUD_P_CLIP (19_audio_bridge.md). -/
abbrev AUD_P_CLIP (p : Nat) : Nat := 0x241008 + 0x40 * p
abbrev AUD_P_CLIP_DEPTH (p : Nat) : Fld := ⟨AUD_P_CLIP p, 6, 0⟩
abbrev AUD_P_CLIP_PREFILL (p : Nat) : Fld := ⟨AUD_P_CLIP p, 10, 8⟩
/-- AUD_P_STAT (19_audio_bridge.md). -/
abbrev AUD_P_STAT (p : Nat) : Nat := 0x24100C + 0x40 * p
abbrev AUD_P_STAT_PLAYING (p : Nat) : Fld := ⟨AUD_P_STAT p, 0, 0⟩
abbrev AUD_P_STAT_HELD (p : Nat) : Fld := ⟨AUD_P_STAT p, 7, 1⟩
abbrev AUD_P_STAT_ERR (p : Nat) : Fld := ⟨AUD_P_STAT p, 9, 8⟩
/-- AUD_P_DROPS (19_audio_bridge.md). -/
abbrev AUD_P_DROPS (p : Nat) : Nat := 0x241010 + 0x40 * p
abbrev AUD_P_DROPS_IN_DROPPED (p : Nat) : Fld := ⟨AUD_P_DROPS p, 15, 0⟩
abbrev AUD_P_DROPS_OUT_DROPPED (p : Nat) : Fld := ⟨AUD_P_DROPS p, 31, 16⟩
/-- AUD_P_FAULTS (19_audio_bridge.md). -/
abbrev AUD_P_FAULTS (p : Nat) : Nat := 0x241014 + 0x40 * p
abbrev AUD_P_FAULTS_BAD (p : Nat) : Fld := ⟨AUD_P_FAULTS p, 15, 0⟩
abbrev AUD_P_FAULTS_SLIPS (p : Nat) : Fld := ⟨AUD_P_FAULTS p, 31, 16⟩
/-- AUD_I_CFG (19_audio_bridge.md). -/
abbrev AUD_I_CFG (i : Nat) : Nat := 0x242000 + 0x20 * i
abbrev AUD_I_CFG_HP (i : Nat) : Fld := ⟨AUD_I_CFG i, 0, 0⟩
abbrev AUD_I_CFG_CORNER (i : Nat) : Fld := ⟨AUD_I_CFG i, 2, 1⟩
abbrev AUD_I_CFG_DRC (i : Nat) : Fld := ⟨AUD_I_CFG i, 3, 3⟩
/-- AUD_I_DRC (19_audio_bridge.md). -/
abbrev AUD_I_DRC (i : Nat) : Nat := 0x242004 + 0x20 * i
abbrev AUD_I_DRC_THRESH (i : Nat) : Fld := ⟨AUD_I_DRC i, 6, 0⟩
abbrev AUD_I_DRC_RATIO (i : Nat) : Fld := ⟨AUD_I_DRC i, 11, 8⟩
/-- AUD_I_TIME (19_audio_bridge.md). -/
abbrev AUD_I_TIME (i : Nat) : Nat := 0x242008 + 0x20 * i
abbrev AUD_I_TIME_ATTACK (i : Nat) : Fld := ⟨AUD_I_TIME i, 9, 0⟩
abbrev AUD_I_TIME_RELEASE (i : Nat) : Fld := ⟨AUD_I_TIME i, 26, 16⟩
/-- AUD_I_GAIN (19_audio_bridge.md). -/
abbrev AUD_I_GAIN (i : Nat) : Nat := 0x24200C + 0x20 * i
abbrev AUD_I_GAIN_GAIN (i : Nat) : Fld := ⟨AUD_I_GAIN i, 7, 0⟩
abbrev AUD_I_GAIN_ZC_TMO (i : Nat) : Fld := ⟨AUD_I_GAIN i, 19, 8⟩
/-- AUD_O_GAIN (19_audio_bridge.md). -/
abbrev AUD_O_GAIN (i : Nat) : Nat := 0x24300C + 0x20 * i
abbrev AUD_O_GAIN_GAIN (i : Nat) : Fld := ⟨AUD_O_GAIN i, 7, 0⟩
abbrev AUD_O_GAIN_ZC_TMO (i : Nat) : Fld := ⟨AUD_O_GAIN i, 19, 8⟩
/-- AUD_I_GR (19_audio_bridge.md). -/
abbrev AUD_I_GR (i : Nat) : Nat := 0x242010 + 0x20 * i
abbrev AUD_I_GR_GR (i : Nat) : Fld := ⟨AUD_I_GR i, 9, 0⟩
/-- AUD_O_CFG (19_audio_bridge.md). -/
abbrev AUD_O_CFG (i : Nat) : Nat := 0x243000 + 0x20 * i
abbrev AUD_O_CFG_MON (i : Nat) : Fld := ⟨AUD_O_CFG i, 0, 0⟩
abbrev AUD_O_CFG_MON_SRC (i : Nat) : Fld := ⟨AUD_O_CFG i, 4, 1⟩
/-- DBG_HALT (20_debug.md). -/
abbrev DBG_HALT : Nat := 0x280000
abbrev DBG_HALT_REQ : Fld := ⟨DBG_HALT, 0, 0⟩
abbrev DBG_HALT_HALTED : Fld := ⟨DBG_HALT, 1, 1⟩
abbrev DBG_HALT_ERR : Fld := ⟨DBG_HALT, 2, 2⟩
/-- DBG_WDT_GRACE (20_debug.md). -/
abbrev DBG_WDT_GRACE : Nat := 0x280004
/-- DBG_STIM_EN (20_debug.md). -/
abbrev DBG_STIM_EN : Nat := 0x280008
/-- DBG_TRACE_FILL (20_debug.md). -/
abbrev DBG_TRACE_FILL : Nat := 0x28000C
abbrev DBG_TRACE_FILL_COUNT : Fld := ⟨DBG_TRACE_FILL, 13, 0⟩
/-- DBG_TRACE_DATA_LO (20_debug.md). -/
abbrev DBG_TRACE_DATA_LO : Nat := 0x280010
/-- DBG_TRACE_DATA_HI (20_debug.md). -/
abbrev DBG_TRACE_DATA_HI : Nat := 0x280014
/-- DBG_CORE_CTL (20_debug.md). -/
abbrev DBG_CORE_CTL (c : Nat) : Nat := 0x281000 + 0x100 * c
abbrev DBG_CORE_CTL_MONITOR (c : Nat) : Fld := ⟨DBG_CORE_CTL c, 0, 0⟩
abbrev DBG_CORE_CTL_STEP (c : Nat) : Fld := ⟨DBG_CORE_CTL c, 1, 1⟩
abbrev DBG_CORE_CTL_RESUME (c : Nat) : Fld := ⟨DBG_CORE_CTL c, 2, 2⟩
abbrev DBG_CORE_CTL_HALTREQ (c : Nat) : Fld := ⟨DBG_CORE_CTL c, 3, 3⟩
abbrev DBG_CORE_CTL_WDT_PAUSE (c : Nat) : Fld := ⟨DBG_CORE_CTL c, 4, 4⟩
abbrev DBG_CORE_CTL_MTHRESH (c : Nat) : Fld := ⟨DBG_CORE_CTL c, 11, 8⟩
/-- DBG_CORE_STAT (20_debug.md). -/
abbrev DBG_CORE_STAT (c : Nat) : Nat := 0x281004 + 0x100 * c
abbrev DBG_CORE_STAT_REASON (c : Nat) : Fld := ⟨DBG_CORE_STAT c, 2, 0⟩
abbrev DBG_CORE_STAT_UNIT (c : Nat) : Fld := ⟨DBG_CORE_STAT c, 4, 3⟩
abbrev DBG_CORE_STAT_NESTED (c : Nat) : Fld := ⟨DBG_CORE_STAT c, 5, 5⟩
/-- DBG_BP (20_debug.md). -/
abbrev DBG_BP (c : Nat) (i : Nat) : Nat := 0x281010 + 0x100 * c + 0x4 * i
abbrev DBG_BP_ADDR (c : Nat) (i : Nat) : Fld := ⟨DBG_BP c i, 19, 0⟩
abbrev DBG_BP_EN (c : Nat) (i : Nat) : Fld := ⟨DBG_BP c i, 31, 31⟩
/-- DBG_WP_ADDR (20_debug.md). -/
abbrev DBG_WP_ADDR (c : Nat) (j : Nat) : Nat := 0x281020 + 0x100 * c + 0xC * j
/-- DBG_WP_MASK (20_debug.md). -/
abbrev DBG_WP_MASK (c : Nat) (j : Nat) : Nat := 0x281024 + 0x100 * c + 0xC * j
/-- DBG_WP_CTL (20_debug.md). -/
abbrev DBG_WP_CTL (c : Nat) (j : Nat) : Nat := 0x281028 + 0x100 * c + 0xC * j
abbrev DBG_WP_CTL_KIND (c : Nat) (j : Nat) : Fld := ⟨DBG_WP_CTL c j, 1, 0⟩
/-- DBG_STIM (20_debug.md). -/
abbrev DBG_STIM (c : Nat) (i : Nat) : Nat := 0x281040 + 0x100 * c + 0x4 * i
/-- PWR_CAP (21_power_package.md). -/
abbrev PWR_CAP : Nat := 0x20000
abbrev PWR_CAP_WATTS : Fld := ⟨PWR_CAP, 9, 0⟩
/-- PWR_TLIMIT (21_power_package.md). -/
abbrev PWR_TLIMIT : Nat := 0x20004
abbrev PWR_TLIMIT_WARN : Fld := ⟨PWR_TLIMIT, 7, 0⟩
abbrev PWR_TLIMIT_CRIT : Fld := ⟨PWR_TLIMIT, 15, 8⟩
/-- PWR_STAT (21_power_package.md). -/
abbrev PWR_STAT : Nat := 0x20008
abbrev PWR_STAT_POWER : Fld := ⟨PWR_STAT, 9, 0⟩
abbrev PWR_STAT_FABRIC_MV : Fld := ⟨PWR_STAT, 25, 16⟩
abbrev PWR_STAT_THROTTLE : Fld := ⟨PWR_STAT, 29, 29⟩
abbrev PWR_STAT_AT_FLOOR : Fld := ⟨PWR_STAT, 30, 30⟩
abbrev PWR_STAT_CAPPED : Fld := ⟨PWR_STAT, 31, 31⟩
/-- PWR_TEMP (21_power_package.md). -/
abbrev PWR_TEMP : Nat := 0x2000C
abbrev PWR_TEMP_HOTTEST : Fld := ⟨PWR_TEMP, 7, 0⟩
abbrev PWR_TEMP_DIE : Fld := ⟨PWR_TEMP, 10, 8⟩
abbrev PWR_TEMP_HBM : Fld := ⟨PWR_TEMP, 23, 16⟩
abbrev PWR_TEMP_COL : Fld := ⟨PWR_TEMP, 31, 24⟩
/-- PWR_TEMP_FACE (21_power_package.md). -/
abbrev PWR_TEMP_FACE : Nat := 0x20010
/-- PWR_VIN (21_power_package.md). -/
abbrev PWR_VIN : Nat := 0x20014
abbrev PWR_VIN_MV : Fld := ⟨PWR_VIN, 15, 0⟩
abbrev PWR_VIN_CA : Fld := ⟨PWR_VIN, 31, 16⟩
/-- PWR_RAILS (21_power_package.md). -/
abbrev PWR_RAILS : Nat := 0x20018
abbrev PWR_RAILS_GOOD : Fld := ⟨PWR_RAILS, 11, 0⟩
abbrev PWR_RAILS_FAULT : Fld := ⟨PWR_RAILS, 27, 16⟩
/-- PWR_ENERGY_LO (21_power_package.md). -/
abbrev PWR_ENERGY_LO : Nat := 0x2001C
/-- PWR_ENERGY_HI (21_power_package.md). -/
abbrev PWR_ENERGY_HI : Nat := 0x20020

/-- The register table of the Sys block. -/
def regsSys : List RegDesc := [
  ⟨0x0, [], 0xFFFFFFFF, 0x0, 0x0, 0x0, 0x0, 0x4B4E9600⟩,
  ⟨0x4, [], 0xFF, 0x0, 0x0, 0x0, 0x0, 0xB1⟩,
  ⟨0x8, [], 0xFFFF0F1F, 0x0, 0x0, 0x0, 0x0, 0x0⟩,
  ⟨0xC, [], 0xF, 0x0, 0x0, 0x0, 0x0, 0x0⟩,
  ⟨0x10, [], 0x3FF, 0x0, 0x0, 0x0, 0x0, 0x0⟩,
  ⟨0x14, [], 0x800003FF, 0x0, 0x0, 0x0, 0x0, 0x0⟩,
  ⟨0x18, [], 0x7FF03FF, 0x0, 0x0, 0x0, 0x0, 0x0⟩,
  ⟨0x1C, [], 0x7F, 0x0, 0x0, 0x0, 0x0, 0x0⟩,
  ⟨0x20, [], 0xFFFF, 0x0, 0x0, 0x0, 0x0, 0x0⟩]

/-- The register table of the Trv block. -/
def regsTrv : List RegDesc := [
  ⟨0x9F000, [], 0x0, 0xFFFFFF01, 0x0, 0x0, 0x0, 0x17D7801⟩,
  ⟨0x9F004, [], 0xFFFF0000, 0x0, 0x0, 0xFFFF, 0x0, 0x0⟩,
  ⟨0x80000, [], 0x7FF, 0x0, 0x0, 0x0, 0x0, 0x0⟩,
  ⟨0x80004, [], 0xFFFF003F, 0x0, 0x0, 0x0, 0x0, 0x0⟩,
  ⟨0x80008, [], 0xFFFFFFFF, 0x0, 0x0, 0x0, 0x0, 0x0⟩,
  ⟨0x8000C, [], 0xFFFFFFFF, 0x0, 0x0, 0x0, 0x0, 0x0⟩,
  ⟨0x80010, [], 0xFFFFFFFF, 0x0, 0x0, 0x0, 0x0, 0x0⟩,
  ⟨0x80014, [], 0xFFFFFFFF, 0x0, 0x0, 0x0, 0x0, 0x0⟩,
  ⟨0x80018, [], 0xFFFFFFFF, 0x0, 0x0, 0x0, 0x0, 0x0⟩,
  ⟨0x8001C, [], 0xFFFF, 0x0, 0x0, 0x0, 0x0, 0x0⟩,
  ⟨0x80020, [], 0x0, 0xFFFFF001, 0x0, 0x0, 0x0, 0x3E8001⟩,
  ⟨0x80024, [], 0x0, 0xFFFF, 0x0, 0x0, 0x0, 0x0⟩,
  ⟨0x80028, [], 0x0, 0xFFFFFFFF, 0x0, 0x0, 0x0, 0x186A0⟩,
  ⟨0x8002C, [], 0xFFFFFFFF, 0x0, 0x0, 0x0, 0x0, 0x0⟩,
  ⟨0x80030, [], 0xFFFFFFFF, 0x0, 0x0, 0x0, 0x0, 0x0⟩,
  ⟨0x80034, [], 0xFFFFFFFF, 0x0, 0x0, 0x0, 0x0, 0x0⟩,
  ⟨0x80038, [], 0x801FFFFF, 0x0, 0x0, 0x0, 0x0, 0x0⟩,
  ⟨0x80040, [], 0x0, 0xFF, 0x0, 0x0, 0x0, 0x0⟩,
  ⟨0x80044, [], 0x1FFF7FF, 0x0, 0x0, 0x0, 0x0, 0x0⟩,
  ⟨0x80048, [], 0xFFFFFFFF, 0x0, 0x0, 0x0, 0x0, 0x0⟩]

/-- The register table of the Link block. -/
def regsLink : List RegDesc := [
  ⟨0x40000, [], 0x3FFFF, 0x0, 0x0, 0x0, 0x0, 0x0⟩,
  ⟨0x40004, [], 0x0, 0xFFFF, 0x0, 0x0, 0x0, 0x3E8⟩,
  ⟨0x40008, [], 0x0, 0x0, 0x0, 0x0, 0x0, 0x0⟩,
  ⟨0x4000C, [], 0xFFFFFFFF, 0x0, 0x0, 0x0, 0x0, 0x0⟩,
  ⟨0x40010, [], 0x0, 0xFFFF0FFF, 0x0, 0x0, 0x0, 0x7D00096⟩,
  ⟨0x40014, [], 0x7FFFFFF, 0x0, 0x0, 0x0, 0x0, 0x0⟩,
  ⟨0x40040, [(18, 0x4)], 0x0, 0x8000000F, 0x0, 0x0, 0x0, 0x0⟩,
  ⟨0x40100, [(64, 0x4)], 0x0, 0x7, 0x0, 0x0, 0x0, 0x0⟩,
  ⟨0x41000, [(18, 0x40)], 0x7FFFFFF, 0x0, 0x0, 0x0, 0x0, 0x0⟩,
  ⟨0x41004, [(18, 0x40)], 0x0, 0x0, 0x0, 0xFFFFFFFF, 0x0, 0x0⟩,
  ⟨0x41008, [(18, 0x40)], 0x0, 0x0, 0x0, 0xFFFFFFFF, 0x0, 0x0⟩,
  ⟨0x4100C, [(18, 0x40)], 0x0, 0x0, 0x0, 0xFFFFFFFF, 0x0, 0x0⟩,
  ⟨0x41010, [(18, 0x40)], 0x7FF7FF, 0x0, 0x0, 0x0, 0x0, 0x590⟩,
  ⟨0x41014, [(18, 0x40)], 0x0, 0xFF, 0x0, 0x0, 0x0, 0x0⟩]

/-- The register table of the Mem block. -/
def regsMem : List RegDesc := [
  ⟨0xA0000, [], 0x37F, 0x0, 0x0, 0x0, 0x0, 0x0⟩,
  ⟨0xA0004, [], 0x0, 0xFF, 0x0, 0x0, 0x0, 0x0⟩,
  ⟨0xA0008, [], 0xFFFFFFFF, 0x0, 0x0, 0x0, 0x0, 0x0⟩,
  ⟨0xA000C, [], 0xFFFFFFFF, 0x0, 0x0, 0x0, 0x0, 0x0⟩,
  ⟨0xA0010, [], 0x0, 0x0, 0x0, 0xFFFFFFFF, 0x0, 0x0⟩,
  ⟨0xA0014, [], 0xFFFFFFFF, 0x0, 0x0, 0x0, 0x0, 0x0⟩,
  ⟨0xA0018, [], 0x1F, 0x0, 0x0, 0x0, 0x0, 0x0⟩,
  ⟨0xA001C, [], 0x7FF, 0x0, 0x0, 0xFFFF0000, 0x0, 0x0⟩,
  ⟨0xA0020, [], 0x0, 0x0, 0x0, 0xFFFF, 0x0, 0x0⟩,
  ⟨0xA0024, [], 0x1FFFF, 0x0, 0x0, 0x0, 0x0, 0x0⟩,
  ⟨0xA0028, [], 0xFFFF, 0x0, 0x0, 0x0, 0x0, 0x0⟩,
  ⟨0xA002C, [], 0xFFFFFFFF, 0x0, 0x0, 0x0, 0x0, 0x0⟩,
  ⟨0xA0030, [], 0x0, 0xFFFFFF01, 0x0, 0x0, 0x0, 0xE1001⟩]

/-- The register table of the Ckp block. -/
def regsCkp : List RegDesc := [
  ⟨0x100000, [], 0x0, 0x1FFFFFF, 0x0, 0x0, 0x0, 0x10000⟩,
  ⟨0x100004, [], 0x0, 0xFFFFFFFF, 0x0, 0x0, 0x0, 0x4E20⟩,
  ⟨0x100008, [], 0x0, 0xFF, 0x0, 0x0, 0x0, 0x10⟩,
  ⟨0x10000C, [], 0x0, 0xFFFF007F, 0x0, 0x0, 0x0, 0x100008⟩,
  ⟨0x100010, [], 0xFF00, 0xF, 0x0, 0xFFFF0000, 0x0, 0x4⟩,
  ⟨0x100014, [], 0x7F7F, 0x0, 0x0, 0x0, 0x0, 0x0⟩,
  ⟨0x100018, [], 0xFFFFFFFF, 0x0, 0x0, 0x0, 0x0, 0x0⟩,
  ⟨0x10001C, [], 0xFFFFFFFF, 0x0, 0x0, 0x0, 0x0, 0x0⟩,
  ⟨0x100020, [], 0xFFFFFFFF, 0x0, 0x0, 0x0, 0x0, 0x0⟩,
  ⟨0x100024, [], 0xFFFFFFFF, 0x0, 0x0, 0x0, 0x0, 0x0⟩,
  ⟨0x100028, [], 0xFFFFFFFF, 0x0, 0x0, 0x0, 0x0, 0x0⟩,
  ⟨0x10002C, [], 0xFFFFFF, 0x0, 0x0, 0x0, 0x0, 0x0⟩,
  ⟨0x100030, [], 0x7F1F, 0x0, 0x0, 0x0, 0x0, 0x0⟩,
  ⟨0x100034, [], 0x7F1F, 0x0, 0x0, 0x0, 0x0, 0x0⟩,
  ⟨0x100038, [], 0x0, 0x3F, 0x0, 0x0, 0x0, 0x0⟩,
  ⟨0x10003C, [], 0xFFFFFFFF, 0x0, 0x0, 0x0, 0x0, 0x0⟩,
  ⟨0x100040, [], 0xFFFFFFFF, 0x0, 0x0, 0x0, 0x0, 0x0⟩,
  ⟨0x100044, [], 0xFFFFFFFF, 0x0, 0x0, 0x0, 0x0, 0x0⟩]

/-- The register table of the Que block. -/
def regsQue : List RegDesc := [
  ⟨0xC0000, [], 0xFFFFFFFF, 0x0, 0x0, 0x0, 0x0, 0x0⟩,
  ⟨0xC0004, [], 0x1F, 0x0, 0x0, 0x0, 0x0, 0x0⟩,
  ⟨0xC0008, [], 0xFFFFFFFF, 0x0, 0x0, 0x0, 0x0, 0x0⟩,
  ⟨0xC000C, [], 0x1F, 0x0, 0x0, 0x0, 0x0, 0x0⟩,
  ⟨0xC0010, [], 0x3FFF, 0x0, 0x0, 0x0, 0x0, 0x0⟩,
  ⟨0xC0014, [], 0x7F7FFF, 0x0, 0x0, 0x0, 0x0, 0x0⟩,
  ⟨0xC0018, [], 0x7F7FFF, 0x0, 0x0, 0x0, 0x0, 0x0⟩,
  ⟨0xC0020, [], 0x0, 0x0, 0x0, 0x0, 0x0, 0x0⟩,
  ⟨0xC0024, [], 0x0, 0x0, 0x0, 0x0, 0x0, 0x0⟩,
  ⟨0xC0028, [], 0x0, 0x0, 0x0, 0x7FFFF, 0x0, 0x0⟩,
  ⟨0xC002C, [], 0x0, 0x0, 0x0, 0xFFFFFFFF, 0x0, 0x0⟩,
  ⟨0xC0100, [(256, 0x4)], 0x0, 0x0, 0xFFFFFFFF, 0x0, 0x0, 0x0⟩,
  ⟨0xC0500, [(256, 0x4)], 0x0, 0x0, 0xFFFFFFFF, 0x0, 0x0, 0x0⟩]

/-- The register table of the Vis block. -/
def regsVis : List RegDesc := [
  ⟨0x110000, [], 0x4, 0x3, 0x0, 0x0, 0x0, 0x1⟩,
  ⟨0x110004, [], 0x3F, 0x0, 0x0, 0x0, 0x0, 0x0⟩,
  ⟨0x110008, [], 0xFFFFFFFF, 0x0, 0x0, 0x0, 0x0, 0x0⟩,
  ⟨0x11000C, [], 0x1F, 0x0, 0x0, 0x0, 0x0, 0x0⟩,
  ⟨0x110010, [], 0x3FFF, 0x0, 0x0, 0x0, 0x0, 0x2020⟩,
  ⟨0x110014, [], 0xFFFFFFFF, 0x0, 0x0, 0x0, 0x0, 0x0⟩,
  ⟨0x110018, [], 0xFFFFFFFF, 0x0, 0x0, 0x0, 0x0, 0x0⟩,
  ⟨0x11001C, [], 0xFFFFFFFF, 0x0, 0x0, 0x0, 0x0, 0x0⟩,
  ⟨0x110020, [(8, 0x4)], 0x0, 0xFFFFFFFF, 0x0, 0x0, 0x0, 0xFFFFFFFF⟩,
  ⟨0x110040, [], 0x0, 0x0, 0xFFFFFFFF, 0x0, 0x0, 0x0⟩,
  ⟨0x110044, [], 0x0, 0x0, 0xFFFFFFFF, 0x0, 0x0, 0x0⟩,
  ⟨0x110048, [], 0xFFFFFFFF, 0x0, 0x0, 0x0, 0x0, 0x0⟩,
  ⟨0x11004C, [], 0xFFFFFFFF, 0x0, 0x0, 0x0, 0x0, 0x0⟩,
  ⟨0x110050, [], 0x0, 0x0, 0xFFFFFFFF, 0x0, 0x0, 0x0⟩,
  ⟨0x110054, [], 0x0, 0x0, 0xFFFFFFFF, 0x0, 0x0, 0x0⟩,
  ⟨0x110058, [], 0xFFFFFFFF, 0x0, 0x0, 0x0, 0x0, 0x0⟩,
  ⟨0x11005C, [], 0xFFFFFFFF, 0x0, 0x0, 0x0, 0x0, 0x0⟩,
  ⟨0x110080, [], 0xF07, 0x0, 0x0, 0x0, 0x0, 0x0⟩,
  ⟨0x110084, [], 0x3F, 0x0, 0x0, 0x0, 0x0, 0x0⟩,
  ⟨0x110088, [], 0xFFFFFFFF, 0x0, 0x0, 0x0, 0x0, 0x0⟩,
  ⟨0x11008C, [], 0x1F, 0x0, 0x0, 0x0, 0x0, 0x0⟩,
  ⟨0x110090, [], 0x1FFFFF, 0x0, 0x0, 0x0, 0x0, 0x0⟩,
  ⟨0x110094, [], 0xFFFFFFFF, 0x0, 0x0, 0x0, 0x0, 0x0⟩,
  ⟨0x110098, [], 0xFFFFFFFF, 0x0, 0x0, 0x0, 0x0, 0x0⟩,
  ⟨0x11009C, [], 0xFFFFFFFF, 0x0, 0x0, 0x0, 0x0, 0x0⟩,
  ⟨0x1100A0, [(8, 0x4)], 0x0, 0xFFFFFFFF, 0x0, 0x0, 0x0, 0xFFFFFFFF⟩,
  ⟨0x111000, [(64, 0x20)], 0x0, 0x7FFFFFFF, 0x0, 0x0, 0x0, 0x0⟩,
  ⟨0x111004, [(64, 0x20)], 0x0, 0x7FFFF, 0x0, 0x0, 0x0, 0x10101⟩,
  ⟨0x111008, [(64, 0x20)], 0x0, 0x7FFFF, 0x0, 0x0, 0x0, 0x10101⟩,
  ⟨0x11100C, [(64, 0x20)], 0x0, 0xFFFFFFFF, 0x0, 0x0, 0x0, 0x1⟩,
  ⟨0x111010, [(64, 0x20)], 0x0, 0xFFFFFFFF, 0x0, 0x0, 0x0, 0x0⟩,
  ⟨0x111014, [(64, 0x20)], 0x0, 0xFFFFFFFF, 0x0, 0x0, 0x0, 0x0⟩,
  ⟨0x111018, [(64, 0x20)], 0xFFFFFFFF, 0x0, 0x0, 0x0, 0x0, 0x0⟩,
  ⟨0x11101C, [(64, 0x20)], 0xFFFFFFFF, 0x0, 0x0, 0x0, 0x0, 0x0⟩]

/-- The register table of the Cairn block. -/
def regsCairn : List RegDesc := [
  ⟨0x10000, [], 0x381F, 0x0, 0x700, 0x0, 0x0, 0x0⟩,
  ⟨0x10004, [], 0x0, 0xFFF3, 0x0, 0x0, 0x0, 0x1F40⟩,
  ⟨0x10010, [(4, 0x4)], 0x0, 0xFFFFFFFF, 0x0, 0x0, 0x0, 0x0⟩,
  ⟨0x10020, [(5, 0x4)], 0x0, 0x0, 0x0, 0x0, 0x0, 0x0⟩,
  ⟨0x10040, [], 0xFFFFFFFF, 0x0, 0x0, 0x0, 0x0, 0x0⟩,
  ⟨0x10050, [(5, 0x4)], 0xFFFFFFFF, 0x0, 0x0, 0x0, 0x0, 0x0⟩,
  ⟨0x10070, [(5, 0x4)], 0x0, 0x0, 0x0, 0xFFFFFFFF, 0x0, 0x0⟩,
  ⟨0x10104, [(36, 0x4)], 0x38, 0x1C7, 0x0, 0x0, 0x0, 0x0⟩,
  ⟨0x10200, [], 0xE000, 0xFFF, 0x0, 0x0, 0x0, 0x0⟩,
  ⟨0x10204, [], 0x0, 0xFFFFFFFF, 0x0, 0x0, 0x0, 0x0⟩,
  ⟨0x10208, [], 0x0, 0xFFFFFFFF, 0x0, 0x0, 0x0, 0x0⟩]

/-- The register table of the Res block. -/
def regsRes : List RegDesc := [
  ⟨0x120000, [], 0x1FFFFF, 0x0, 0x0, 0x0, 0x0, 0x0⟩,
  ⟨0x120004, [], 0x0, 0xFFFF0FFF, 0x0, 0x0, 0x0, 0xBB800C8⟩,
  ⟨0x120008, [], 0x0, 0xFFFFF, 0x0, 0x0, 0x0, 0x2710⟩,
  ⟨0x12000C, [], 0xFFFFFF, 0x0, 0x0, 0x0, 0x0, 0x0⟩,
  ⟨0x120010, [], 0xFFFFFFFF, 0x0, 0x0, 0x0, 0x0, 0x0⟩,
  ⟨0x120014, [], 0xFFFFFFFF, 0x0, 0x0, 0x0, 0x0, 0x0⟩,
  ⟨0x120018, [], 0xFFFFFFFF, 0x0, 0x0, 0x0, 0x0, 0x0⟩,
  ⟨0x12001C, [], 0xFFFFFFFF, 0x0, 0x0, 0x0, 0x0, 0x0⟩,
  ⟨0x120100, [(32, 0x4)], 0xFFFFFFFF, 0x0, 0x0, 0x0, 0x0, 0x0⟩,
  ⟨0x121000, [(1024, 0x4)], 0x800003FF, 0x0, 0x0, 0x0, 0x0, 0x0⟩]

/-- The register table of the Host block. -/
def regsHost : List RegDesc := [
  ⟨0x140000, [(4, 0x100)], 0x3FF, 0x0, 0x0, 0xFFFF0000, 0x0, 0x0⟩,
  ⟨0x140004, [(4, 0x100)], 0x7, 0xFFFFFF00, 0x0, 0x0, 0x0, 0x3FE1000⟩,
  ⟨0x140008, [(4, 0x100)], 0x0, 0xFFFFFFFF, 0x0, 0x0, 0x0, 0x0⟩,
  ⟨0x14000C, [(4, 0x100)], 0x0, 0xFFFFFFFF, 0x0, 0x0, 0x0, 0x0⟩,
  ⟨0x140010, [(4, 0x100)], 0x0, 0xF, 0x0, 0x0, 0x0, 0x0⟩,
  ⟨0x140014, [(4, 0x100)], 0x0, 0xFFF, 0x0, 0x0, 0x0, 0x0⟩,
  ⟨0x140018, [(4, 0x100)], 0xFFF, 0x0, 0x0, 0x0, 0x0, 0x0⟩,
  ⟨0x140020, [(4, 0x100)], 0x0, 0xFFFFFFFF, 0x0, 0x0, 0x0, 0x0⟩,
  ⟨0x140024, [(4, 0x100)], 0x0, 0xFFFFFFFF, 0x0, 0x0, 0x0, 0x0⟩,
  ⟨0x140028, [(4, 0x100)], 0x0, 0xF, 0x0, 0x0, 0x0, 0x0⟩,
  ⟨0x14002C, [(4, 0x100)], 0x0, 0xFFF, 0x0, 0x0, 0x0, 0x0⟩,
  ⟨0x140030, [(4, 0x100)], 0xFFF, 0x0, 0x0, 0x0, 0x0, 0x0⟩,
  ⟨0x140034, [(4, 0x100)], 0x7F, 0x0, 0x0, 0x0, 0x0, 0x0⟩,
  ⟨0x140038, [(4, 0x100)], 0x0, 0x0, 0x0, 0xFFFFFFFF, 0x0, 0x0⟩,
  ⟨0x14003C, [(4, 0x100)], 0x3, 0x0, 0x0, 0xFFFF0000, 0x0, 0x0⟩,
  ⟨0x141000, [], 0x1FF, 0x0, 0x0, 0x0, 0x0, 0x0⟩,
  ⟨0x141004, [], 0x0, 0x0, 0x0, 0xFFFFFFFF, 0x0, 0x0⟩]

/-- The register table of the Nvm block. -/
def regsNvm : List RegDesc := [
  ⟨0x300000, [], 0xFF07, 0x0, 0x0, 0x0, 0x0, 0x0⟩,
  ⟨0x300004, [], 0xFF, 0x0, 0x0, 0x0, 0x0, 0x0⟩,
  ⟨0x300008, [], 0xFFFFFFFF, 0x0, 0x0, 0x0, 0x0, 0x0⟩,
  ⟨0x30000C, [], 0xFFFFFF, 0x0, 0x0, 0x0, 0x0, 0x0⟩]

/-- The register table of the Gcore block. -/
def regsGcore : List RegDesc := [
  ⟨0x160000, [(32, 0x40)], 0x0, 0x1D, 0x0, 0x0, 0x0, 0x0⟩,
  ⟨0x160004, [(32, 0x40)], 0xFFF, 0x0, 0x0, 0x0, 0x0, 0x48⟩,
  ⟨0x160008, [(32, 0x40)], 0xFFFFF, 0x0, 0x0, 0x0, 0x0, 0x0⟩,
  ⟨0x16000C, [(32, 0x40)], 0x0, 0x1FFFFF, 0x0, 0x0, 0x0, 0x0⟩,
  ⟨0x160010, [(32, 0x40)], 0x0, 0x8000FFFF, 0x0, 0x0, 0x0, 0x0⟩,
  ⟨0x160014, [(32, 0x40)], 0xF3, 0x0, 0x0, 0x0, 0x0, 0x0⟩,
  ⟨0x160018, [(32, 0x40)], 0x0, 0x0, 0x0, 0xFFFFFFFF, 0x0, 0x0⟩,
  ⟨0x16001C, [(32, 0x40)], 0x0, 0x0, 0x0, 0xFFFFFFFF, 0x0, 0x0⟩,
  ⟨0x160020, [(32, 0x40)], 0x0, 0x0, 0x0, 0xFFFFFFFF, 0x0, 0x0⟩,
  ⟨0x160024, [(32, 0x40)], 0x0, 0x0, 0x0, 0xFFFFFFFF, 0x0, 0x0⟩,
  ⟨0x161000, [], 0x0, 0x801FFFFF, 0x0, 0x0, 0x0, 0x0⟩,
  ⟨0x161004, [], 0x0, 0x3FFF, 0x0, 0x0, 0x0, 0x0⟩,
  ⟨0x161008, [], 0x0, 0x0, 0x0, 0x801FFFFF, 0x0, 0x0⟩,
  ⟨0x16100C, [], 0xFFFFFFFF, 0x0, 0x0, 0x0, 0x0, 0x0⟩]

/-- The register table of the Icu block. -/
def regsIcu : List RegDesc := [
  ⟨0x170000, [], 0x0, 0x1, 0x0, 0x0, 0x0, 0x0⟩,
  ⟨0x170004, [], 0x0, 0x0, 0x0, 0x0, 0x0, 0x0⟩,
  ⟨0x170080, [(16, 0x4)], 0xFFFFFFFF, 0x0, 0x0, 0x0, 0x0, 0x0⟩,
  ⟨0x1700C0, [(16, 0x4)], 0xFFFFFFFF, 0x0, 0x0, 0x0, 0x0, 0x0⟩,
  ⟨0x170400, [(32, 0x10)], 0x0, 0xF, 0x0, 0x0, 0x0, 0x0⟩,
  ⟨0x170404, [(32, 0x10)], 0x0, 0x0, 0x0, 0x8000F1FF, 0x0, 0x0⟩,
  ⟨0x170408, [(32, 0x10)], 0x0, 0x0, 0x0, 0x0, 0x0, 0x0⟩,
  ⟨0x17040C, [(32, 0x10)], 0xF, 0x0, 0x0, 0x0, 0x0, 0x0⟩,
  ⟨0x171004, [(511, 0x4)], 0xE00, 0xFF0701FF, 0x0, 0x0, 0x0, 0x0⟩]

/-- The register table of the Tmr block. -/
def regsTmr : List RegDesc := [
  ⟨0x180000, [(16, 0x40)], 0x0, 0x1FF, 0x0, 0x0, 0x0, 0x0⟩,
  ⟨0x180004, [(16, 0x40)], 0x0, 0x0, 0x0, 0x0, 0xFFFFFFFF, 0xFFFFFFFF⟩,
  ⟨0x180008, [(16, 0x40)], 0x0, 0xFFFFFFFF, 0x0, 0x0, 0x0, 0x0⟩,
  ⟨0x18000C, [(16, 0x40)], 0xFFFFFFFF, 0x0, 0x0, 0x0, 0x0, 0x0⟩,
  ⟨0x180010, [(16, 0x40), (4, 0x4)], 0x0, 0x0, 0x0, 0x0, 0xFFFFFFFF, 0xFFFFFFFF⟩,
  ⟨0x180020, [(16, 0x40)], 0xF0000, 0xFFF, 0x0, 0x0, 0x0, 0x0⟩,
  ⟨0x180024, [(16, 0x40)], 0x0, 0x37F037F, 0x0, 0x0, 0x0, 0x0⟩,
  ⟨0x180028, [(16, 0x40), (2, 0x4)], 0xFFFFFFFF, 0x0, 0x0, 0x0, 0x0, 0x0⟩,
  ⟨0x180030, [(16, 0x40)], 0x60, 0x0, 0x19F, 0x0, 0x0, 0x0⟩,
  ⟨0x180034, [(16, 0x40)], 0x0, 0x1FF, 0x0, 0x0, 0x0, 0x0⟩,
  ⟨0x180400, [], 0xFFFFFFFF, 0x0, 0x0, 0x0, 0x0, 0x0⟩,
  ⟨0x180404, [], 0xFFFFFFFF, 0x0, 0x0, 0x0, 0x0, 0x0⟩,
  ⟨0x180408, [], 0x0, 0xFFFFFFFF, 0x0, 0x0, 0x0, 0x0⟩,
  ⟨0x18040C, [], 0x0, 0xFFFFFFFF, 0x0, 0x0, 0x0, 0x0⟩,
  ⟨0x180800, [(32, 0x20)], 0x0, 0x7, 0x0, 0x0, 0x0, 0x0⟩,
  ⟨0x180804, [(32, 0x20)], 0x0, 0xFFFFFFFF, 0x0, 0x0, 0x0, 0xF4240⟩,
  ⟨0x180808, [(32, 0x20)], 0x0, 0xFFFFFFFF, 0x0, 0x0, 0x0, 0x0⟩,
  ⟨0x18080C, [(32, 0x20)], 0x0, 0x0, 0x0, 0x0, 0x0, 0x0⟩,
  ⟨0x180810, [(32, 0x20)], 0xFFFFFFFF, 0x0, 0x0, 0x0, 0x0, 0x0⟩]

/-- The register table of the Gpio block. -/
def regsGpio : List RegDesc := [
  ⟨0x190000, [(64, 0x4)], 0x6000, 0x1FFF, 0x0, 0x0, 0x0, 0x100F⟩,
  ⟨0x190100, [], 0xFFFFFFFF, 0x0, 0x0, 0x0, 0x0, 0x0⟩,
  ⟨0x190104, [], 0xFFFFFFFF, 0x0, 0x0, 0x0, 0x0, 0x0⟩,
  ⟨0x190108, [], 0x0, 0x0, 0x0, 0x0, 0x0, 0x0⟩,
  ⟨0x19010C, [], 0x0, 0x0, 0x0, 0x0, 0x0, 0x0⟩,
  ⟨0x190110, [], 0x0, 0x0, 0x0, 0x0, 0x0, 0x0⟩,
  ⟨0x190114, [], 0x0, 0x0, 0x0, 0x0, 0x0, 0x0⟩,
  ⟨0x190120, [], 0x3, 0x0, 0x0, 0x0, 0x0, 0x0⟩]

/-- The register table of the Dma block. -/
def regsDma : List RegDesc := [
  ⟨0x1A0000, [(16, 0x40)], 0x0, 0xFFFFFFFF, 0x0, 0x0, 0x0, 0x0⟩,
  ⟨0x1A0004, [(16, 0x40)], 0x0, 0xFF, 0x0, 0x0, 0x0, 0x0⟩,
  ⟨0x1A0008, [(16, 0x40)], 0x0, 0xFFFFFFFF, 0x0, 0x0, 0x0, 0x0⟩,
  ⟨0x1A000C, [(16, 0x40)], 0x0, 0xFF, 0x0, 0x0, 0x0, 0x0⟩,
  ⟨0x1A0010, [(16, 0x40)], 0x0, 0xFFFFFF, 0x0, 0x0, 0x0, 0x0⟩,
  ⟨0x1A0014, [(16, 0x40)], 0x0, 0x3FFF, 0x0, 0x0, 0x0, 0x0⟩,
  ⟨0x1A0018, [(16, 0x40)], 0x0, 0x0, 0x0, 0x0, 0x0, 0x0⟩,
  ⟨0x1A001C, [(16, 0x40)], 0x79, 0x0, 0x6, 0x0, 0x0, 0x0⟩,
  ⟨0x1A0020, [(16, 0x40)], 0x1FFFFFF, 0x0, 0x0, 0x0, 0x0, 0x0⟩,
  ⟨0x1A0024, [(16, 0x40)], 0xFFFFFFFF, 0x0, 0x0, 0x0, 0x0, 0x0⟩,
  ⟨0x1A0028, [(16, 0x40)], 0xFF, 0x0, 0x0, 0x0, 0x0, 0x0⟩]

/-- The register table of the Mbx block. -/
def regsMbx : List RegDesc := [
  ⟨0x1C0000, [(32, 0x2000), (16, 0x4)], 0x0, 0xFFFFFFFF, 0x0, 0x0, 0x0, 0x0⟩,
  ⟨0x1C0040, [(32, 0x2000)], 0x0, 0x1, 0x0, 0x0, 0x0, 0x0⟩,
  ⟨0x1C0800, [(32, 0x2000), (36, 0x80), (16, 0x4)], 0xFFFFFFFF, 0x0, 0x0, 0x0, 0x0, 0x0⟩,
  ⟨0x1C1C00, [(32, 0x2000)], 0xFFFFFFFF, 0x0, 0x0, 0x0, 0x0, 0x0⟩,
  ⟨0x1C1C04, [(32, 0x2000)], 0xF, 0x0, 0x0, 0x0, 0x0, 0x0⟩,
  ⟨0x1C1C08, [(32, 0x2000)], 0x0, 0x0, 0x0, 0x0, 0x0, 0x0⟩,
  ⟨0x1C1C0C, [(32, 0x2000)], 0x0, 0xFFFFFFFF, 0x0, 0x0, 0x0, 0xFFFFFFFF⟩,
  ⟨0x1C1C10, [(32, 0x2000)], 0x0, 0xF, 0x0, 0x0, 0x0, 0xF⟩,
  ⟨0x1C1C14, [(32, 0x2000)], 0x4, 0x3, 0x0, 0x0, 0x0, 0x0⟩]

/-- The register table of the Float block. -/
def regsFloat : List RegDesc := [
  ⟨0x1B0000, [], 0x0, 0x1FF, 0x0, 0x0, 0x0, 0x0⟩,
  ⟨0x1B0004, [], 0x0, 0xFFFFFFFF, 0x0, 0x0, 0x0, 0x0⟩,
  ⟨0x1B0008, [], 0x0, 0xFF, 0x0, 0x0, 0x0, 0x0⟩,
  ⟨0x1B000C, [], 0x0, 0xFFFFF, 0x0, 0x0, 0x0, 0x0⟩,
  ⟨0x1B0010, [], 0x0, 0xFFFFFFFF, 0x0, 0x0, 0x0, 0x0⟩,
  ⟨0x1B0014, [], 0x0, 0xFF, 0x0, 0x0, 0x0, 0x0⟩,
  ⟨0x1B0018, [], 0x0, 0xFFFFF, 0x0, 0x0, 0x0, 0x0⟩,
  ⟨0x1B001C, [], 0x0, 0x3FFF3FFF, 0x0, 0x0, 0x0, 0x0⟩,
  ⟨0x1B0020, [], 0x0, 0xFFFFFFFF, 0x0, 0x0, 0x0, 0x0⟩,
  ⟨0x1B0024, [], 0x0, 0x3FF, 0x0, 0x0, 0x0, 0x3FF⟩,
  ⟨0x1B0028, [], 0x0, 0x0, 0x0, 0x0, 0x0, 0x0⟩,
  ⟨0x1B002C, [], 0x3FFF0079, 0x0, 0x6, 0x0, 0x0, 0x0⟩]

/-- The register table of the Vid block. -/
def regsVid : List RegDesc := [
  ⟨0x200000, [], 0x0, 0x3, 0x0, 0x0, 0x0, 0x0⟩,
  ⟨0x200004, [], 0xFFF0001, 0x0, 0x0, 0x0, 0x0, 0x0⟩,
  ⟨0x200008, [], 0xF00, 0x1, 0x0, 0x0, 0x0, 0x0⟩,
  ⟨0x20000C, [], 0xFFFFFFFF, 0x0, 0x0, 0x0, 0x0, 0x0⟩,
  ⟨0x200010, [], 0x0, 0x0, 0x0, 0x0, 0x3FFFFFFF, 0x0⟩,
  ⟨0x200014, [], 0x0, 0x0, 0x0, 0x0, 0x3, 0x1⟩,
  ⟨0x200020, [], 0x0, 0x0, 0x0, 0x0, 0x1FFF1FFF, 0x0⟩,
  ⟨0x200024, [], 0x0, 0x0, 0x0, 0x0, 0x81FF1FFF, 0x0⟩,
  ⟨0x200028, [], 0x0, 0x0, 0x0, 0x0, 0xFFF0FFF, 0x0⟩,
  ⟨0x20002C, [], 0x0, 0x0, 0x0, 0x0, 0x80FF0FFF, 0x0⟩,
  ⟨0x200030, [], 0x0, 0x0, 0x0, 0x0, 0xFFFFF, 0x0⟩,
  ⟨0x200034, [], 0x0, 0x0, 0x0, 0x0, 0x87FFFFFF, 0x0⟩,
  ⟨0x200038, [], 0x0, 0x0, 0x0, 0xFFFFFFFF, 0x0, 0x0⟩,
  ⟨0x200040, [], 0x0, 0x3F, 0x0, 0x0, 0x0, 0x0⟩,
  ⟨0x200044, [], 0x0, 0x0, 0x3F, 0x0, 0x0, 0x0⟩,
  ⟨0x200048, [], 0x0, 0x0, 0xFFFF, 0x0, 0x0, 0x0⟩,
  ⟨0x20004C, [], 0x0, 0x0, 0xFFFF, 0x0, 0x0, 0x0⟩,
  ⟨0x201000, [(8, 0x40)], 0x0, 0x0, 0x0, 0x0, 0x3FFF, 0x0⟩,
  ⟨0x201004, [(8, 0x40)], 0x0, 0x0, 0x0, 0x0, 0x7FFFFFF, 0x0⟩,
  ⟨0x201008, [(8, 0x40)], 0x0, 0x0, 0x0, 0x0, 0xFFFFF, 0x0⟩,
  ⟨0x20100C, [(8, 0x40)], 0x0, 0x0, 0x0, 0x0, 0x1FFF1FFF, 0x0⟩,
  ⟨0x201010, [(8, 0x40)], 0x0, 0x0, 0x0, 0x0, 0x1FFF1FFF, 0x0⟩,
  ⟨0x201014, [(8, 0x40)], 0x0, 0x0, 0x0, 0x0, 0x1FFF1FFF, 0x0⟩,
  ⟨0x201018, [(8, 0x40)], 0x0, 0x0, 0x0, 0x0, 0x1FFF1FFF, 0x0⟩,
  ⟨0x20101C, [(8, 0x40)], 0x0, 0x0, 0x0, 0x0, 0x3FF, 0x3FF⟩,
  ⟨0x201020, [(8, 0x40)], 0x0, 0x0, 0x0, 0x0, 0x7FFFFFF, 0x0⟩,
  ⟨0x201024, [(8, 0x40)], 0x0, 0x0, 0x0, 0x0, 0x3FF03FF, 0x0⟩,
  ⟨0x201028, [(8, 0x40)], 0x1, 0x0, 0x0, 0xFFFF0000, 0x0, 0x0⟩,
  ⟨0x20102C, [(8, 0x40)], 0xFFFFFFFF, 0x0, 0x0, 0x0, 0x0, 0x0⟩,
  ⟨0x202000, [(4, 0x40)], 0x0, 0xFF01FFFF, 0x0, 0x0, 0x0, 0xC⟩,
  ⟨0x202004, [(4, 0x40)], 0x0, 0x7FFFFFF, 0x0, 0x0, 0x0, 0x0⟩,
  ⟨0x202008, [(4, 0x40)], 0x0, 0x7FFFFFF, 0x0, 0x0, 0x0, 0x0⟩,
  ⟨0x20200C, [(4, 0x40)], 0x0, 0xFFFFF, 0x0, 0x0, 0x0, 0x0⟩,
  ⟨0x202010, [(4, 0x40)], 0x0, 0x1FFF1FFF, 0x0, 0x0, 0x0, 0x0⟩,
  ⟨0x202014, [(4, 0x40)], 0xFF, 0x0, 0x0, 0x0, 0x0, 0x3F⟩,
  ⟨0x202018, [(4, 0x40)], 0xFFFFFFFF, 0x0, 0x0, 0x0, 0x0, 0x0⟩,
  ⟨0x20201C, [(4, 0x40)], 0x0, 0x0, 0x0, 0xFFFFFFFF, 0x0, 0x0⟩,
  ⟨0x203000, [(16, 0x20)], 0x0, 0x0, 0x0, 0x0, 0x1FFF1FFF, 0x0⟩,
  ⟨0x203004, [(16, 0x20)], 0x0, 0x0, 0x0, 0x0, 0x1FFF1FFF, 0x0⟩,
  ⟨0x203008, [(16, 0x20)], 0x0, 0x0, 0x0, 0x0, 0x3, 0x0⟩,
  ⟨0x20300C, [(16, 0x20)], 0x0, 0x0, 0x0, 0x0, 0xFFFFFFFF, 0x0⟩,
  ⟨0x203010, [(16, 0x20)], 0xFFFFFFFF, 0x0, 0x0, 0x0, 0x0, 0x0⟩,
  ⟨0x203014, [(16, 0x20)], 0xFFFFFFFF, 0x0, 0x0, 0x0, 0x0, 0x0⟩,
  ⟨0x206000, [], 0x0, 0x1FF, 0x0, 0x0, 0x0, 0x0⟩,
  ⟨0x206004, [], 0x0, 0xFFFF, 0x0, 0x0, 0x0, 0x0⟩,
  ⟨0x206008, [], 0x27, 0x0, 0x18, 0x0, 0x0, 0x0⟩,
  ⟨0x206010, [], 0x0, 0x1FFFFFFF, 0x0, 0x0, 0x0, 0x0⟩,
  ⟨0x206014, [(4, 0x4)], 0x0, 0xFFFFFFFF, 0x0, 0x0, 0x0, 0x0⟩,
  ⟨0x206024, [], 0x1FF, 0x0, 0x0, 0x0, 0x0, 0x0⟩,
  ⟨0x204000, [(4, 0x400), (64, 8), (2, 4)], 0, 0, 0, 0, 0x3FFFFFFF, 0⟩,
  ⟨0x204200, [(4, 0x400), (64, 8)], 0, 0, 0, 0, 0x3FFFFFFF, 0⟩,
  ⟨0x204204, [(4, 0x400), (64, 8)], 0, 0, 0, 0, 0x3FF, 0⟩,
  ⟨0x205000, [(4, 0x400), (256, 4)], 0, 0, 0, 0, 0xFFFFFFFF, 0⟩]

/-- The register table of the Aud block. -/
def regsAud : List RegDesc := [
  ⟨0x240000, [], 0x0, 0x1, 0x0, 0x0, 0x0, 0x0⟩,
  ⟨0x240004, [], 0x1, 0x0, 0x0, 0x0, 0x0, 0x0⟩,
  ⟨0x240008, [], 0xFFFFFFFF, 0x0, 0x0, 0x0, 0x0, 0x0⟩,
  ⟨0x24000C, [], 0x0, 0x7, 0x0, 0x0, 0x0, 0x0⟩,
  ⟨0x240010, [], 0x0, 0x0, 0x7, 0x0, 0x0, 0x0⟩,
  ⟨0x241000, [(2, 0x40)], 0x0, 0x7F, 0x0, 0x0, 0x0, 0x1E⟩,
  ⟨0x241004, [(2, 0x40)], 0x0, 0x1FFF1FFF, 0x0, 0x0, 0x0, 0x0⟩,
  ⟨0x241008, [(2, 0x40)], 0x0, 0x77F, 0x0, 0x0, 0x0, 0x208⟩,
  ⟨0x24100C, [(2, 0x40)], 0x3FF, 0x0, 0x0, 0x0, 0x0, 0x0⟩,
  ⟨0x241010, [(2, 0x40)], 0x0, 0x0, 0x0, 0xFFFFFFFF, 0x0, 0x0⟩,
  ⟨0x241014, [(2, 0x40)], 0x0, 0x0, 0x0, 0xFFFFFFFF, 0x0, 0x0⟩,
  ⟨0x242000, [(16, 0x20)], 0x0, 0xF, 0x0, 0x0, 0x0, 0x0⟩,
  ⟨0x242004, [(16, 0x20)], 0x0, 0xF7F, 0x0, 0x0, 0x0, 0x0⟩,
  ⟨0x242008, [(16, 0x20)], 0x0, 0x7FF03FF, 0x0, 0x0, 0x0, 0x64000A⟩,
  ⟨0x24200C, [(16, 0x20)], 0x0, 0xFFFFF, 0x0, 0x0, 0x0, 0x60C0⟩,
  ⟨0x24300C, [(16, 0x20)], 0x0, 0xFFFFF, 0x0, 0x0, 0x0, 0x60C0⟩,
  ⟨0x242010, [(16, 0x20)], 0x3FF, 0x0, 0x0, 0x0, 0x0, 0x0⟩,
  ⟨0x243000, [(16, 0x20)], 0x0, 0x1F, 0x0, 0x0, 0x0, 0x0⟩]

/-- The register table of the Dbg block. -/
def regsDbg : List RegDesc := [
  ⟨0x280000, [], 0x6, 0x1, 0x0, 0x0, 0x0, 0x0⟩,
  ⟨0x280004, [], 0x0, 0xFFFFFFFF, 0x0, 0x0, 0x0, 0x3E8⟩,
  ⟨0x280008, [], 0x0, 0xFFFFFFFF, 0x0, 0x0, 0x0, 0x0⟩,
  ⟨0x28000C, [], 0x3FFF, 0x0, 0x0, 0x0, 0x0, 0x0⟩,
  ⟨0x280010, [], 0xFFFFFFFF, 0x0, 0x0, 0x0, 0x0, 0x0⟩,
  ⟨0x280014, [], 0xFFFFFFFF, 0x0, 0x0, 0x0, 0x0, 0x0⟩,
  ⟨0x281000, [(32, 0x100)], 0x0, 0xF13, 0x0, 0x0, 0x0, 0x0⟩,
  ⟨0x281004, [(32, 0x100)], 0x1F, 0x0, 0x20, 0x0, 0x0, 0x0⟩,
  ⟨0x281010, [(32, 0x100), (4, 0x4)], 0x0, 0x800FFFFF, 0x0, 0x0, 0x0, 0x0⟩,
  ⟨0x281020, [(32, 0x100), (2, 0xC)], 0x0, 0xFFFFFFFF, 0x0, 0x0, 0x0, 0x0⟩,
  ⟨0x281024, [(32, 0x100), (2, 0xC)], 0x0, 0xFFFFFFFF, 0x0, 0x0, 0x0, 0x0⟩,
  ⟨0x281028, [(32, 0x100), (2, 0xC)], 0x0, 0x3, 0x0, 0x0, 0x0, 0x0⟩,
  ⟨0x281040, [(32, 0x100), (32, 0x4)], 0x0, 0x0, 0x0, 0x0, 0x0, 0x0⟩]

/-- The register table of the Pwr block. -/
def regsPwr : List RegDesc := [
  ⟨0x20000, [], 0x0, 0x3FF, 0x0, 0x0, 0x0, 0x0⟩,
  ⟨0x20004, [], 0x0, 0xFFFF, 0x0, 0x0, 0x0, 0x0⟩,
  ⟨0x20008, [], 0xE3FF03FF, 0x0, 0x0, 0x0, 0x0, 0x0⟩,
  ⟨0x2000C, [], 0xFFFF07FF, 0x0, 0x0, 0x0, 0x0, 0x0⟩,
  ⟨0x20010, [], 0xFFFFFFFF, 0x0, 0x0, 0x0, 0x0, 0x0⟩,
  ⟨0x20014, [], 0xFFFFFFFF, 0x0, 0x0, 0x0, 0x0, 0x0⟩,
  ⟨0x20018, [], 0xFFF, 0x0, 0xFFF0000, 0x0, 0x0, 0x0⟩,
  ⟨0x2001C, [], 0xFFFFFFFF, 0x0, 0x0, 0x0, 0x0, 0x0⟩,
  ⟨0x20020, [], 0xFFFFFFFF, 0x0, 0x0, 0x0, 0x0, 0x0⟩]

/-- The block of R32 an offset lies in, as its register table. -/
def regsOf (off : Nat) : List RegDesc :=
  let b := off / 0x10000
  if b < 0x1 then regsSys
  else if b < 0x2 then regsCairn
  else if b < 0x4 then regsPwr
  else if b < 0x8 then regsLink
  else if b < 0xA then regsTrv
  else if b < 0xC then regsMem
  else if b < 0x10 then regsQue
  else if b < 0x11 then regsCkp
  else if b < 0x12 then regsVis
  else if b < 0x14 then regsRes
  else if b < 0x16 then regsHost
  else if b < 0x17 then regsGcore
  else if b < 0x18 then regsIcu
  else if b < 0x19 then regsTmr
  else if b < 0x1A then regsGpio
  else if b < 0x1B then regsDma
  else if b < 0x1C then regsFloat
  else if b < 0x20 then regsMbx
  else if b < 0x24 then regsVid
  else if b < 0x28 then regsAud
  else if b < 0x30 then regsDbg
  else if b < 0x100 then regsNvm
  else []

end Sys2Proof.Machine
end

