-- ==== Sys2Proof/Machine/State.lean ====
section
/-! DEFINITION. The state of one KN9600 module, as plain data: the control space, the fabric, HBM, and every unit the
rules describe, with the machine right after reset. -/

namespace Sys2Proof.Machine

/-- Supplies, RESET_N, REFCLK, the boot sequence and the pins of the power controller (R296-R299, R447-R451). -/
structure Power where
  vauxGood : Bool
  vinGood : Bool
  vioA : Bool
  vioB : Bool
  resetN : Bool
  refclk : Bool
  bootStep : Nat        -- the last step of R298 that is complete
  bootWindow : Bool     -- the window of R299 runs
  windowOver : Bool     -- the window of R299 has expired without a passed check
  heardMgr : Bool       -- a BEAT of the manager was heard since BOOT began
  thermN : Bool         -- THERM_N released
  pwrGood : Bool        -- PWR_GOOD driven high
  criticalOff : Bool    -- every rail derived from VIN is shut off (R451)
  hot : Bool            -- the warning temperature's crossing is recorded, the release not reached (R451)
  railSeen : Nat        -- rails that have been good since BOOT began (R448)
  bootTick : Nat        -- local ticks at the start of BOOT
  capMv : Nat           -- the fabric supply the power cap asks for (R450)
  tempMv : Nat          -- the fabric supply the temperature asks for (R451)
  tbclk : Bool          -- TBCLK locked (R298 step 1)
  held : Bool           -- an image has been held since reset (R23)
deriving DecidableEq, Repr

/-- A mode transition in progress (R27): where it goes, whether it ends stranded, and whether what it waits for has
come about. -/
structure Trans where
  goal : Nat
  strand : Bool
  ready : Bool
deriving DecidableEq, Repr

/-- The mode machine beside SYS_MODE (R24-R28). -/
structure ModeSt where
  trans : Option Trans
  keptC4 : Bool
  keptC3 : Bool
  keptC2 : Bool
  keptFreeze : Bool
  keptOrders : List (Nat × Bool × Nat)   -- MODE orders kept: mode, strand, traverse
  recEntry : Nat                         -- the mode at RECOVER entry
  orderAt : Option (Nat × Bool × Nat)    -- a MODE order that applies at a traverse (R463): mode, strand, traverse
  runDone : Bool                         -- FREEZE is being entered by an exhausted run count (R82)
  c4Hold : Bool                          -- every handshake grant withheld by the C4 action (R238)
  stranded : Bool
  unloadRefs : List CmdRef               -- UNLOAD tags
  silent : Bool                          -- in SAFE on its own C4: the traffic R29 allows and no other
  c4Rec : Option (Nat × Nat × Nat × Nat) -- SAFE announcement kept to the end of a transition: SEQ, TIME, TRAVERSE, DETAIL
  released : Bool                        -- in RECOVER: MODE RUN has released re-execution
  resumed : Bool                         -- in SAFE: a RESUME has restored the state, FREEZE may follow (R25)
deriving DecidableEq, Repr

/-- An access of a memory port, from its start to its completion (R140, R141). -/
structure Access where
  port : Nat
  tram : Bool
  write : Bool
  keep : BitVec 8
  word : Nat
  data : DWord
  trav : Nat
  failed : Bool    -- it met an uncorrectable word and waits for the rollback
deriving DecidableEq, Repr

/-- A value on its way over the tile network (R53, R67). -/
structure NetVal where
  slot : Nat       -- device-wide slot number 512t + n
  parity : Bool
  value : Bool
  trav : Nat
deriving DecidableEq, Repr

/-- A value in a tile's send buffer (R53, R67): DEST is the low 27 bits of its send-route entry. -/
structure SendVal where
  rope : Bool
  dest : Nat
  value : Bool
  trav : Nat
deriving DecidableEq, Repr

/-- A tile's own registers (R42-R44, R68-R70). -/
structure Tile where
  count : Nat
  inTrav : Bool
  step : Nat
  wait : Nat
  detail : Nat
  sendIdx : Nat
  lastPop : Word
  popValid : Bool
  qEmpty : Bool
  sense : Nat
deriving DecidableEq, Repr

/-- The design side of a queue endpoint (R189, R191). -/
structure Endpoint where
  staging : Word
  acked : Nat
  popped : Nat
  closed : Nat
  dropped : Nat
  trunc : Bool
  words : List Word     -- the open entry; its length is BUILD
deriving DecidableEq, Repr

/-- The Faces: evaluators, tiles, tile RAM and memory ports, numbered as R59 numbers them. -/
structure Fabric where
  step : Store (BitVec 80)       -- key 1024 (512t + e) + s
  lds : Store DWord              -- key 16 (512t + e) + group
  q : Store DWord                -- key 512t + e
  dq : Store DWord
  bus : Store Bool               -- key 512t + e
  slots : Store (Option Bool)    -- key 2 (512t + n) + bank
  expect : Store Bool            -- key 512t + n
  route : Store Word             -- key 4096t + k
  tram : Store DWord             -- key 8192t + w
  dirty : Store Bool             -- key 256t + block
  written : Store Bool           -- key 256t + block, written in the present traverse
  probe : Store Bool             -- key 256t + b
  capture : Store Bool           -- key 65536 parity + 256t + b
  preg : Store DWord             -- key 4 (4t + p) + register
  pret : Store DWord             -- key 4t + p
  acc : List Access              -- outstanding accesses, in start order
  ep : Store Endpoint            -- key 32t + e
  winBase : Store Nat
  winSize : Store Nat
  tiles : Store Tile
  net : List NetVal
  sends : Store (List SendVal)   -- a tile's send buffer, oldest first
deriving DecidableEq, Repr

/-- Running, stopping and gating (R71-R87). -/
structure Travs where
  fence : Option Nat
  floors : Store Nat             -- the stored floor of each target partition
  targets : List Nat
  feeders : List Nat
  hostWaits : List (Nat × Nat)   -- announced host waits of the system: position, endpoint
  ownWaits : List Nat            -- host waits this device announces
  winBase : Nat                  -- the floor at the start of the rate window
  arrived : Bool                 -- this device has reported its arrival at the stop count
  trigT : Option Nat             -- the traverse after that of a trigger that asked for the freeze to come (R213)
  highs : List (Nat × Nat)       -- manager: HIGH reports, position and H_D
  arriveds : List (Nat × Nat)    -- manager: ARRIVED reports, position and stop count
  freezeRefs : List CmdRef       -- FREEZE tags that complete when FREEZE is reached
  runRefs : List CmdRef          -- RUN tags that complete when RUN is entered
  stepRefs : List CmdRef         -- STEP tags
  pendingRun : Option Nat        -- a RUN accepted, its count, waiting for the census or a checkpoint
  granules : List Nat            -- granules with an uncorrectable error in this run (R147)
  retired : List Nat             -- granules whose HBM row is retired
  waitWords : List Nat           -- HBM words outstanding until rebuilt (R146)
  waitSteps : List Nat           -- step words that a read other than execution waits for (R62)
  waitWrites : List (Nat × Nat × Nat × List Byte)  -- writes that wait for a rebuild (R461): its word, word written, address, bytes
  runStop : Option Nat           -- the stop count of the last RUN (R82)
deriving DecidableEq, Repr

/-- A data flit (R101-R104) without its CRC, and the receive buffer it still holds when it is forwarded. -/
structure Flit where
  ty : Nat
  seq : Nat
  hops : Nat
  rsv : Bool
  dest : Nat
  dkind : Bool
  pcast : Bool
  src : Nat
  sub : Nat
  body : BitVec 224
  held : Option (Nat × Bool)   -- rope it came in on, RSV as it arrived
  sends : Nat                  -- times it was sent under its SEQ
deriving DecidableEq, Repr

/-- One rope: wiring, retry, credits and lanes (R92-R124). -/
structure Rope where
  wired : Bool
  expPos : Nat
  expRope : Nat
  rate : Nat                 -- 0 auto, 1 full only, 2 fallback only
  txSeq : Nat
  rxSeq : Nat                -- next expected SEQ
  rxAny : Bool
  nakSent : Bool
  changed : Bool             -- a counter of LC_STATUS has changed since it was last sent
  replay : List Flit         -- unacknowledged, oldest first
  kept : List (List Flit)    -- the replay buffer of each loss until the peer's ROPE_LOST about it, oldest first (R460)
  outq : List Flit
  freedShared : Nat
  freed0 : Store Nat
  freedv : Store Nat         -- key 16 (v - 1) + class
  seenShared : Nat
  seen0 : Store Nat
  seenv : Store Nat
  cr0 : Store Nat            -- credits held: VC0 by class
  crv : Store Nat            -- credits held: VC1-VC3 reserved
  rxLanes : BitVec 8         -- lanes this receiver decodes
  txLanes : BitVec 8         -- lanes the peer decodes
  hbPos : Nat
  hbMode : Nat
  hbRole : Nat
  hbStranded : Bool
  retry : Bool               -- a retraining attempt runs
  lost : Bool                -- lost and, while a detour is in force, not back in use (R118, R124)
  units : Nat                -- units of 10 bits sent since the active lanes last changed (R99)
deriving DecidableEq, Repr

/-- An open SIGNAL flit (R106). -/
structure SigOpen where
  part : Nat
  parity : Bool
  tiles : List Nat           -- the tiles that sent into it
  entries : List SigEntry
deriving DecidableEq, Repr

/-- Links, BELAY and time synchronisation (R98-R132). -/
structure Links where
  ropes : Store Rope
  waitq : List Flit              -- flits for which no usable rope exists (R118)
  own : List Flit                -- waiting flits that a map change has made this device's own (R115)
  sig : List SigOpen
  epoch : Nat
  accepted : List (Nat × Nat × Nat)  -- the last 16 BELAYs accepted: ORIGIN, EPOCH, local ticks
  good : Nat
  bad : Nat
  adjusting : Int                -- offset still to be slewed, in 1/64 tick
  frac : Nat                     -- the timebase's part below one tick, in 1/64 tick
deriving DecidableEq, Repr

/-- A delta or region word at the spare or adopter (R153, R155). -/
structure PLog where
  src : Nat
  seq8 : Nat
  addr : Nat
  delta : DWord
deriving DecidableEq, Repr

/-- Parity and rebuild (R151-R155, R256-R259, R267). -/
structure Parity where
  queue : List PLog                     -- the worker's delta queue; src is the interval's CKP_SEQ
  sent : Store Nat                      -- deltas sent by interval CKP_SEQ
  log : List PLog
  got : Store Nat                       -- key 2^32 position + CKP_SEQ: deltas received
  marks : List (Nat × Nat × Nat)        -- position, CKP_SEQ, count
  due : List (Nat × Nat)                -- intervals whose MARK is owed: CKP_SEQ, boundary
  rebuilding : Bool                     -- a parity rebuild or rejoin stream runs
  krSeq : Nat                           -- K_r of the rebuild, 0 while not yet named
  pin : Option Nat                      -- pinned boundary (R257)
  pageEnd : Nat                         -- an adopter rebuilds the region pages below this one
  rebuilt : Store Bool                  -- of them, those rebuilt
  pageGot : Store Nat                   -- page -> words received
  pageEnds : List (Nat × Nat × Nat)     -- page, peer, count
  ends : List Nat                       -- peers whose region stream has ended
  streamTo : Option Nat                 -- a peer streams its region as at the pin to this position
  served : List Nat                     -- pages of that stream sent ahead on request
  streamNext : Nat                      -- the next page of that stream
  streamEnd : Nat                       -- the page it ends at
  streamSeq : Nat                       -- CKP_SEQ of the pinned boundary
  wordReqs : List (Nat × DWord × List Nat)  -- words being rebuilt: byte address, XOR so far, peers heard
deriving DecidableEq, Repr

/-- A checkpoint (R156): Q, queue positions, and the saves of the interval that begins at it. -/
structure Ckpt where
  seq : Nat
  k : Nat
  tiles : List Nat                      -- tiles that have captured
  q : Store DWord
  qpos : Store DWord                    -- key 4q + i
  tram : Store (List DWord)             -- block -> old contents
  pages : Store (List Host.Cell)        -- save page -> old contents
  jmark : Nat
deriving DecidableEq, Repr

/-- The checkpoint engine (R156-R182). -/
structure CkpSt where
  pends : List Ckpt                     -- taken and not yet committed or abandoned, oldest first
  kept : List Ckpt                      -- committed, newest first: latest, previous, history
  lastSeq : Nat
  lastBound : Nat
  period : Nat
  wallcap : Nat
  lead : Nat
  requesting : Bool
  freezeAt : Option Nat                 -- a freeze checkpoint still to be taken at this boundary
  commits : Nat
  replies : List (Nat × Nat)
  readys : List Nat
  jackEnd : Nat                         -- CKP_SEQ whose END the spare has stored
  jdue : List (Nat × Nat)               -- journal MARKs owed: CKP_SEQ, boundary
  gone : List Nat                       -- checkpoints abandoned since the last commit
  streamed : Bool                       -- the pending checkpoint's stream has been sent
  restore : List Nat                    -- save pages marked for restore (R182)
  restoreK : Nat
  floorTick : Nat                       -- local ticks when the manager's floor reached the pending boundary
  replayWait : Option CmdRef            -- a REPLAY that waits for its entry checkpoint
  rollEnd : Bool                        -- a restore is under way, completion not yet reported
  doneK : Nat                           -- the boundary of that restore, which DONE reports
  full : Nat                            -- stream of everything to a joined spare (R267): 3 K_r not yet named, 1 due, 2 under way, 0 none
deriving DecidableEq, Repr

/-- One journal record (R175). -/
structure JRec where
  off : Nat
  seq : Nat
  words : List DWord
deriving DecidableEq, Repr

/-- The input journal (R174-R178). -/
structure Journal where
  recs : List JRec
  wr : Nat                    -- offset of the next record, in words since LOAD
  acked : Nat                 -- offset the spare has stored (JACK)
  since : Nat                 -- words since the last checkpoint taken
  reading : Bool              -- tiles read records instead of live values
  rd : List JRec              -- records still to be read, in order
deriving DecidableEq, Repr

/-- A queue descriptor (R184). -/
structure QDesc where
  bound : Bool
  fromDesign : Bool
  blocking : Bool
  notify : Bool
  slotLog : Nat
  countLog : Nat
  owner : Nat
  vector : Nat
  relay : Bool
  homeQ : Nat
  homePart : Nat
  prod : Nat
  cons : Nat
  base : Nat
  orphan : Bool               -- the owner was lost with the adopted device (R254)
deriving DecidableEq, Repr

/-- A closed from-design entry (R191, R193). -/
structure HeldEntry where
  q : Nat
  index : Nat
  trunc : Bool
  data : List Word
  trav : Nat
deriving DecidableEq, Repr

/-- A publish in progress: its entries wait for the spare's acknowledgement or for journal room (R176, R194). -/
structure Publish where
  relay : Bool
  q : Nat
  src : Agent
  first : Nat                 -- the next slot to examine
  left : Nat
  waitOff : Nat               -- journal offset whose JACK completes the entry written
  wrote : Bool                -- the entry's ENTRY record stands in the journal
deriving DecidableEq, Repr

/-- One chunk of a relayed entry (R199). -/
structure Chunk where
  q : Nat
  index : Nat
  chunk : Nat
  last : Bool
  data : BitVec 128
deriving DecidableEq, Repr

/-- The queue engine (R183-R203). -/
structure Queues where
  desc : Store QDesc
  rdesc : Store QDesc
  held : List HeldEntry
  backlog : List HeldEntry
  drops : List (Nat × HeldEntry)  -- dropped entries a rollback can bring back: DROPPED before it, entry
  acks : List (Nat × Nat)     -- ACKs under the commit horizon: queue, traverse
  pubs : List Publish
  errs : Store Word           -- QUE_ERR by source
  chunks : List Chunk
  dtab : Nat
  rtab : Nat
deriving DecidableEq, Repr

/-- The running part of a trigger unit (R212). -/
structure TrigUnit where
  prev : Bool
  cnt : Nat
  armed : Bool            -- armed by its ARM_UNIT, meaningful when ARM_EN is 1
  off : Bool              -- disarmed by ONESHOT until rewritten
deriving DecidableEq, Repr

/-- An assembled trace or replay record not yet written (R204, R219). -/
structure TraceRec where
  t : Nat
  bytes : List Byte
deriving DecidableEq, Repr

/-- Trace, triggers and replay (R204-R222). -/
structure Vis where
  units : Store TrigUnit
  firedPrev : BitVec 64       -- FIRED of the previous evaluation
  lineLatch : BitVec 64       -- lines received since the previous evaluation
  rcLatch : BitVec 16         -- region-check mismatches since the previous evaluation
  pend : List TraceRec
  lastRec : Option Nat        -- traverse of the last record captured
  ringT : List Nat            -- traverses of the records in the ring, newest first
  gap : Bool
  resumed : Bool
  emptyNext : Bool            -- a mask change empties the ring when the next RUN begins
  evaluated : Bool            -- VIS_TRG_EVAL holds a traverse evaluated since LOAD
  rplSeq : Nat
  rplK : Nat
  rplEnd : Nat
  rplS : Nat
  rplFrom : Nat
  rplState : Bool
  rplProbes : Bool
  rplMask : List Nat          -- tiles captured in the window
  rplEp : Store Endpoint      -- endpoints at REPLAY entry
  rplQ : Store DWord          -- Q at the end of a captured traverse, key 131072 parity + 512t + e
  overlay : List Nat          -- region pages with an overlay page, in the order these are allocated downward from the area's top (R220)
  rplPend : List TraceRec
  rplRef : Option CmdRef
  rplEnding : Bool
  rplEntrySeq : Nat           -- the checkpoint the state at entry is restored from
  rplWait : Bool              -- manager: a replay waits for every device's DONE to be released (R74)
  rplFired : BitVec 64        -- FIRED of the previous evaluation of the replay
  rplFreeze : Bool            -- manager: a unit with RPL_END ends the replay at a boundary to be computed (R220)
deriving DecidableEq, Repr

/-- An unacknowledged record as the Cairn keeps it (R229). -/
structure Unack where
  seq : Nat
  cls : Nat
  at_ : Nat        -- local ticks at its writing
deriving DecidableEq, Repr

/-- The Cairn beside its registers (R223-R239). -/
structure Cairn where
  ring : Store Word                      -- 8,192 words at offset 0x01_8000
  unack : List Unack
  pulse : Bool                           -- the C2 pulse of FLT_N runs
  pulseSeq : Nat
  lastC2 : Option (Nat × Nat × Nat)      -- SOURCE, DETAIL, TRAVERSE of the C2 event of the last rollback
  injected : List Nat                    -- error keys of the last 16 injected words
  crcMask : Store (BitVec 8)             -- injection armed on the next data flit of a rope
  nmi : Bool                             -- the NMI of core 0 is requested
deriving DecidableEq, Repr

/-- What an acknowledged map change waits for (R241). -/
structure AckWait where
  sub : Nat
  what : Nat
  left : List Nat
deriving DecidableEq, Repr

/-- A census in progress (R161, R260, R271). -/
structure Census where
  kind : Nat                             -- 0 edit census of R161 (RUN), 1 of REPLAY, 2 deputy, 3 reunion
  replies : List (Nat × Nat × Nat × Nat × Bool)  -- position, boundary, CKP_SEQ, role, EDITED
deriving DecidableEq, Repr

/-- Resilience: map changes, losses, recovery (R240-R272). -/
structure Resil where
  topo : List (Nat × Nat × Nat × Nat)    -- manager: position, role, configured role, partition + 1 or 0
  silents : List (Nat × Nat × Nat)       -- reporter, silent position, local ticks at the report
  settling : Bool
  acks : List AckWait
  census : Option Census
  recovering : Bool                      -- the recovery sequence of R251 runs at the manager
  phase : Nat                            -- of it: 0 hold and adoption, 1 restore, 2 route switch, 3 re-execution
  resuming : Option CmdRef               -- a RESUME runs the same sequence from SAFE
  mapChanged : Bool                      -- a partition changed holder in this recovery
  mapOld : Option Nat                    -- adopter: the position it takes the partition over from
  hd : Option Nat                        -- H_D at the hold this device recovers from, at the manager the highest
  lostRopes : List (Nat × Nat × Nat)     -- manager: ropes reported lost: position, peer position, local ticks at the report
  rollSeq : Nat
  rollK : Nat
  catchup : Nat
  dones : List Nat
  toAdopt : List (Nat × Nat)             -- manager: partition, spare still to be sent ADOPT
  adopting : List (Nat × Nat)            -- manager: partition, spare still to send ADOPTED
  noHighs : Bool                         -- a takeover: the recovery runs from step 3, without HIGH reports
  degraded : List (Nat × Nat)            -- manager: ropes with a lane loss reported, position and peer position
  deadLinks : List (Nat × Nat × Bool)    -- manager: torus links without a detour: party, dimension, minus
  mapping : List (Nat × Nat)             -- manager: partition, position to switch to
  reattach : List Nat                    -- manager: adopted partitions whose relayed queues are still to be reattached (R254)
  adoptPart : Option Nat                 -- spare: partition being adopted
  adoptReady : Bool
  target : Option (Nat × Nat)            -- spare: K, CKP_SEQ of the adoption
  safeLost : List Nat                    -- positions LOST through their SAFE announcement or a fence
  startTick : Nat                        -- local ticks from which the recovery's interruption counts (R253)
  since : Option Nat                     -- the start of the silence the recovery to come answers
  adoptSeq : Nat                         -- manager: the target's CKP_SEQ of the last adoption (R216)
  seqBase : Nat                          -- highest CKP_SEQ a new manager has seen
  mgrHold : Bool                         -- hold of R263
  joinRestores : Bool                    -- RESTORES is taken from the next BEAT
  noParity : List Nat                    -- manager: spares that reported parity not consistent, or joined in this run (R155, R267)
  takeover : Option (List (Nat × Nat × Nat × Nat × Bool))  -- deputy: the census answers of a takeover that waits for RECOVER (R21)
deriving DecidableEq, Repr

/-- What a spare holds of one worker of its party (R170, R249). -/
structure WorkerCopy where
  state : Store DWord
  tram : Store DWord
  qpos : Store DWord
  jrnl : List (Nat × Nat × DWord)        -- interval CKP_SEQ mod 128, offset, word
  stage : List (Nat × Nat × Nat × DWord) -- KIND, CKP_SEQ mod 128, offset, word
  flits : Nat
  endSeq : Nat
  endK : Nat
  endFlits : Nat
  image : List Byte
  jackOff : Nat
  fails : Nat                            -- streams of its container that failed their checks (R311)
deriving DecidableEq, Repr

/-- A command accepted and not ended (R288). -/
structure Cmd where
  ref : CmdRef
  desc : List Word
  bytes : Nat
  slices : Nat
  moved : Nat                            -- slices moved; `slices` of them are complete
deriving DecidableEq, Repr

/-- A partner port (R273-R295). -/
structure Port where
  mb : Store Word
  fifo : List (List Word)
  waiting : List (Bool × Bool × List Word)   -- event?, NOIRQ, record
  phase : Bool
  inq : List (Bool × List Word)              -- submitted and not yet taken: from the ring?, descriptor
  active : List Cmd
  msix : Store Word                      -- MSI-X table, by byte offset
  pba : List Nat
deriving DecidableEq, Repr

/-- A relayed command at the manager (R285). -/
structure Relay where
  rtag : Nat
  port : Nat
  tag : Nat
  target : Nat
  opcode : Nat
  first : Option (BitVec 128)            -- record part received
  second : Option (BitVec 128)
  got : Nat                              -- data flits placed
  data : List Byte                       -- LOAD_PART: the container sent
  live : Bool                            -- the port still waits for the record (R274)
deriving DecidableEq, Repr

/-- The command executor (R277-R295). -/
structure HostSide where
  ports : Store Port
  relays : List Relay
  relayed : List Cmd                     -- commands this device runs for the manager's relay
  parts : List (Nat × Nat × Nat × BitVec 192)  -- manager position, RTAG, PART, bytes
  loading : Bool
  noCheck : Bool
  loadRef : Option CmdRef
  accepted : List Nat                    -- manager: partitions accepted
  loadN : Nat                            -- N of the manager's partition; 0 until its header is read
  loadBuild : Nat                        -- BUILD_ID of the manager's partition
  bulk : List (Nat × Nat × Nat × BitVec 192)   -- BULK data toward this device: SRC, RTAG, OFFSET, bytes
  bulkEnds : List (Nat × Nat × Nat)      -- streams ended: SRC, RTAG, number of data flits
  refused : Option (List Word)
  loadFault : Bool                       -- a C2 event in LOAD: the load is to be aborted (R224)
  imageHeld : Bool                       -- this device's partition has an accepted image
  image : List Byte                      -- its container
  region : Nat                           -- SIZE_GIB of the last image (R149)
  copied : Bool                          -- the spare has confirmed its copy of the container (R311)
  bar2 : List (Nat × Nat × Nat)          -- BAR2 reads that wait: port, address, length (R461)
  relayQs : List (Nat × Nat × Nat)       -- manager, in LOAD: relayed bindings: partition, queue, descriptor bytes 8-11
deriving DecidableEq, Repr

/-- What a pad drives (R370): value, enable and pull. -/
structure Pad where
  value : Bool
  enable : Bool
  pull : Nat
deriving DecidableEq, Repr

/-- The general-purpose pins (R368-R378). -/
structure Pins where
  ext : Store Bool            -- level an outside driver gives, as the glitch filter last passed it
  hold : Store (Option Pad)   -- what a held pad keeps
  modeHeld : BitVec 64        -- the pins the hold of R375 holds
  c4Held : Bool               -- the hold of R376 stands
  trig : BitVec 64            -- 100-tick pulses
  systrig : BitVec 64
  status : BitVec 8
deriving DecidableEq, Repr

/-- The interrupt controller (R352-R359): pending bits of event sources, and the active sources with core and
recorded priority. -/
structure Icu where
  pend : Store Bool
  active : List (Nat × Nat × Nat)
deriving DecidableEq, Repr

/-- Timers beside their registers (R360-R365). -/
structure Timers where
  alarmArmed : Bool
  wrapSeen : Store Bool       -- a mode 4 or 5 output is between wrap and match
deriving DecidableEq, Repr

/-- A store in a core's store buffer (R345), by transfer address (R379). -/
structure SBuf where
  at_ : Nat
  bytes : List Byte
deriving DecidableEq, Repr

/-- A load whose data has not returned (R337): the registers it writes and the values on their way. -/
structure PendLoad where
  regs : List (Nat × Word)
deriving DecidableEq, Repr

/-- The instruction that opened the present group (R335), as far as pairing asks for it. -/
structure GroupHead where
  mem : Bool
  mul : Bool
  writes : List Nat
  cmp : Bool              -- CMP, CMPI or TST
  flags : Bool            -- sets flags
  words : Nat
deriving DecidableEq, Repr

/-- A guide core beside its control-space registers (R316-R351, R440, R441). -/
structure GCore where
  w : Store Word              -- w0-w14
  usp : Word
  ssp : Word
  pc : BitVec 20
  st : Word
  cause : Word
  faddr : Word
  ls : Store (BitVec 20)
  le : Store (BitVec 20)
  lc : Store Word
  resv : Option Nat           -- the reserved word, by transfer address
  waiting : Bool
  locked : Bool
  resetDue : Bool             -- RESET is taken once RUN is 1
  wake : Bool                 -- an event of R389 asks a parked domain to power up
  halted : Bool               -- core halt (R441)
  monitor : Option Word       -- monitor mode, with SSP as its entry left it
  nmi : Option Word           -- NMI_ACTIVE, with SSP as recorded at NMI entry
  vector : Nat                -- the last vector entered
  sbuf : List SBuf            -- oldest first
  loads : List PendLoad       -- oldest first
  pred : Store (BitVec 2)     -- branch predictor
  ras : List (BitVec 20)      -- return stack, newest first
  ic : Store (List (BitVec 16))   -- program cache: line number -> 32 words
  dc : Store (List Byte)      -- data cache: transfer address / 64 -> 64 bytes
  group : Option GroupHead
deriving DecidableEq, Repr

/-- The video bridge beside its registers and the Screed (R396-R420). -/
structure Video where
  num : Store Nat             -- frame number of buffer b of capture port p, key 4p + b
  age : Store Nat             -- frame boundaries the FILLING frame of a port has seen
  hist : List (Nat × Store Word)   -- line list: overlay in force from a line on, newest first
  llPos : Nat                 -- the next entry
  llLast : Nat                -- LINE of the last entry read
  llCount : Nat               -- entries applied before that line
  llEnded : Bool
  halted : Bool               -- a debug halt interrupted the frame (R413)
deriving DecidableEq, Repr

/-- An audio port beside its registers (R422-R434). -/
structure AudPort where
  seq : Nat                          -- input blocks since EN was set
  gap : Bool
  frames : List (List (BitVec 24))   -- the input block being gathered, oldest first
  absentIn : Bool                    -- every frame of it was absent
  absent : Bool                      -- FSYNC is absent
  clipIn : List (List Byte)          -- input clip buffer
  clipOut : List (List (List (BitVec 24)))   -- output clip buffer: blocks of frames
  play : List (List (BitVec 24))     -- frames of the playing block still to be sent
  pipe : List (List (BitVec 24))     -- frames on their way to DOUT, next one first
deriving DecidableEq, Repr

/-- An audio path: filter, envelope and gain (R424-R426). -/
structure AudPath where
  x1 : Int                           -- high-pass filter: samples and results before, results in 1/2^24
  x2 : Int
  y1 : Int
  y2 : Int
  env : Nat
  cur : Nat                          -- the gain code in force
  wait : Option Nat                  -- samples a gain change has waited
  prev : Int                         -- the sample before, as the gain stage saw it
  raw : Int                          -- an input path's sample as DIN gave it
deriving DecidableEq, Repr

/-- The debug port (R435-R445). -/
structure Debug where
  ir : Nat
  boundary : BitVec 225              -- the boundary register as last updated
  sample : BitVec 225                -- the pins as last sampled
  request : Option (BitVec 80)       -- a DAP request that runs
  status : Nat                       -- STATUS of the last request
  data : Word
  trace : List (BitVec 64)           -- the stimulus trace buffer, oldest first
  lost : Bool
  last : Option Nat                  -- SYS_TIME [63:19] of the last packet
deriving DecidableEq, Repr

/-- What leaves the module: everything another agent can see of a step beside the registers. -/
inductive Out where
  | flit (rope : Nat) (f : Flit) (bytes : List Byte) (lanes : List Nat)   -- its 40 bytes; the lanes of its 32 units
  | control (rope ty : Nat) (payload : BitVec 184) (bytes : List Byte) (lanes : List Nat)
  | ordered (rope : Nat) (belay : Bool) (body : BitVec 26) (levels : List Nat)   -- its 48 PAM4 levels
  | hostWrite (port addr : Nat) (data : List Byte)
  | msix (port vector : Nat)
  | busError (port : Nat)
  | readData (port : Nat) (data : List Byte)   -- the completion of a host read through BAR2
  | tdo (bits : List Bool)
  | aux (request : Nat) (addr : Nat) (data : List Byte)
  | frame (n : Nat) (black : Bool)
  | audio (port : Nat) (dout : List (BitVec 24))
deriving DecidableEq, Repr

/-- Everything in the module but HBM and the queue of waiting commands. -/
structure Dev where
  regs : Store Word           -- the control space, by offset; SH fields: the shadow
  inForce : Store Word        -- SH registers: the copy in force
  llOver : Store Word         -- SH registers changed by the line list until the frame ends
  hiShadow : Store (Option Word)  -- latched upper halves (R7), by agent and offset of _HI
  busRead : Word              -- data of the last register read; the model's own record of what a reader received
  pw : Power
  md : ModeSt
  fab : Fabric
  tv : Travs
  lk : Links
  par : Parity
  ck : CkpSt
  jr : Journal
  qu : Queues
  vs : Vis
  cn : Cairn
  rs : Resil
  wk : Store WorkerCopy       -- a spare's copies, by worker position
  hs : HostSide
  pins : Pins
  icu : Icu
  tm : Timers
  gc : Store GCore            -- the guide cores
  psram : Store (BitVec 14)   -- program SRAM, key 2^16 core + address
  dsram : Store Byte          -- local data SRAM, key 2^17 core + address
  screed : Store Byte
  mbx : Store Word            -- mailbox words, key 16 (36 core + channel) + i
  mbxFull : Store Bool        -- key 36 core + channel
  vid : Video
  aud : Store AudPort
  path : Store AudPath        -- input paths 0-15, output paths at 16
  dbg : Debug
  ecc : Store (BitVec 8)      -- check bits that stand inverted, by word (R239)
  nvm : List Byte             -- the applied container (R306)
  out : List Out              -- what left the module, newest first
  ticks : Nat                 -- local TBCLK ticks since VAUX first good
  free : Nat                  -- the MODEL's own counter: which free value comes next
deriving DecidableEq, Repr

/-- HBM: the bytes that are not 0, addresses rising (R133, R298 step 6). -/
abbrev Mem := List Host.Cell

/-- The machine: the queue of waiting commands, the module, and its HBM. -/
structure State where
  pending : List Instr
  dev : Dev
  mem : Mem
deriving DecidableEq, Repr

/-- Why a step stops. -/
inductive Fault where
  /-- Raised by `illegal` for an encoding R334 calls reserved, where the rule gives no effect. Safe: the machine
  stops where the hardware's behaviour is not given. -/
  | reservedEncoding
deriving DecidableEq, Repr

/-- Why a command has no meaning. -/
inductive Refusal where
  /-- Answered by an arm of `exec` whose command has no meaning yet. Safe: nothing is claimed of it. -/
  | notModelled (mnemonic : String)
deriving DecidableEq, Repr

/-- The power state when VAUX is first good and RESET_N is high: VIN, the bank supplies and REFCLK still absent. -/
def Power.reset : Power where
  vauxGood := true
  vinGood := false
  vioA := false
  vioB := false
  resetN := true
  refclk := false
  bootStep := 0
  bootWindow := false
  windowOver := false
  heardMgr := false
  thermN := true
  pwrGood := false
  criticalOff := false
  hot := false
  railSeen := 0
  bootTick := 0
  capMv := 800
  tempMv := 800
  tbclk := false
  held := false

/-- BOOT (R24), no transition. -/
def ModeSt.reset : ModeSt where
  trans := none
  keptC4 := false
  keptC3 := false
  keptC2 := false
  keptFreeze := false
  keptOrders := []
  recEntry := 0
  orderAt := none
  runDone := false
  c4Hold := false
  stranded := false
  unloadRefs := []
  silent := false
  c4Rec := none
  released := false
  resumed := false

/-- The Faces with every store empty. -/
def Fabric.reset : Fabric where
  step := []
  lds := []
  q := []
  dq := []
  bus := []
  slots := []
  expect := []
  route := []
  tram := []
  dirty := []
  written := []
  probe := []
  capture := []
  preg := []
  pret := []
  acc := []
  ep := []
  winBase := []
  winSize := []
  tiles := []
  net := []
  sends := []

/-- No traverse run, no hold, no fence. -/
def Travs.reset : Travs where
  fence := none
  floors := []
  targets := []
  feeders := []
  hostWaits := []
  ownWaits := []
  winBase := 0
  arrived := false
  trigT := none
  highs := []
  arriveds := []
  freezeRefs := []
  runRefs := []
  stepRefs := []
  pendingRun := none
  granules := []
  retired := []
  waitWords := []
  waitSteps := []
  waitWrites := []
  runStop := none

/-- Every rope DOWN. -/
def Links.reset : Links where
  ropes := []
  waitq := []
  own := []
  sig := []
  epoch := 0
  accepted := []
  good := 0
  bad := 0
  adjusting := 0
  frac := 0

/-- Empty parity queue and log. -/
def Parity.reset : Parity where
  queue := []
  sent := []
  log := []
  got := []
  marks := []
  due := []
  rebuilding := false
  krSeq := 0
  pin := none
  pageEnd := 0
  rebuilt := []
  pageGot := []
  pageEnds := []
  ends := []
  streamTo := none
  served := []
  streamNext := 0
  streamEnd := 0
  streamSeq := 0
  wordReqs := []

/-- No checkpoint. -/
def CkpSt.reset : CkpSt where
  pends := []
  kept := []
  lastSeq := 0
  lastBound := 0
  period := 0
  wallcap := 0
  lead := 0
  requesting := false
  freezeAt := none
  commits := 0
  replies := []
  readys := []
  jackEnd := 0
  jdue := []
  gone := []
  streamed := false
  restore := []
  restoreK := 0
  floorTick := 0
  replayWait := none
  rollEnd := false
  doneK := 0
  full := 0

/-- An empty journal. -/
def Journal.reset : Journal where
  recs := []
  wr := 0
  acked := 0
  since := 0
  reading := false
  rd := []

/-- No queue bound. -/
def Queues.reset : Queues where
  desc := []
  rdesc := []
  held := []
  backlog := []
  drops := []
  acks := []
  pubs := []
  errs := []
  chunks := []
  dtab := 0
  rtab := 0

/-- Nothing captured, no trigger evaluated, no replay. -/
def Vis.reset : Vis where
  units := []
  firedPrev := 0
  lineLatch := 0
  rcLatch := 0
  pend := []
  lastRec := none
  ringT := []
  gap := false
  resumed := false
  emptyNext := false
  evaluated := false
  rplSeq := 0
  rplK := 0
  rplEnd := 0
  rplS := 0
  rplFrom := 0
  rplState := false
  rplProbes := false
  rplMask := []
  rplEp := []
  rplQ := []
  overlay := []
  rplPend := []
  rplRef := none
  rplEnding := false
  rplEntrySeq := 0
  rplWait := false
  rplFired := 0
  rplFreeze := false

/-- An empty fault ring. -/
def Cairn.reset : Cairn where
  ring := []
  unack := []
  pulse := false
  pulseSeq := 0
  lastC2 := none
  injected := []
  crcMask := []
  nmi := false

/-- No loss, no recovery, no census. -/
def Resil.reset : Resil where
  topo := []
  silents := []
  settling := false
  acks := []
  census := none
  recovering := false
  phase := 0
  resuming := none
  mapChanged := false
  mapOld := none
  hd := none
  lostRopes := []
  rollSeq := 0
  rollK := 0
  catchup := 0
  dones := []
  toAdopt := []
  adopting := []
  noHighs := false
  degraded := []
  deadLinks := []
  mapping := []
  reattach := []
  adoptPart := none
  adoptReady := false
  target := none
  safeLost := []
  startTick := 0
  since := none
  adoptSeq := 0
  seqBase := 0
  mgrHold := false
  joinRestores := false
  noParity := []
  takeover := none

/-- No command active, no load. -/
def HostSide.reset : HostSide where
  ports := []
  relays := []
  relayed := []
  parts := []
  loading := false
  noCheck := false
  loadRef := none
  accepted := []
  loadN := 0
  loadBuild := 0
  bulk := []
  bulkEnds := []
  refused := none
  loadFault := false
  imageHeld := false
  image := []
  region := 0
  copied := false
  bar2 := []
  relayQs := []

/-- No pad held, no pulse. -/
def Pins.reset : Pins where
  ext := []
  hold := []
  modeHeld := 0#64
  c4Held := false
  trig := 0
  systrig := 0
  status := 0

/-- No interrupt pending or active. -/
def Icu.reset : Icu where
  pend := []
  active := []

/-- No alarm armed. -/
def Timers.reset : Timers where
  alarmArmed := false
  wrapSeen := []

/-- No frame captured, no line list. -/
def Video.reset : Video where
  num := []
  age := []
  hist := []
  llPos := 0
  llLast := 0
  llCount := 0
  llEnded := false
  halted := false

/-- The TAP selects IDCODE (R435); no request, an empty trace buffer. -/
def Debug.reset : Debug where
  ir := 1
  boundary := 0
  sample := 0
  request := none
  status := 0
  data := 0
  trace := []
  lost := false
  last := none

/-- The module right after reset: every register at its reset value (no entry of `regs` differs from it). -/
def Dev.reset : Dev where
  regs := []
  inForce := []
  llOver := []
  hiShadow := []
  busRead := 0
  pw := Power.reset
  md := ModeSt.reset
  fab := Fabric.reset
  tv := Travs.reset
  lk := Links.reset
  par := Parity.reset
  ck := CkpSt.reset
  jr := Journal.reset
  qu := Queues.reset
  vs := Vis.reset
  cn := Cairn.reset
  rs := Resil.reset
  wk := []
  hs := HostSide.reset
  pins := Pins.reset
  icu := Icu.reset
  tm := Timers.reset
  gc := []
  psram := []
  dsram := []
  screed := []
  mbx := []
  mbxFull := []
  vid := Video.reset
  aud := []
  path := []
  dbg := Debug.reset
  ecc := []
  nvm := []
  out := []
  ticks := 0
  free := 0

/-- The machine right after reset: the module as VAUX first becomes good (R296, R298), HBM with nothing listed, no
command waiting. -/
def State.reset : State where
  pending := []
  dev := Dev.reset
  mem := []

end Sys2Proof.Machine
end

