-- ==== Sys2Proof/Machine/Store.lean ====
section
/-! DEFINITION. Sparse arrays: a list of (key, value) pairs, keys strictly rising, no entry equal to what an unlisted
key reads as. The reading of unlisted keys is the argument `dflt` of every operation. -/

namespace Sys2Proof.Machine

/-- The value at key `k`. -/
def sget {α : Type} (dflt : Nat → α) : Store α → Nat → α
  | [], k => dflt k
  | (k', v) :: r, k => if k' = k then v else sget dflt r k

/-- The array without an entry at `k`. -/
def sdel {α : Type} : Store α → Nat → Store α
  | [], _ => []
  | (k', v) :: r, k => if k' = k then sdel r k else (k', v) :: sdel r k

/-- The array with a new entry in its place among rising keys. -/
def sins {α : Type} : Store α → Nat → α → Store α
  | [], k, v => [(k, v)]
  | (k', v') :: r, k, v => if k < k' then (k, v) :: (k', v') :: r else (k', v') :: sins r k v

/-- Write `v` at `k`; writing what an unlisted key reads as removes the entry. -/
def sset {α : Type} [DecidableEq α] (dflt : Nat → α) (st : Store α) (k : Nat) (v : α) : Store α :=
  if v = dflt k then sdel st k else sins (sdel st k) k v

/-- Remove every entry of the keys `lo` to `lo + n - 1`: they read as unlisted. -/
def sclear {α : Type} (st : Store α) (lo n : Nat) : Store α :=
  st.filter fun e => !(decide (lo ≤ e.1) && decide (e.1 < lo + n))

/-- Write consecutive values from key `lo` on. -/
def sputs {α : Type} [DecidableEq α] (dflt : Nat → α) (st : Store α) (lo : Nat) : List α → Store α
  | [] => st
  | v :: r => sputs dflt (sset dflt st lo v) (lo + 1) r

/-- Read `n` consecutive values from key `lo` on. -/
def sgets {α : Type} (dflt : Nat → α) (st : Store α) (lo : Nat) : Nat → List α
  | 0 => []
  | n + 1 => sget dflt st lo :: sgets dflt st (lo + 1) n

/-- The entries of the keys `lo` to `lo + n - 1`, keys counted from `lo`. -/
def sslice {α : Type} (st : Store α) (lo n : Nat) : Store α :=
  (st.filter fun e => decide (lo ≤ e.1) && decide (e.1 < lo + n)).map fun e => (e.1 - lo, e.2)

/-- The canonical form: keys strictly rising, no entry equal to what an unlisted key reads as. -/
def swf {α : Type} [DecidableEq α] (dflt : Nat → α) (st : Store α) : Bool :=
  decide (st.Pairwise fun a b => a.1 < b.1) && st.all fun e => !decide (e.2 = dflt e.1)

end Sys2Proof.Machine
end

