-- ==== Sys2Proof/Machine/Ops.lean ====
section
/-! DEFINITION. The named operations over the state: registers and their fields, HBM bytes and words, the fabric's
stores, and the outputs of the module. -/

namespace Sys2Proof.Machine

/-- Bit `i` of a number. -/
def bitOf (v i : Nat) : Bool := v / 2 ^ i % 2 == 1

/-- Bits [hi:lo] of a number. -/
def bitsOf (v hi lo : Nat) : Nat := v / 2 ^ lo % 2 ^ (hi - lo + 1)

/-- A Bool as a number. -/
def b2n (b : Bool) : Nat := if b then 1 else 0

/-- Whether `off` names one of the copies a register row describes. -/
def dimsMatch : List (Nat × Nat) → Nat → Bool
  | [], o => o == 0
  | (n, s) :: r, o => decide (o / s < n) && dimsMatch r (o % s)

/-- The row of the register tables that describes the register at `off`; none for an unassigned offset (R6). -/
def regDesc? (off : Nat) : Option RegDesc :=
  (regsOf off).find? fun d => decide (d.base ≤ off) && dimsMatch d.dims (off - d.base)

/-- The default class of a Cairn source (R226). -/
def srcDefault (s : Nat) : Nat :=
  ([0, 0, 2, 0, 2, 0, 2, 3, 2, 2, 1, 0, 0, 2, 2, 1, 1, 1, 1, 1, 2, 2, 1, 3, 4, 2, 1, 1, 4, 4, 0, 1, 3, 3, 1, 1, 0] :
    List Nat).getD s 0

/-- The floor of a Cairn source (R226). -/
def srcFloor (s : Nat) : Nat :=
  ([0, 0, 2, 0, 2, 0, 2, 3, 1, 1, 0, 0, 0, 2, 2, 1, 1, 0, 1, 1, 2, 2, 1, 3, 4, 1, 0, 0, 4, 4, 0, 0, 3, 3, 0, 0, 0] :
    List Nat).getD s 0

/-- The reset class of a repeat (R228). -/
def srcRepeat (s : Nat) : Nat :=
  if s == 0x08 || s == 0x09 || s == 0x0D then 4 else if s == 0x02 || s == 0x04 || s == 0x06 then 3 else 7

/-- A coefficient register from three signed 10-bit taps. -/
def taps (a b c : Int) : Word :=
  BitVec.ofInt 10 c ++ BitVec.ofInt 10 b ++ BitVec.ofInt 10 a |>.setWidth 32

/-- The resets that the text gives in words (R226-R228 for the Cairn, R351 for core 0, R355 for fixed targets, R407 for the
scaler's coefficients). -/
def wordReset (off : Nat) : Option Word :=
  if 0x10104 ≤ off ∧ off ≤ 0x10190 then
    let s := (off - 0x10100) / 4
    some (BitVec.ofNat 32 (srcDefault s + 8 * srcFloor s + 64 * srcRepeat s))
  else if off == 0x10014 then some 1000000#32
  else if off == 0x10018 || off == 0x1001C then some 100000#32
  else if off == 0x160000 then some 1#32
  else if 0x204000 ≤ off ∧ off < 0x205000 then
    let i := off % 0x400
    let p : Int := i % 0x200 / 8
    let odd := i / 4 % 2 == 1
    some (if i < 0x200 then (if odd then taps (4 * p) 0 0 else taps 0 0 (256 - 4 * p))
      else if odd then 0#32 else taps 0 (256 - 4 * p) (4 * p))
  else if 0x171100 ≤ off ∧ off < 0x171280 then some (BitVec.ofNat 32 ((off - 0x171100) / 4 % 32 * 16))
  else none

/-- What a register holds while nothing has changed it: its reset value (R4). -/
def regReset (off : Nat) : Word :=
  match wordReset off with
  | some w => w
  | none => match regDesc? off with
    | some d => BitVec.ofNat 32 d.reset
    | none => 0#32

/-- The register at an offset, as it is stored. -/
def getR (d : Dev) (off : Nat) : Word := sget regReset d.regs off

/-- The device with a register replaced. -/
def setR (d : Dev) (off : Nat) (v : Word) : Dev := { d with regs := sset regReset d.regs off v }

/-- A field of a word. -/
def fieldOf (w : Word) (f : Fld) : Nat := bitsOf w.toNat f.hi f.lo

/-- A word with a field replaced; the value is cut to the field's width. -/
def withField (w : Word) (f : Fld) (v : Nat) : Word :=
  let n := 2 ^ (f.hi - f.lo + 1)
  BitVec.ofNat 32 (w.toNat - fieldOf w f * 2 ^ f.lo + v % n * 2 ^ f.lo)

/-- A plain write of a register (R3, R6): RW and SH bits take the value, W1C bits written 1 clear, the others keep what they
hold; a write of an unassigned offset is ignored. -/
def plainWrite (off : Nat) (v : Word) (d : Dev) : Dev :=
  match regDesc? off with
  | none => d
  | some r =>
    let m := BitVec.ofNat 32 (r.rw ||| r.sh)
    setR d off ((getR d off &&& ~~~m ||| v &&& m) &&& ~~~(v &&& BitVec.ofNat 32 r.w1c))

/-- The field of a register. -/
def getF (d : Dev) (f : Fld) : Nat := fieldOf (getR d f.off) f

/-- The device with a field of a register replaced. -/
def setF (d : Dev) (f : Fld) (v : Nat) : Dev := setR d f.off (withField (getR d f.off) f v)

/-- A one-bit field as a Bool. -/
def flag (d : Dev) (f : Fld) : Bool := getF d f == 1

/-- Set or clear a one-bit field. -/
def setFlag (d : Dev) (f : Fld) (b : Bool) : Dev := setF d f (b2n b)

/-- The largest value of a field. -/
def fieldMax (f : Fld) : Nat := 2 ^ (f.hi - f.lo + 1) - 1

/-- A saturating counter field plus `n` (the counters the tables say saturate). -/
def countF (d : Dev) (f : Fld) (n : Nat) : Dev := setF d f (min (getF d f + n) (fieldMax f))

/-- A wrapping counter field plus 1. -/
def bumpF (d : Dev) (f : Fld) : Dev := setF d f (getF d f + 1)

/-- A whole register as a field. -/
def whole (off : Nat) : Fld := ⟨off, 31, 0⟩

/-- Bit `i` of a register as a field. -/
def bitFld (off i : Nat) : Fld := ⟨off, i, i⟩

/-- A 64-bit quantity in a _LO and _HI pair (R7). -/
def get2 (d : Dev) (lo : Nat) : Nat := (getR d lo).toNat + 2 ^ 32 * (getR d (lo + 4)).toNat

/-- Replace a 64-bit quantity (R7). -/
def set2 (d : Dev) (lo : Nat) (v : Nat) : Dev :=
  setR (setR d lo (BitVec.ofNat 32 v)) (lo + 4) (BitVec.ofNat 32 (v / 2 ^ 32))

/-- A SH register's copy in force (R3), under the line list's overlay (R411). -/
def inForce (d : Dev) (off : Nat) : Word :=
  sget (fun k => sget regReset d.inForce k) d.llOver off

/-- A field of a SH register as it is in force. -/
def getSh (d : Dev) (f : Fld) : Nat := fieldOf (inForce d f.off) f

/-- Copy the shadow of one SH register into force. -/
def commitSh (d : Dev) (off : Nat) : Dev := { d with inForce := sset regReset d.inForce off (getR d off) }

/-- SYS_TIME in ticks (R365). -/
def sysTime (d : Dev) : Nat := get2 d TMR_SYSTIME_LO

/-- The next free value's index, and the device with the counter advanced. -/
def fresh (d : Dev) : Nat × Dev := (d.free, { d with free := d.free + 1 })

/-- Record what leaves the module. -/
def emit (o : Out) (d : Dev) : Dev := { d with out := o :: d.out }

/-- Apply a change to the module, HBM untouched. -/
def onDev (f : Dev → Dev) (s : State) : State := { s with dev := f s.dev }

/-- What an unlisted HBM byte reads as: HBM is initialised to 0 (R298 step 6). -/
def hbm0 (_ : Nat) : Byte := 0#8

/-- The canonical form of HBM. -/
def Mem.wf (m : Mem) : Bool := swf hbm0 m

/-- The HBM byte at an address. -/
def hbmByte (m : Mem) (a : Nat) : Byte := sget hbm0 m a

/-- Write one HBM byte. -/
def hbmSet (m : Mem) (a : Nat) (v : Byte) : Mem := sset hbm0 m a v

/-- Write consecutive HBM bytes. -/
def hbmPut (m : Mem) (a : Nat) (bs : List Byte) : Mem := sputs hbm0 m a bs

/-- Read consecutive HBM bytes. -/
def hbmBytes (m : Mem) (a n : Nat) : List Byte := sgets hbm0 m a n

/-- The bytes of a number, least significant first. -/
def bytesOf : Nat → Nat → List Byte
  | 0, _ => []
  | n + 1, v => BitVec.ofNat 8 v :: bytesOf n (v / 256)

/-- The number little-endian bytes spell. -/
def natOf : List Byte → Nat
  | [] => 0
  | b :: r => b.toNat + 256 * natOf r

/-- The 64-bit HBM word at a byte address. -/
def hbmWord (m : Mem) (a : Nat) : DWord := BitVec.ofNat 64 (natOf (hbmBytes m a 8))

/-- Write a 64-bit HBM word. -/
def hbmPutWord (m : Mem) (a : Nat) (v : DWord) : Mem := hbmPut m a (bytesOf 8 v.toNat)

/-- A guide core after reset (R316, R317): every register 0, ST with S and DZE set, predictor weakly not-taken. -/
def gcore0 (_ : Nat) : GCore where
  w := []
  usp := 0
  ssp := 0
  pc := 0
  st := 0x50#32
  cause := 0
  faddr := 0
  ls := []
  le := []
  lc := []
  resv := none
  waiting := false
  locked := false
  resetDue := false
  wake := false
  halted := false
  monitor := none
  nmi := none
  vector := 0
  sbuf := []
  loads := []
  pred := []
  ras := []
  ic := []
  dc := []
  group := none

/-- Guide core `n`. -/
def coreOf (d : Dev) (n : Nat) : GCore := sget gcore0 d.gc n

/-- The device with guide core `n` replaced. -/
def setCore (d : Dev) (n : Nat) (c : GCore) : Dev := { d with gc := sset gcore0 d.gc n c }

/-- A write of `n` bytes at a transfer address by an agent, a core by its number, clears the other cores' reservations in the
granules it touches (R331). -/
def unreserve (who : Option Nat) (a n : Nat) (d : Dev) : Dev :=
  if n == 0 then d
  else d.gc.foldl (fun d e =>
    match e.2.resv with
    | some r => if who != some e.1 && decide (a / 32 ≤ r / 32) && decide (r / 32 ≤ (a + n - 1) / 32) then
        setCore d e.1 { coreOf d e.1 with resv := none } else d
    | none => d) d

/-- HBM's size in bytes (R133). -/
def hbmSize : Nat := 96 * 2 ^ 30

/-- Groups of a list, `n` elements each. -/
def chunksAux {α : Type} (n : Nat) : Nat → List α → List (List α)
  | 0, _ => []
  | _ + 1, [] => []
  | k + 1, x :: r => (x :: r).take n :: chunksAux n k ((x :: r).drop n)

/-- Groups of `n` elements, the last one possibly shorter. -/
def chunksOf {α : Type} (n : Nat) (l : List α) : List (List α) := chunksAux n l.length l

/-- The key of a protected word. Spaces: 0 step memory (1024 (512t + e) + s), 1 LDS groups (16 (512t + e) + g), 2 Q,
3 D, 4 inbound slots (512t + n), 5 tile RAM (8192t + w), 6 HBM words (byte address / 8), 7 program SRAM
(65,536 c + w), 8 local SRAM words (32,768 c + w). The rules lay out no protected word for an inbound slot: one serves both banks, and
is written by a value placed in either and by the end of a traverse (DESIGN CHOICE, assumptions row 119). -/
def eccKey (space i : Nat) : Nat := space * 2 ^ 40 + i

/-- Clear the inverted check bits of the words whose keys satisfy `p`: they are written or corrected (R239). -/
def eccDrop (p : Nat → Bool) (d : Dev) : Dev :=
  if d.ecc.isEmpty && d.cn.injected.isEmpty then d
  else { d with ecc := d.ecc.filter fun e => !p e.1, cn := { d.cn with injected := d.cn.injected.filter fun k => !p k } }

/-- The words of HBM that a write of `n` bytes at `a` replaces whole have check bits of their own again (R239). -/
def eccWritten (a n : Nat) (d : Dev) : Dev :=
  eccDrop (fun k => decide (eccKey 6 0 ≤ k) && decide (k < eccKey 7 0) &&
    (let w := 8 * (k - eccKey 6 0); decide (a ≤ w) && decide (w + 8 ≤ a + n))) d

/-- A write of HBM bytes by an agent that is no guide core. -/
def putMem (a : Nat) (bs : List Byte) (s : State) : State :=
  { s with mem := hbmPut s.mem a bs, dev := eccWritten a bs.length (unreserve none a bs.length s.dev) }

/-- A write of a 64-bit HBM word by an agent that is no guide core. -/
def putWord (a : Nat) (v : DWord) (s : State) : State := putMem a (bytesOf 8 v.toNat) s

/-- HBM bytes cleared to 0. -/
def clearMem (a n : Nat) (s : State) : State := 
  { s with mem := sclear s.mem a n, dev := eccWritten a n (unreserve none a n s.dev) }

/-- Little-endian 32-bit words of a byte list. -/
def wordsOf (l : List Byte) : List Word := (chunksOf 4 l).map fun c => BitVec.ofNat 32 (natOf c)

/-- Little-endian 64-bit words of a byte list. -/
def dwordsOf (l : List Byte) : List DWord := (chunksOf 8 l).map fun c => BitVec.ofNat 64 (natOf c)

/-- A 16-bit field of a byte list. -/
def u16 (l : List Byte) (i : Nat) : Nat := natOf ((l.drop i).take 2)

/-- A 32-bit field of a byte list. -/
def u32 (l : List Byte) (i : Nat) : Nat := natOf ((l.drop i).take 4)

/-- A 64-bit field of a byte list. -/
def u64 (l : List Byte) (i : Nat) : Nat := natOf ((l.drop i).take 8)

/-- A byte of a byte list. -/
def u8 (l : List Byte) (i : Nat) : Nat := (l.getD i 0#8).toNat

/-- Fold a change of state over a list. -/
def each {α σ : Type} (l : List α) (f : α → σ → σ) (s : σ) : σ := l.foldl (fun s a => f a s) s

/-- Insert an endpoint in ascending order, once. -/
def insertOnce (n : Nat) : List Nat → List Nat
  | [] => [n]
  | m :: r => if n < m then n :: m :: r else if n == m then m :: r else m :: insertOnce n r

/-- A change under a condition. -/
def whenB {σ : Type} (b : Bool) (f : σ → σ) (s : σ) : σ := if b then f s else s

/-- Number of bits set in a byte of check bits. -/
def popcount (b : BitVec 8) : Nat := (List.range 8).foldl (fun n i => n + b2n (b.getLsbD i)) 0

end Sys2Proof.Machine
end

