-- ==== Sys2Proof/Machine/Wire.lean ====
section
/-! DEFINITION. How flits, ordered sets and codewords stand on the lanes of a rope (R98-R104, R111). -/

namespace Sys2Proof.Machine

/-- The virtual channel of a flit type (R103); none for a reserved type. -/
def vcOf (ty : Nat) : Option Nat :=
  if 0x10 ≤ ty ∧ ty ≤ 0x17 then some 0
  else if ty == 0x20 || ty == 0x21 then some 1
  else if ty == 0x28 || ty == 0x29 then some 2
  else if 0x30 ≤ ty ∧ ty ≤ 0x32 then some 3
  else none

/-- One bit of a reflected CRC of 32 bits (R101, R302). -/
def crcBit (poly c : BitVec 32) : BitVec 32 := if c.getLsbD 0 then (c >>> 1) ^^^ poly else c >>> 1

/-- The CRC register after a byte. -/
def crcByte (poly c : BitVec 32) (b : Byte) : BitVec 32 := (List.range 8).foldl (fun c _ => crcBit poly c) (c ^^^ b.setWidth 32)

/-- CRC-32C (Castagnoli) of bytes (R101). -/
def crc32c (bs : List Byte) : BitVec 32 :=
  ~~~(bs.foldl (crcByte 0x82F63B78#32) 0xFFFFFFFF#32)

/-- The header word of a data flit (R102); bits 31:25 are 0. -/
def headerWord (f : Flit) : Nat :=
  (vcOf f.ty).getD 0 + f.ty % 64 * 2 ^ 2 + f.seq % 4096 * 2 ^ 8 + f.hops % 16 * 2 ^ 20 + b2n f.rsv * 2 ^ 24

/-- The routing word (R104). -/
def routingWord (f : Flit) : Nat :=
  f.dest % 1024 + b2n f.dkind * 2 ^ 10 + b2n f.pcast * 2 ^ 11 + f.src % 1024 * 2 ^ 12 + f.sub % 1024 * 2 ^ 22

/-- Bytes 0-35 with their CRC, what injection inverts in the CRC's low byte inverted (R101, R239). -/
def sealed (bs : List Byte) (mask : Byte) : List Byte := bs ++ bytesOf 4 (crc32c bs ^^^ mask.setWidth 32).toNat

/-- The 40 bytes of a data flit (R101, R102, R104). -/
def flitBytes (f : Flit) (mask : Byte) : List Byte :=
  sealed (bytesOf 36 (headerWord f + routingWord f * 2 ^ 32 + f.body.toNat * 2 ^ 64)) mask

/-- The 40 bytes of a link-control flit: TYPE alone in the header, the payload from byte 4 on (R102, R111). -/
def controlBytes (ty : Nat) (payload : BitVec 184) : List Byte := sealed (bytesOf 36 (ty % 64 * 2 ^ 2 + payload.toNat * 2 ^ 32)) 0

/-- A flit's CRC holds (R101). -/
def crcHolds (bs : List Byte) : Bool := bs.length == 40 && (bs.drop 36 == bytesOf 4 (crc32c (bs.take 36)).toNat)

/-- The 32 units of 10 bits of a flit (R99). -/
def flitUnits (bs : List Byte) : List (BitVec 10) := (List.range 32).map fun i => BitVec.ofNat 10 (natOf bs / 2 ^ (10 * i))

/-- The lane that carries unit `j`: the (j mod L)-th active lane in ascending order (R99). -/
def laneOfUnit (active : BitVec 8) (j : Nat) : Nat :=
  let lanes := (List.range 8).filter fun i => active.getLsbD i
  lanes.getD (j % max 1 lanes.length) 0

/-- A PAM4 level from a bit pair, Gray-mapped (R98). -/
def pam4 (pair : Nat) : Nat := if pair == 2 then 3 else if pair == 3 then 2 else pair

/-- `n` PAM4 symbols of a number, bit pairs least significant first (R98). -/
def pamSymbols (n v : Nat) : List Nat := (List.range n).map fun i => pam4 (v / 4 ^ i % 4)

/-- One step of the scrambler x^58 + x^39 + 1: the bit sent, and the register after it (R98). -/
def scrambleBit (reg : BitVec 58) (b : Bool) : Bool × BitVec 58 :=
  let o := b ^^ reg.getLsbD 38 ^^ reg.getLsbD 57
  (o, (reg <<< 1) ||| BitVec.ofNat 58 (b2n o))

/-- Data bits scrambled (R98). -/
def scramble : BitVec 58 → List Bool → List Bool × BitVec 58
  | reg, [] => ([], reg)
  | reg, b :: r =>
    let x := scrambleBit reg b
    let y := scramble x.2 r
    (x.1 :: y.1, y.2)

/-- Scrambled bits as a receiver descrambles them: self-synchronous, from the bits received (R98). -/
def descramble : BitVec 58 → List Bool → List Bool
  | _, [] => []
  | reg, b :: r => (b ^^ reg.getLsbD 38 ^^ reg.getLsbD 57) :: descramble ((reg <<< 1) ||| BitVec.ofNat 58 (b2n b)) r

/-- Multiplication by α in GF(2^10) with x^10 + x^3 + 1 (R98). -/
def gfDouble (a : BitVec 10) : BitVec 10 := if a.getLsbD 9 then (a <<< 1) ^^^ 9#10 else a <<< 1

/-- The remainder registers of a codeword's data by (x - 1)(x - α) = x^2 + (1 + α) x + α, first symbol highest (R98): the two
check symbols, the higher first. -/
def rsCheck (data : List (BitVec 10)) : BitVec 10 × BitVec 10 :=
  data.foldl (fun r s =>
    let fb := s ^^^ r.1
    (r.2 ^^^ fb ^^^ gfDouble fb, gfDouble fb)) (0, 0)

/-- A codeword of RS(340,338) (R98). -/
def rsEncode (data : List (BitVec 10)) : List (BitVec 10) := let c := rsCheck data; data ++ [c.1, c.2]

/-- The value of a codeword's polynomial at 1 and at α. -/
def rsSyndrome (word : List (BitVec 10)) : BitVec 10 × BitVec 10 :=
  word.foldl (fun r s => (r.1 ^^^ s, gfDouble r.2 ^^^ s)) (0, 0)

/-- The degree of the one symbol in error: `v` is the error's value times α to the degree. -/
def rsDegree : Nat → Nat → BitVec 10 → BitVec 10 → Option Nat
  | 0, _, _, _ => none
  | n + 1, j, v, s1 => if v == s1 then some j else rsDegree n (j + 1) (gfDouble v) s1

/-- The symbols of a received codeword and whether one was corrected; none when it cannot be corrected (R98). -/
def rsDecode (word : List (BitVec 10)) : Option (List (BitVec 10) × Bool) :=
  let s := rsSyndrome word
  if s.1 == 0 && s.2 == 0 then some (word, false)
  else if s.1 == 0 then none
  else (rsDegree word.length 0 s.1 s.2).map fun j => (word.modify (word.length - 1 - j) (· ^^^ s.1), true)

/-- CRC-6 (x^6 + x + 1, initial value 0) of the 26 body bits, the highest first (R100). -/
def crc6 (body : BitVec 26) : BitVec 6 :=
  (List.range 26).foldl (fun c i =>
    let c' := c <<< 1
    if c.getLsbD 5 != body.getLsbD (25 - i) then c' ^^^ 3#6 else c') 0#6

/-- The markers of the two ordered sets (R100). -/
def orderedMarker (belay : Bool) : List Nat :=
  if belay then [3, 0, 3, 0, 3, 3, 0, 0, 3, 0, 0, 3, 3, 3, 0, 0] else [0, 3, 0, 3, 0, 0, 3, 3, 0, 3, 3, 0, 0, 0, 3, 3]

/-- An ordered set: the marker, then the 32-bit body with its CRC-6 twice, 48 PAM4 symbols (R100). -/
def orderedSymbols (belay : Bool) (body : BitVec 26) : List Nat :=
  let b := body.toNat + (crc6 body).toNat * 2 ^ 26
  orderedMarker belay ++ pamSymbols 16 b ++ pamSymbols 16 b

/-- The number PAM4 symbols spell. -/
def pamNat : List Nat → Nat
  | [] => 0
  | l :: r => pam4 l + 4 * pamNat r

/-- What a receiver takes from 48 symbols: an ordered set whose two copies match and whose CRC-6 holds (R100). -/
def orderedTaken (symbols : List Nat) : Option (Bool × BitVec 26) :=
  let m := symbols.take 16
  let a := (symbols.drop 16).take 16
  let b := (symbols.drop 32).take 16
  let v := pamNat a
  let body := BitVec.ofNat 26 v
  if a == b && a.length == 16 && v / 2 ^ 26 == (crc6 body).toNat then
    if m == orderedMarker true then some (true, body) else if m == orderedMarker false then some (false, body) else none
  else none

/-- The body of a HEARTBEAT (R100); bits 25:16 are 0. -/
def heartbeatBody (pos mode role : Nat) (stranded : Bool) : BitVec 26 :=
  BitVec.ofNat 26 (pos % 1024 + mode % 8 * 2 ^ 10 + role % 4 * 2 ^ 13 + b2n stranded * 2 ^ 15)

/-- The body of a BELAY (R100). -/
def belayBody (reason origin epoch : Nat) : BitVec 26 :=
  BitVec.ofNat 26 (reason % 256 + origin % 1024 * 2 ^ 8 + epoch % 256 * 2 ^ 18)

end Sys2Proof.Machine
end

