-- ==== Sys2Proof/Machine/Links.lean ====
section
/-! DEFINITION. Who and where this module is, routing, credits and sending (04_ropes_and_parties.md, R95-R120). -/

namespace Sys2Proof.Machine

/-- The position code of this device (R15). -/
def myPos (d : Dev) : Nat := (getR d SYS_POSITION).toNat % 1024

/-- The device's party. -/
def myParty (d : Dev) : Nat := myPos d / 16

/-- The device's member number. -/
def myMember (d : Dev) : Nat := myPos d % 16

/-- The role in force (R18): 0 worker, 1 manager, 2 deputy, 3 spare. -/
def role (d : Dev) : Nat := getF d SYS_ROLE_ROLE

/-- Whether this device is the manager. -/
def isMgr (d : Dev) : Bool := role d == 1

/-- The manager's position (SYS_TOPOLOGY.MGR_POS). -/
def mgrPos (d : Dev) : Nat := getF d SYS_TOPOLOGY_MGR_POS

/-- The operating mode (R23). -/
def mode (d : Dev) : Nat := getF d SYS_MODE_MODE

/-- Protected operation (SYS_MODE.PROTECTED). -/
def isProtected (d : Dev) : Bool := flag d SYS_MODE_PROTECTED

/-- Whether this device holds a partition. -/
def holds (d : Dev) : Bool := flag d SYS_PARTITION_VALID

/-- The partition this device holds. -/
def myPart (d : Dev) : Nat := getF d SYS_PARTITION_NUMBER

/-- TRV_COUNT: the device floor (R71). -/
def trvCount (d : Dev) : Nat := get2 d TRV_COUNT_LO

/-- Whether a position is marked LOST (R240). -/
def isLost (d : Dev) (pos : Nat) : Bool := getF d (bitFld (RES_LOST (pos / 32)) (pos % 32)) == 1

/-- The position that holds a partition, by the partition map (R13, R240). -/
def pmap (d : Dev) (part : Nat) : Option Nat :=
  if flag d (RES_PMAP_HELD part) then some (getF d (RES_PMAP_POSITION part)) else none

/-- The number of parties (SYS_EXTENT). -/
def parties (d : Dev) : Nat := getF d SYS_EXTENT_PARTIES

/-- The positions that hold a partition. -/
def holders (d : Dev) : List Nat := (List.range (16 * parties d)).filterMap fun p => pmap d p

/-- A rope nothing has happened to. -/
def rope0 (_ : Nat) : Rope where
  wired := false
  expPos := 0
  expRope := 0
  rate := 0
  txSeq := 0
  rxSeq := 0
  rxAny := false
  nakSent := false
  changed := false
  replay := []
  kept := []
  outq := []
  freedShared := 0
  freed0 := []
  freedv := []
  seenShared := 0
  seen0 := []
  seenv := []
  cr0 := []
  crv := []
  rxLanes := 0
  txLanes := 0
  hbPos := 0
  hbMode := 0
  hbRole := 0
  hbStranded := false
  retry := false
  lost := false
  units := 0

/-- Rope `k`. -/
def ropeOf (d : Dev) (k : Nat) : Rope := sget rope0 d.lk.ropes k

/-- Whether a module stands at a position, as far as this device can know it: itself, a position whose role the topology check
or a result named (R20, R299), or the far end of one of its wired ropes (R304; DEDUCED, assumptions row 20). -/
def isMember (d : Dev) (p : Nat) : Bool :=
  p == myPos d || (d.rs.topo.any fun e => e.1 == p) ||
    ((d.rs.topo.isEmpty || (mode d == 0 && !flag d SYS_READY_TOPO)) && (List.range 18).any fun k => (ropeOf d k).wired && (ropeOf d k).expPos == p)

/-- The live members of a party other than this device. -/
def liveMembers (d : Dev) (party : Nat) : List Nat :=
  (List.range 16).map (16 * party + ·) |>.filter fun p => isMember d p && !isLost d p && p != myPos d

/-- Every live position of the system other than this device. -/
def livePeers (d : Dev) : List Nat := (List.range (parties d)).flatMap (liveMembers d)

/-- The device with rope `k` replaced. -/
def setRope (d : Dev) (k : Nat) (r : Rope) : Dev := { d with lk := { d.lk with ropes := sset rope0 d.lk.ropes k r } }

/-- A rope that is up or degraded (LINK_RP_STAT.STATE 2 or 3). -/
def ropeUp (d : Dev) (k : Nat) : Bool := let s := getF d (LINK_RP_STAT_STATE k); s == 2 || s == 3

/-- The ropes that are up or degraded. -/
def upRopes (d : Dev) : List Nat := (List.range 18).filter (ropeUp d)

/-- The position of a party's spare that holds no partition, as far as this device knows it (R151): itself, the peer
whose heartbeats show role SPARE (R100), or the position that reported the role to the manager (R20). -/
def spareOf (d : Dev) (party : Nat) : Option Nat :=
  let free := fun p => !isLost d p && !(holders d).contains p
  if party == myParty d && role d == 3 && !holds d then some (myPos d)
  else
    match (List.range 15).find? fun k => let r := ropeOf d k
        party == myParty d && r.hbRole == 3 && r.hbPos / 16 == party && free r.hbPos with
    | some k => some (ropeOf d k).hbPos
    | none => (d.rs.topo.find? fun e => e.1 / 16 == party && e.2.1 == 3 && free e.1).map (·.1)

/-- A rope's new state, with its bit in LINK_ROPES. -/
def setRopeState (k st : Nat) (d : Dev) : Dev :=
  setFlag (setF d (LINK_RP_STAT_STATE k) st) (bitFld LINK_ROPES k) (st == 2 || st == 3)

/-- The rope R115 chooses toward a position. -/
def routeRope (d : Dev) (pos : Nat) : Nat :=
  let q := pos / 16
  if q == myParty d then (pos % 16 + 32 - myMember d - 1) % 16
  else if flag d (LINK_PROUTE_MINUS q) == decide (8 ≤ myMember d) then 15 + getF d (LINK_PROUTE_DIM q)
  else 7

/-- The rope a flit for a position takes: that of R115, or the detour's when that rope was lost and one is in force (R118, R124);
none while no usable rope exists. -/
def usableRope (d : Dev) (pos : Nat) : Option Nat :=
  let k := routeRope d pos
  let k' := if (ropeOf d k).lost && flag d (LINK_DETOUR_VALID k) then (getF d (LINK_DETOUR_VIA k) + 32 - myMember d - 1) % 16 else k
  if ropeUp d k' then some k' else none

/-- The receive credits of VC0: 4 for each class (R113). -/
def credit0 (_ : Nat) : Nat := 4

/-- The reserved buffers of VC1-VC3: one for each class (R113). -/
def credit1 (_ : Nat) : Nat := 1

/-- Counters of freed buffers begin at 0. -/
def zeroAt (_ : Nat) : Nat := 0

/-- Free the receive buffer of an accepted flit (R114). -/
def freeBuffer (k vc cls : Nat) (rsv : Bool) (d : Dev) : Dev :=
  let r := ropeOf d k
  let r := { r with changed := true }
  setRope d k <|
    if vc == 0 then { r with freed0 := sset zeroAt r.freed0 cls ((sget zeroAt r.freed0 cls + 1) % 8) }
    else if rsv then
      let i := 16 * (vc - 1) + cls
      { r with freedv := sset zeroAt r.freedv i ((sget zeroAt r.freedv i + 1) % 4) }
    else { r with freedShared := (r.freedShared + 1) % 65536 }

/-- How a flit would be charged at rope `k` (R113): some RSV when a credit exists, none when it must wait. -/
def charge (d : Dev) (k : Nat) (f : Flit) : Option Bool :=
  let r := ropeOf d k
  match vcOf f.ty with
  | none => none
  | some 0 => if 0 < sget credit0 r.cr0 f.hops then some true else none
  | some v =>
    if 0 < getF d (LINK_RP_FLOW_SHARED k) then some false
    else if 0 < sget credit1 r.crv (16 * (v - 1) + f.hops) then some true else none

/-- The active lanes the stream of a rope is dealt over (R99); a rope that trains has its receiver's lanes. -/
def activeLanes (d : Dev) (k : Nat) : BitVec 8 :=
  if getF d (LINK_RP_STAT_LANES k) == 0 then (ropeOf d k).rxLanes else BitVec.ofNat 8 (getF d (LINK_RP_STAT_LANES k))

/-- The lanes the next 32 units of a rope's stream leave on, and the stream that much further (R99). The units are numbered from
the last change of the active lanes (DESIGN CHOICE, assumptions row 86). -/
def takeUnits (k : Nat) (d : Dev) : List Nat × Dev :=
  let r := ropeOf d k
  let a := activeLanes d k
  ((List.range 32).map fun i => laneOfUnit a (r.units + i), setRope d k { r with units := (r.units + 32) % max 1 (popcount a) })

/-- A data flit leaves on rope `k`, with what injection inverts of its CRC (R99, R101, R239). -/
def putFlit (k : Nat) (f : Flit) (d : Dev) : Dev :=
  let m := sget (fun _ => 0#8) d.cn.crcMask k
  let (lanes, d) := takeUnits k d
  emit (.flit k f (flitBytes f m) lanes) { d with cn := { d.cn with crcMask := sset (fun _ => 0#8) d.cn.crcMask k 0#8 } }

/-- Send a flit on rope `k`: number it, keep it for replay, take its credit, free the buffer it held (R109-R114). -/
def transmit (k : Nat) (f : Flit) (rsv : Bool) (d : Dev) : Dev :=
  let r := ropeOf d k
  let vc := (vcOf f.ty).getD 0
  let f' := { f with seq := r.txSeq, rsv := rsv, held := none, sends := 1 }
  let r := { r with txSeq := (r.txSeq + 1) % 4096, replay := r.replay ++ [f'] }
  let r := if vc == 0 then { r with cr0 := sset credit0 r.cr0 f.hops (sget credit0 r.cr0 f.hops - 1) }
    else if rsv then
      let i := 16 * (vc - 1) + f.hops
      { r with crv := sset credit1 r.crv i (sget credit1 r.crv i - 1) }
    else r
  let d := setRope d k r
  let d := if vc != 0 && !rsv then setF d (LINK_RP_FLOW_SHARED k) (getF d (LINK_RP_FLOW_SHARED k) - 1) else d
  let d := setF d (LINK_RP_FLOW_UNACKED k) r.replay.length
  let d := match f.held with
    | some (k0, rsv0) => freeBuffer k0 vc (f.hops - 1) rsv0 d
    | none => d
  putFlit k f' d

/-- The first element that satisfies `p`, and the list without it. -/
def takeFirst {α : Type} (p : α → Bool) : List α → Option (α × List α)
  | [] => none
  | a :: r => if p a then some (a, r) else (takeFirst p r).map fun x => (x.1, a :: x.2)

/-- The next flit rope `k` may send: by virtual channel, oldest first, when a credit exists (R112). -/
def nextFlit (d : Dev) (k : Nat) : Option (Flit × List Flit × Bool) :=
  [0, 1, 2, 3].findSome? fun vc =>
    match takeFirst (fun f : Flit => vcOf f.ty == some vc) (ropeOf d k).outq with
    | none => none
    | some (f, rest) => (charge d k f).map fun rsv => (f, rest, rsv)

/-- Send what may be sent on rope `k`, at most `n` flits. -/
def pump (k : Nat) : Nat → Dev → Dev
  | 0, d => d
  | n + 1, d =>
    if ropeUp d k && decide ((ropeOf d k).replay.length < 1024) then
      match nextFlit d k with
      | none => d
      | some (f, rest, rsv) => pump k n (transmit k f rsv (setRope d k { ropeOf d k with outq := rest }))
    else d

/-- Send everything rope `k` can send now. -/
def pumpAll (k : Nat) (d : Dev) : Dev := pump k (ropeOf d k).outq.length d

/-- Queue a flit on a rope and send what can be sent. -/
def enqueue (k : Nat) (f : Flit) (d : Dev) : Dev :=
  let r := ropeOf d k
  pumpAll k (setRope d k { r with outq := r.outq ++ [f] })

/-- Whether a device must not send a flit: in SAFE on its own C4 it sends its announcement and the replies to commands
relayed for readout only (R29); stranded, PROBE and CENSUS_REPLY only (R28). -/
def silenced (d : Dev) (f : Flit) : Bool :=
  if d.md.silent then !(f.ty == 0x11 || f.ty == 0x31 || f.ty == 0x32 || (f.ty == 0x15 && f.sub == 2))
  else d.md.stranded && !(f.ty == 0x12 && (f.sub == 7 || f.sub == 15))

/-- A flit that is dropped before it was sent on: the receive buffer it held is free (R114). -/
def dropFlit (f : Flit) (d : Dev) : Dev :=
  match f.held with
  | some (k, rsv) => freeBuffer k ((vcOf f.ty).getD 0) (f.hops - 1) rsv d
  | none => d

/-- Queue a flit of this device on a given rope, unless it must be silent (R28, R29). -/
def sendOn (k : Nat) (f : Flit) (d : Dev) : Dev := if silenced d f then d else enqueue k f d

/-- Put a flit on its way to a position; it waits while no usable rope exists (R115, R118). One for a position marked LOST
that no rope leads to is dropped, as the recovery restores what it held (R460; DEDUCED, assumptions row 38). -/
def route (pos : Nat) (f : Flit) (d : Dev) : Dev :=
  match usableRope d pos with
  | some k => enqueue k f d
  | none => if isLost d pos then dropFlit f d else { d with lk := { d.lk with waitq := d.lk.waitq ++ [f] } }

/-- Send a flit toward a position (R115, R118). A flit to this device itself does not leave it: its effect is taken where
the message is formed. -/
def sendFlit (pos : Nat) (f : Flit) (d : Dev) : Dev :=
  if pos == myPos d || (f.held.isNone && silenced d f) then d else route pos f d

/-- A field of a flit body: `v` from byte `b` of the flit on (bytes 8-35). -/
def at8 (b v : Nat) : Nat := v * 2 ^ (8 * (b - 8))

/-- A data flit of this device (R104). -/
def mkFlit (d : Dev) (ty sub dest : Nat) (dkind : Bool) (body : Nat) : Flit where
  ty := ty
  seq := 0
  hops := 0
  rsv := false
  dest := dest
  dkind := dkind
  pcast := false
  src := myPos d
  sub := sub
  body := BitVec.ofNat 224 body
  held := none
  sends := 0

/-- Send a position-addressed flit. -/
def sendPos (ty sub pos body : Nat) (d : Dev) : Dev := sendFlit pos (mkFlit d ty sub pos true body) d

/-- The repeater of a party: its lowest-numbered member not marked LOST (R119). -/
def repeater (d : Dev) (party : Nat) : Option Nat := (liveMembers d party).head?

/-- Broadcast a flit (R119). -/
def broadcast (ty sub body : Nat) (d : Dev) : Dev :=
  let d' := each (liveMembers d (myParty d)) (fun p d => sendPos ty sub p body d) d
  each ((List.range (parties d)).filter (· != myParty d)) (fun q d =>
    match repeater d q with
    | some p => sendFlit p { mkFlit d ty sub p true body with pcast := true } d
    | none => d) d'

/-- Send a message to the manager. At the manager itself nothing leaves the device. -/
def sendMgr (ty sub body : Nat) (d : Dev) : Dev := sendPos ty sub (mgrPos d) body d

/-- SYSCTL payload (R243): EPOCH, ARG, VALUE and the extra fields as they stand from byte 20 on. -/
def sysctl (d : Dev) (arg value extra : Nat) : Nat :=
  at8 8 (getF d RES_STATUS_EPOCH) + at8 10 (arg % 1024) + at8 12 (value % 2 ^ 64) + at8 20 extra

/-- CKPCTL payload (R165). -/
def ckpctl (seq value status : Nat) : Nat := at8 8 (seq % 2 ^ 32) + at8 12 (value % 2 ^ 64) + at8 20 status

/-- A link-control flit leaves on rope `k` (R99, R101, R111). -/
def sendControl (k ty p : Nat) (d : Dev) : Dev :=
  let (lanes, d) := takeUnits k d
  emit (.control k ty (BitVec.ofNat 184 p) (controlBytes ty (BitVec.ofNat 184 p)) lanes) d

/-- Send LC_STATUS on a rope (R111). -/
def sendStatus (k : Nat) (d : Dev) : Dev :=
  let r := ropeOf d k
  let v0 := (List.range 16).foldl (fun n c => n + sget zeroAt r.freed0 c * 2 ^ (32 + 3 * c)) 0
  let v := (List.range 48).foldl (fun n i => n + sget zeroAt r.freedv i * 2 ^ (80 + 2 * i)) 0
  let p := (r.rxSeq + 4095) % 4096 + b2n r.rxAny * 2 ^ 12 + r.freedShared * 2 ^ 16 + v0 + v + r.rxLanes.toNat * 2 ^ 176
  sendControl k 1 p (setRope d k { r with changed := false })

/-- Send LC_NAK on a rope, once per gap (R109). -/
def sendNak (k : Nat) (d : Dev) : Dev :=
  let r := ropeOf d k
  if r.nakSent then d
  else
    let d := countF (setRope d k { r with nakSent := true }) (LINK_RP_RETRY_NAKS k) 1
    sendControl k 2 (r.rxSeq + r.rxLanes.toNat * 2 ^ 12) d

/-- Send LC_TRAIN on a rope (R111). -/
def sendTrain (k : Nat) (ready : Bool) (d : Dev) : Dev :=
  let p := myPos d + k * 2 ^ 10 + getF d (LINK_RP_STAT_RATE k) * 2 ^ 15 + (ropeOf d k).rxLanes.toNat * 2 ^ 16 +
    b2n ready * 2 ^ 24
  sendControl k 3 p d

/-- The peer of a rope of member position `m` (R95, R96). -/
def peerOf (d : Dev) (m k : Nat) : Nat :=
  if k < 15 then m / 16 * 16 + (m + k + 1) % 16
  else
    let p := m / 16
    let sh := 4 ^ (k - 15)
    let c := p / sh % 4
    let c' := if m % 16 < 8 then (c + 1) % 4 else (c + 3) % 4
    let q := p - c * sh + c' * sh
    if q < parties d then q * 16 + (m % 16 + 8) % 16 else m

/-- The neighbour of a party in a torus direction. -/
def nextParty (p dim : Nat) (minus : Bool) : Nat :=
  let sh := 4 ^ dim
  let c := p / sh % 4
  p - c * sh + (if minus then (c + 3) % 4 else (c + 1) % 4) * sh

/-- Whether a party-to-party link may be used: both parties present, the link not without a detour. -/
def linkOk (d : Dev) (p dim : Nat) (minus : Bool) : Bool :=
  let q := nextParty p dim minus
  decide (q < parties d) && decide (p < parties d) && q != p &&
    !(d.rs.deadLinks.contains (p, dim, minus)) && !(d.rs.deadLinks.contains (q, dim, !minus))

/-- The six moves in the order of R116. -/
def moves : List (Nat × Bool) := [(0, false), (0, true), (1, false), (1, true), (2, false), (2, true)]

/-- Distances of every party to party `q` after `n` rounds; 64 means not reached. -/
def distances (d : Dev) (q : Nat) : Nat → List Nat
  | 0 => (List.range 64).map fun p => if p == q then 0 else 64
  | n + 1 =>
    let l := distances d q n
    (List.range 64).map fun p => moves.foldl (fun m v =>
      if linkOk d p v.1 v.2 then min m (l.getD (nextParty p v.1 v.2) 64 + 1) else m) (l.getD p 64)

/-- The first move of a shortest path over usable links (R116, R248); DIM 3 where there is none. -/
def shortestMove (d : Dev) (p q : Nat) : Nat × Bool :=
  let l := distances d q 12
  match moves.find? fun v => linkOk d p v.1 v.2 && decide (l.getD (nextParty p v.1 v.2) 64 + 1 = l.getD p 64) &&
      decide (l.getD p 64 < 64) with
  | some v => v
  | none => (3, false)

/-- The dimension-order move from party `p` toward `q` (R116); ties as `tieMinus` says. -/
def dimMove (p q : Nat) (tieMinus : Bool) : Option (Nat × Bool) :=
  [0, 1, 2].findSome? fun i =>
    let δ := (q / 4 ^ i + 4 - p / 4 ^ i % 4) % 4
    if δ == 0 then none else some (i, δ == 3 || (δ == 2 && tieMinus))

/-- Whether the whole dimension-order path is over usable links. -/
def pathOk (d : Dev) (q : Nat) : Nat → Nat → Bool → Bool
  | 0, _, _ => false
  | n + 1, p, tie =>
    match dimMove p q tie with
    | none => true
    | some (i, minus) => linkOk d p i minus && pathOk d q n (nextParty p i minus) false

/-- The LINK_PROUTE entry of a member of party `p` toward party `q` (R116). -/
def prouteEntry (d : Dev) (p member q : Nat) : Nat × Bool :=
  if p == q then (3, false)
  else if pathOk d q 7 p (decide (8 ≤ member)) then (dimMove p q (decide (8 ≤ member))).getD (3, false)
  else shortestMove d p q

/-- The half of its own party the time root stands in: the direction of the party's LINK_PROUTE entry toward the manager's party
(R132). At distance 2 the entries of members below and above 8 differ (R116); the entry of a member below 8 is the party's, so
that both halves name one root (DESIGN CHOICE, assumptions row 85). -/
def rootMinus (d : Dev) : Bool :=
  let mp := mgrPos d / 16
  let own := (getF d (LINK_PROUTE_DIM mp), flag d (LINK_PROUTE_MINUS mp))
  if own == prouteEntry d (myParty d) (myMember d) mp then (prouteEntry d (myParty d) 0 mp).2 else own.2

/-- The parent of time synchronisation and the rope toward it (R132): the manager has none; in the manager's party it is the
manager; elsewhere the time root takes the far end of its torus rope and the others take the time root. -/
def timeParent (d : Dev) : Option (Nat × Nat) :=
  let mp := mgrPos d / 16
  if isMgr d then none
  else if myParty d == mp then some (mgrPos d, routeRope d (mgrPos d))
  else
    let dim := getF d (LINK_PROUTE_DIM mp)
    let minus := rootMinus d
    let live := (List.range 16).filter fun m =>
      isMember d (16 * myParty d + m) && !isLost d (16 * myParty d + m) && decide (8 ≤ m) == minus
    match live with
    | m :: _ =>
      let root := 16 * myParty d + m
      if root == myPos d then some (peerOf d (myPos d) (15 + dim), 15 + dim) else some (root, routeRope d root)
    | [] => none

/-- Name the parent in LINK_TSYNC; the manager is the root and has TSYNC (R132). -/
def syncParent (d : Dev) : Dev :=
  match timeParent d with
  | some (p, _) => setFlag (setF d LINK_TSYNC_PARENT p) LINK_TSYNC_ROOT false
  | none => if isMgr d then setFlag (setFlag d LINK_TSYNC_ROOT true) SYS_READY_TSYNC true else d

end Sys2Proof.Machine
end

