-- ==== Sys2Proof/Machine/Events.lean ====
section
/-! DEFINITION. Completion and event records, MSI-X messages and interrupt events (R278-R282, R290, R291, R353). -/

namespace Sys2Proof.Machine

/-- What an MSI-X table word reads as while nothing has written it: every vector masked (the PCI Express reset). -/
def msix0 (o : Nat) : Word := if o % 16 == 12 then 1#32 else 0#32

/-- A port nothing has happened to. -/
def port0 (_ : Nat) : Port where
  mb := []
  fifo := []
  waiting := []
  phase := true
  inq := []
  active := []
  msix := []
  pba := []

/-- Partner port `n`. -/
def portOf (d : Dev) (n : Nat) : Port := sget port0 d.hs.ports n

/-- The device with port `n` replaced. -/
def setPort (d : Dev) (n : Nat) (p : Port) : Dev := { d with hs := { d.hs with ports := sset port0 d.hs.ports n p } }

/-- Send an MSI-X message, or mark it pending while its vector is masked (R290). -/
def sendMsix (n vec : Nat) (d : Dev) : Dev :=
  let p := portOf d n
  if bitOf (sget msix0 p.msix (16 * vec + 12)).toNat 0 then
    setPort d n { p with pba := if p.pba.contains vec then p.pba else p.pba ++ [vec] }
  else emit (.msix n vec) d

/-- The size of a ring in entries; 0 when the ring is disabled (SIZE_LOG2 4-12, other values act as 0). -/
def ringSize (log : Nat) : Nat := if 4 ≤ log ∧ log ≤ 12 then 2 ^ log else 0

/-- Whether the port's completion ring or FIFO has no room (R282). -/
def recordsFull (d : Dev) (n : Nat) : Bool :=
  let sz := ringSize (getF d (HOST_PP_CQ_CFG_SIZE_LOG2 n))
  if sz == 0 then decide (64 ≤ (portOf d n).fifo.length)
  else (getF d (HOST_PP_CQ_TAIL_INDEX n) + 1) % sz == getF d (HOST_PP_CQ_HEAD_INDEX n)

/-- Write one record where there is room, and its message (R282, R290). -/
def writeRecord (n : Nat) (event noirq : Bool) (r : List Word) (d : Dev) : Dev :=
  let sz := ringSize (getF d (HOST_PP_CQ_CFG_SIZE_LOG2 n))
  let p := portOf d n
  let d := if sz == 0 then setPort d n { p with fifo := p.fifo ++ [r] }
    else
      let t := getF d (HOST_PP_CQ_TAIL_INDEX n)
      let r' := match r with
        | w0 :: rest => (if p.phase then w0 ||| 0x80000000#32 else w0) :: rest
        | [] => []
      let d := emit (.hostWrite n (get2 d (HOST_PP_CQ_BASE_LO n) + 32 * t) (r'.flatMap fun w => bytesOf 4 w.toNat)) d
      let d := setF d (HOST_PP_CQ_TAIL_INDEX n) ((t + 1) % sz)
      if t + 1 == sz then setPort d n { p with phase := !p.phase } else d
  if event then sendMsix n 1 d else if noirq then d else sendMsix n 0 d

/-- Write waiting records while there is room, at most `k` of them. -/
def drainRecords (n : Nat) : Nat → Dev → Dev
  | 0, d => d
  | k + 1, d =>
    match (portOf d n).waiting with
    | [] => d
    | (ev, noirq, r) :: rest =>
      if recordsFull d n then d
      else drainRecords n k (writeRecord n ev noirq r (setPort d n { portOf d n with waiting := rest }))

/-- Write waiting records while there is room. -/
def drainAll (n : Nat) (d : Dev) : Dev := drainRecords n (portOf d n).waiting.length d

/-- Drop the oldest waiting event once more than 64 wait (R282). -/
def limitEvents (n : Nat) (d : Dev) : Dev :=
  let p := portOf d n
  if 64 < (p.waiting.filter (·.1)).length then
    match takeFirst (fun w : Bool × Bool × List Word => w.1) p.waiting with
    | some (_, rest) => countF (setPort d n { p with waiting := rest }) (HOST_PP_DROP_EVENTS n) 1
    | none => d
  else d

/-- Deliver a final or event record: it waits when there is no room (R282). -/
def putRecord (n : Nat) (event noirq : Bool) (r : List Word) (d : Dev) : Dev :=
  let p := portOf d n
  limitEvents n (drainAll n (setPort d n { p with waiting := p.waiting ++ [(event, noirq, r)] }))

/-- Deliver a progress record: it is dropped and counted when there is no room (R282). -/
def putProgress (n : Nat) (noirq : Bool) (r : List Word) (d : Dev) : Dev :=
  if recordsFull d n || !(portOf d n).waiting.isEmpty then countF d (HOST_PP_DROP_PROGRESS n) 1
  else writeRecord n false noirq r d

/-- A record of this device (R278): TAG, STATUS, FINAL, EVENT, code, DONE, RESULT W4-W7. -/
def mkRecord (d : Dev) (tag status : Nat) (final event : Bool) (code done : Nat) (result : List Nat) : List Word :=
  let w0 := tag % 65536 + status * 2 ^ 16 + b2n final * 2 ^ 24 + b2n event * 2 ^ 25
  let w1 := code + myPos d * 2 ^ 8 + mode d * 2 ^ 18 + getF d SYS_MODE_STRANDED * 2 ^ 21
  ([w0, w1, done, done / 2 ^ 32] ++ (List.range 4).map fun i => result.getD i 0).map (BitVec.ofNat 32)

/-- The two words of a 64-bit result. -/
def lohi (v : Nat) : List Nat := [v % 2 ^ 32, v / 2 ^ 32 % 2 ^ 32]

/-- Write an event record to every port whose EVMASK bit is 1 (R291). -/
def hostEvent (code : Nat) (result : List Nat) (d : Dev) : Dev :=
  each (List.range 4) (fun n d =>
    if bitOf (getF d (HOST_PP_CTRL_EVMASK n)) code then
      putRecord n true false (mkRecord d 0xFFFF 0 true true code 0 result) d
    else d) d

/-- Set an event interrupt source pending (R353). -/
def irqEvent (s : Nat) (d : Dev) : Dev :=
  { d with icu := { d.icu with pend := sset (fun _ => false) d.icu.pend s true } }

end Sys2Proof.Machine
end

