-- ==== Sys2Proof/Machine/Pins.lean ====
section
/-! DEFINITION. What the general-purpose pins carry, drive and keep (R368-R378). -/

namespace Sys2Proof.Machine

/-- Whether the bank supply of a pin is good (R297, R371); without VAUX every contact is high-impedance (R296). -/
def bankGood (d : Dev) (n : Nat) : Bool := d.pw.vauxGood && if n < 32 then d.pw.vioA else d.pw.vioB

/-- The bit `i` of a 64-bit set of pulses. -/
def pulseOn (v : BitVec 64) (i : Nat) : Bool := v.getLsbD i

/-- Signal `i` of the STATUS function (R368). -/
def statusSignal (d : Dev) (i : Nat) : Bool :=
  if i == 0 then mode d == 3 else if i == 1 then mode d == 4 else if i == 2 then mode d == 7
  else if i == 3 then mode d == 6 else if i == 4 then flag d TRV_STATUS_HOSTWAIT_SYS else d.pins.status.getLsbD i

/-- Value and enable of the function pin `n` selects (R368). The serial waveforms of TDM are not levels of a step: a TDM
output reads as driven low between frames. -/
def pinFunction (d : Dev) (n : Nat) : Bool × Bool :=
  let f := getF d (GPIO_PIN_FUNC n)
  if f == 0 then (flag d (GPIO_PIN_OUT n), flag d (GPIO_PIN_OE n))
  else if f == 1 then (bitOf (getF d (TMR_OUT_LEVEL (n / 4))) (n % 4), true)
  else if f == 2 || f == 3 then
    (false, n % 4 == 2 || (decide (n % 4 < 2) && flag d (AUD_P_CFG_MASTER (f - 2)) && flag d (AUD_P_CFG_EN (f - 2))))
  else if f == 4 then (pulseOn d.pins.trig n, true)
  else if f == 5 then (pulseOn d.pins.systrig n, true)
  else if f == 6 then (statusSignal d (n % 8), true)
  else (false, false)

/-- What the pad of pin `n` would drive by its registers, MERGE included (R370). -/
def padByRegs (d : Dev) (n : Nat) : Pad :=
  let v := pinFunction d n
  let m := flag d (GPIO_PIN_MERGE n) && getF d (GPIO_PIN_FUNC n) != 0
  { value := v.1 || (m && flag d (GPIO_PIN_OUT n))
    enable := v.2 || (m && flag d (GPIO_PIN_OE n))
    pull := getF d (GPIO_PIN_PULL n) }

/-- What the pad of pin `n` drives: nothing before the configuration is applied (R377) or while its supply is absent
(R297), what it is held at while a hold stands (R374-R376), else what its registers say. -/
def padNow (d : Dev) (n : Nat) : Pad :=
  if !bankGood d n || !flag d SYS_READY_CFG then ⟨false, false, 0⟩
  else match sget (fun _ => none) d.pins.hold n with
    | some p => p
    | none => padByRegs d n

/-- What stands at the contact of pin `n`: while EXTEST or CLAMP is selected the pad follows the boundary register, with HIGHZ
nothing drives it, and else the pad is the device's own (R436). -/
def padOut (d : Dev) (n : Nat) : Pad :=
  let p := padNow d n
  if !bankGood d n then p
  else if d.dbg.ir == 0 || d.dbg.ir == 3 then
    { p with value := d.dbg.boundary.getLsbD (3 * n + 1), enable := d.dbg.boundary.getLsbD (3 * n + 2) }
  else if d.dbg.ir == 4 then { p with value := false, enable := false }
  else p

/-- The level on pin `n`: 0 without its supply, what the pad drives, else the outside level (R371). -/
def pinLevel (d : Dev) (n : Nat) : Bool :=
  if !bankGood d n then false
  else if (padOut d n).enable then (padOut d n).value
  else sget (fun _ => false) d.pins.ext n

/-- The debounced input of pin `n` (R371). -/
def pinInput (d : Dev) (n : Nat) : Bool := bankGood d n && sget (fun _ => false) d.pins.ext n

/-- Hold one pad at a given state, keeping a hold that already stands. -/
def holdPad (n : Nat) (p : Pad) (d : Dev) : Dev :=
  match sget (fun _ => none) d.pins.hold n with
  | some _ => d
  | none =>
    setFlag { d with pins := { d.pins with hold := sset (fun _ => none) d.pins.hold n (some p) } } (GPIO_PIN_HELD n) true

/-- Replace what a pad is held at. -/
def forcePad (n : Nat) (p : Pad) (d : Dev) : Dev :=
  setFlag { d with pins := { d.pins with hold := sset (fun _ => none) d.pins.hold n (some p) } } (GPIO_PIN_HELD n) true

/-- Whether some cause still holds pin `n`: HOLD, the mode hold that took it, or the C4 hold. -/
def heldBy (d : Dev) (n : Nat) : Bool :=
  flag d (GPIO_PIN_HOLD n) || d.pins.modeHeld.getLsbD n || d.pins.c4Held

/-- Release a pad once no cause holds it: it takes its register settings in one update (R374, R375, R376). -/
def releasePad (n : Nat) (d : Dev) : Dev :=
  if heldBy d n then d
  else setFlag { d with pins := { d.pins with hold := sset (fun _ => none) d.pins.hold n none } } (GPIO_PIN_HELD n) false

/-- The mode hold on entry to STANDBY (R375). -/
def modeHold (d : Dev) : Dev :=
  let ns := (List.range 64).filter fun n => flag d (GPIO_PIN_MHOLD n)
  let d := { d with pins := { d.pins with modeHeld := BitVec.ofNat 64 ((ns.map (2 ^ ·)).foldl (· + ·) 0) } }
  each ns (fun n d => holdPad n (padNow d n) d) d

/-- Release of the mode hold and of the C4 hold at a transition to FREEZE (R375, R376). -/
def freezeRelease (d : Dev) : Dev :=
  let d := { d with pins := { d.pins with modeHeld := 0#64, c4Held := false } }
  each (List.range 64) releasePad d

/-- The pull a pin has while its supply stands: the held one or the register's. -/
def pullOf (d : Dev) (n : Nat) : Nat := match sget (fun _ => none) d.pins.hold n with
  | some p => p.pull
  | none => getF d (GPIO_PIN_PULL n)

/-- The pad a pin's SAFE state asks for, from the pad it has (R376): a pin without its supply takes it when the supply arrives. -/
def safePad (d : Dev) (n : Nat) : Pad :=
  let p := { padNow d n with pull := pullOf d n }
  let s := getF d (GPIO_PIN_SAFE n)
  if s == 0 then { p with value := false, enable := false }
  else if s == 1 then { p with value := false, enable := true }
  else if s == 2 then { p with value := true, enable := true }
  else p

/-- Every pin takes its SAFE state and is held (R376). Without an applied configuration no safe level is known
(R301). -/
def c4Pins (d : Dev) : Dev :=
  if !flag d SYS_READY_CFG then d
  else
    let pads := (List.range 64).map fun n => (n, safePad d n)
    let d := { d with pins := { d.pins with c4Held := true } }
    each pads (fun e d => forcePad e.1 e.2 d) d

/-- Start the 100-tick pulse of a trigger unit (R368). -/
def pulseTrigger (n : Nat) (d : Dev) : Dev :=
  { d with pins := { d.pins with trig := d.pins.trig ||| BitVec.ofNat 64 (2 ^ n) } }

/-- Start the 100-tick pulse of a system trigger line (R368). -/
def pulseLine (n : Nat) (d : Dev) : Dev :=
  { d with pins := { d.pins with systrig := d.pins.systrig ||| BitVec.ofNat 64 (2 ^ n) } }

/-- Start the 100-tick pulse of a STATUS signal: 5 commit, 6 second, 7 frame (R368). -/
def pulseStatus (n : Nat) (d : Dev) : Dev :=
  { d with pins := { d.pins with status := d.pins.status ||| BitVec.ofNat 8 (2 ^ n) } }

end Sys2Proof.Machine
end

