-- ==== Sys2Proof/Machine/Fabric.lean ====
section
/-! DEFINITION. Tiles, counts, holds and stop counts (R68-R87), and what one device reports of them. -/

namespace Sys2Proof.Machine

/-- A tile at the start: count 0, between traverses. -/
def tile0 (_ : Nat) : Tile where
  count := 0
  inTrav := false
  step := 0
  wait := 0
  detail := 0
  sendIdx := 0
  lastPop := 0
  popValid := false
  qEmpty := false
  sense := 0

/-- An endpoint with nothing pushed or popped. -/
def endpoint0 (_ : Nat) : Endpoint where
  staging := 0
  acked := 0
  popped := 0
  closed := 0
  dropped := 0
  trunc := false
  words := []

/-- Tile `t`. -/
def tileOf (d : Dev) (t : Nat) : Tile := sget tile0 d.fab.tiles t

/-- The device with tile `t` replaced. -/
def setTile (d : Dev) (t : Nat) (x : Tile) : Dev := { d with fab := { d.fab with tiles := sset tile0 d.fab.tiles t x } }

/-- Endpoint 32t + e. -/
def epOf (d : Dev) (i : Nat) : Endpoint := sget endpoint0 d.fab.ep i

/-- The device with an endpoint replaced. -/
def setEp (d : Dev) (i : Nat) (x : Endpoint) : Dev := { d with fab := { d.fab with ep := sset endpoint0 d.fab.ep i x } }

/-- The smallest of a list, `z` for an empty one. -/
def minList (z : Nat) : List Nat → Nat
  | [] => z
  | a :: r => r.foldl min a

/-- Whether count `a` is at or before count `b`: counts wrap from 2^64 - 1 to 0 (R84), so they are compared over half their range. -/
def upTo (a b : Nat) : Bool := decide ((b + 2 ^ 64 - a % 2 ^ 64) % 2 ^ 64 < 2 ^ 63)

/-- The count after `a`. -/
def nextCount (a : Nat) : Nat := (a + 1) % 2 ^ 64

/-- The earlier of two counts. -/
def earlier (a b : Nat) : Nat := if upTo a b then a else b

/-- The later of two counts. -/
def later (a b : Nat) : Nat := if upTo a b then b else a

/-- The device floor: the smallest count among the 256 tiles (R71). -/
def floorOf (d : Dev) : Nat := (List.range 256).foldl (fun m t => earlier m (tileOf d t).count) (tileOf d 0).count

/-- The highest traverse tile `t` has begun: the one before its count, and its count once it is in it. -/
def begunBy (d : Dev) (t : Nat) : Nat := if (tileOf d t).inTrav then (tileOf d t).count else ((tileOf d t).count + 2 ^ 64 - 1) % 2 ^ 64

/-- H_D: the highest traverse any tile has begun (R79). -/
def highBegun (d : Dev) : Nat := (List.range 256).foldl (fun m t => later m (begunBy d t)) (begunBy d 0)

/-- The positions that hold a partition and are not marked LOST. -/
def liveHolders (d : Dev) : List Nat := (holders d).filter fun p => !isLost d p

/-- The other devices of the system that reported themselves to this one and are not marked LOST. -/
def systemDevs (d : Dev) : List Nat := ((d.rs.topo.map (·.1)).filter fun p => !isLost d p && p != myPos d)

/-- The devices whose HIGH and ARRIVED reports a freeze awaits (R79 steps 2 and 5): every one that lives. -/
def awaited (d : Dev) : List Nat := liveHolders d ++ systemDevs d

/-- The traverse length N (R85). -/
def travN (d : Dev) : Nat := getF d TRV_LENGTH_N

/-- The stop count in force, if any (R78). -/
def stopCount (d : Dev) : Option Nat := if flag d TRV_STATUS_STOP_VALID then some (get2 d TRV_STOP_LO) else none

/-- Put a stop count in force; the smaller of two is kept (R78). -/
def putStop (s : Nat) (d : Dev) : Dev :=
  let s' := match stopCount d with
    | some s0 => earlier s0 s
    | none => s
  set2 (setFlag d TRV_STATUS_STOP_VALID true) TRV_STOP_LO s'

/-- Remove the stop count. -/
def clearStop (d : Dev) : Dev := setFlag d TRV_STATUS_STOP_VALID false

/-- Whether the Faces' handshakes are granted: no C4 action and no debug halt withholds them (R238, R442), and the
modes in which tiles execute (R23). -/
def fabricRuns (d : Dev) : Bool :=
  !d.md.c4Hold && !flag d DBG_HALT_HALTED && (mode d == 3 || mode d == 5 || mode d == 6)

/-- H_D as a freeze reports it: no less than the traverse after that of the trigger unit that asked for it, so that S exceeds that too
(R213; DEDUCED, assumptions row 115). -/
def highReport (d : Dev) : Nat :=
  match d.tv.trigT with
  | some x => later (highBegun d) x
  | none => highBegun d

/-- Report H_D to the manager (R79 step 2); the manager notes its own. -/
def reportHigh (d : Dev) : Dev :=
  let h := highReport d
  let d := { d with tv := { d.tv with trigT := none } }
  if isMgr d then { d with tv := { d.tv with highs := (myPos d, h) :: d.tv.highs.filter (·.1 != myPos d) } }
  else sendMgr 0x13 1 (at8 8 h) d

/-- Hold every tile at its next step boundary (R79 step 1) and report. -/
def holdFabric (d : Dev) : Dev := reportHigh (setFlag d TRV_STATUS_HOLD true)

/-- Release a hold. -/
def releaseHold (d : Dev) : Dev := setFlag d TRV_STATUS_HOLD false

/-- Whether every position that holds a partition stands in a list of reports. -/
def allHolders (d : Dev) (l : List Nat) : Bool := (holders d).all l.contains

/-- The latest of the counts reported, `z` before all of them. -/
def latestOf (z : Nat) : List Nat → Nat
  | [] => z
  | a :: r => r.foldl later a

/-- The manager's stop count once every report is in: S = max(H_D) + 1 over the devices that hold a partition, sent to all and put in
force (R79 steps 3, 4); in REPLAY the same procedure ends the window (R220). -/
def stopIfReported (d : Dev) : Dev :=
  let stopping := match d.md.trans with
    | some t => t.goal == 4 && !t.strand
    | none => mode d == 5 && d.vs.rplFreeze
  if isMgr d && stopping && flag d TRV_STATUS_HOLD && (awaited d).all (d.tv.highs.map (·.1)).contains then
    let hs := (d.tv.highs.filter fun h => (liveHolders d).contains h.1).map (·.2)
    let s := nextCount (latestOf (highBegun d) hs)
    let d := { d with tv := { d.tv with highs := [] }, vs := { d.vs with rplFreeze := false } }
    releaseHold (putStop s (broadcast 0x13 2 (at8 8 s) d))
  else d

/-- Every tile stands at the stop count, none in a traverse (R77). -/
def atStop (d : Dev) : Bool :=
  match stopCount d with
  | some s => (List.range 256).all fun t => (tileOf d t).count == s && !(tileOf d t).inTrav
  | none => false

/-- A value put into one bit of a register set. -/
def setBit (off i : Nat) (b : Bool) (d : Dev) : Dev := setFlag d (bitFld (off + 4 * (i / 32)) (i % 32)) b

/-- Begin a mode transition (R27): SYS_MODE.TRANSIT reads 1 until it ends. -/
def beginTrans (goal : Nat) (strand ready : Bool) (d : Dev) : Dev :=
  setFlag { d with md := { d.md with trans := some ⟨goal, strand, ready⟩ } } SYS_MODE_TRANSIT true

/-- Whether the Faces are powered in the present mode (R23): in STANDBY once an image has been held, in SAFE as in the mode before
it. -/
def facesPowered (d : Dev) : Bool :=
  let m := if mode d == 7 then getF d SYS_MODE_PREV else mode d
  decide (2 ≤ m ∧ m ≤ 6) || (m == 1 && d.pw.held)

/-- The fabric supply is the lower of the two asked for (R452); 0 while the Faces are gated. -/
def fabricSupply (d : Dev) : Dev :=
  let c := max 600 (min 800 d.pw.capMv)
  let t := max 600 (min 800 d.pw.tempMv)
  let d := setF d PWR_STAT_FABRIC_MV (if facesPowered d then min c t else 0)
  setFlag (setFlag d PWR_STAT_CAPPED (decide (c ≤ t) && decide (c < 800))) PWR_STAT_THROTTLE (decide (t < c))

/-- Complete a mode transition: the new mode, PREV and CHANGES, the Faces' supply, the MODE interrupt event and the MODE_CHANGED event
record (R23, R24, R28, R291, R352). -/
def arriveMode (m : Nat) (strand : Bool) (d : Dev) : Dev :=
  let old := mode d
  let d := { d with md := { d.md with trans := none, stranded := strand, resumed := false } }
  let d := setFlag (setFlag (setF (setF d SYS_MODE_PREV old) SYS_MODE_MODE m) SYS_MODE_TRANSIT false) SYS_MODE_STRANDED
    strand
  let d := fabricSupply (bumpF d SYS_MODE_CHANGES)
  irqEvent 3 (hostEvent 1 ([(getR d SYS_MODE).toNat, 0] ++ lohi (trvCount d)) d)

/-- The device floor written to TRV_COUNT. -/
def syncFloor (d : Dev) : Dev := set2 d TRV_COUNT_LO (floorOf d)

/-- Set the count of every tile (R74): no tile is in a traverse. -/
def setCounts (k : Nat) (d : Dev) : Dev :=
  syncFloor (each (List.range 256) (fun t d => setTile d t { tile0 t with count := k }) d)

end Sys2Proof.Machine
end

