-- ==== Sys2Proof/Machine/Cairn.lean ====
section
/-! DEFINITION. The Cairn: classes, records, escalation and the actions of the classes (09_cairn.md). -/

namespace Sys2Proof.Machine

/-- PEND and OLDEST as the unacknowledged records give them (R229). -/
def syncUnack (d : Dev) : Dev :=
  let seqs := fun n => (d.cn.unack.filter fun u => u.cls == n).map (·.seq)
  let d' := each (List.range 5) (fun n d => setF d (whole (CAIRN_OLDEST_C n)) ((seqs n).headD 0)) d
  setF d' CAIRN_STATUS_PEND ((List.range 5).foldl (fun v n => v + b2n (!(seqs n).isEmpty) * 2 ^ n) 0)

/-- FLT_N is driven low by the pulse of a C2 record or by a latch (R236). -/
def syncFlt (d : Dev) : Dev :=
  setFlag d CAIRN_STATUS_FLT (d.cn.pulse || flag d CAIRN_STATUS_LATCH_C3 || flag d CAIRN_STATUS_LATCH_C4)

/-- Set the ACKED bit of a record in the ring (R233). -/
def ackRing (seq : Nat) (d : Dev) : Dev :=
  let i := 8 * (seq % 1024)
  let r0 := sget (fun _ => 0#32) d.cn.ring i
  if r0.toNat == seq then
    let w := sget (fun _ => 0#32) d.cn.ring (i + 1) ||| 0x40000#32
    { d with cn := { d.cn with ring := sset (fun _ => 0#32) d.cn.ring (i + 1) w } }
  else d

/-- Write one record into the ring under the next SEQ (R233, R234): bytes 4-7, TIME, TRAVERSE and DETAIL are given. -/
def ringWrite (w1 time trav detail : Nat) (d : Dev) : Nat × Dev :=
  let old := (getR d CAIRN_SEQ).toNat
  let seq := if old + 1 == 2 ^ 32 then 1 else old + 1
  let was := (sget (fun _ => 0#32) d.cn.ring (8 * (seq % 1024))).toNat
  let lost := d.cn.unack.any fun u => u.seq == was
  let d := setR d CAIRN_SEQ (BitVec.ofNat 32 seq)
  let d := if lost then setFlag d CAIRN_STATUS_OVERRUN true else d
  let ws := ([seq, w1, time, time / 2 ^ 32, trav, trav / 2 ^ 32, detail, detail / 2 ^ 32]).map (BitVec.ofNat 32)
  (seq, { d with cn := { d.cn with ring := sputs (fun _ => 0#32) d.cn.ring (8 * (seq % 1024)) ws } })

/-- Bytes 4-7 of a record (R233). -/
def recWord (d : Dev) (src cls orig esc : Nat) (inj acked : Bool) : Nat :=
  src + cls * 2 ^ 8 + orig * 2 ^ 11 + esc * 2 ^ 14 + b2n inj * 2 ^ 17 + b2n acked * 2 ^ 18 + mode d * 2 ^ 19 +
    myPos d * 2 ^ 22

/-- Write a fault record of this device, with everything every record of its class does (R223, R229, R233-R236) but the REPORT: the
counter, the pending state, FLT_N and the latches, the NMI of core 0 and the FAULT event. -/
def recordLocal (src cls orig esc trav detail : Nat) (inj : Bool) (d : Dev) : Nat × Dev :=
  let acked := decide (cls < 4) && getR d (CAIRN_WIN_C cls) == 0#32
  let w1 := recWord d src cls orig esc inj acked
  let time := sysTime d
  let (seq, d) := ringWrite w1 time trav detail d
  let d := countF d (whole (CAIRN_COUNT_C cls)) 1
  let d := if acked then d
    else syncUnack { d with cn := { d.cn with unack := d.cn.unack ++ [⟨seq, cls, d.ticks⟩] } }
  let d := if cls == 2 then { d with cn := { d.cn with pulse := true, pulseSeq := seq } } else d
  let d := if cls == 3 then setFlag d CAIRN_STATUS_LATCH_C3 true
    else if cls == 4 then setFlag d CAIRN_STATUS_LATCH_C4 true else d
  let d := syncFlt d
  let d := if 1 ≤ cls ∨ flag d CAIRN_CTRL_C0_NMI then { d with cn := { d.cn with nmi := true } } else d
  (seq, if 1 ≤ cls then hostEvent 4 [seq, w1, 0, 0] d else d)

/-- Write a fault record, and send the REPORT of a C1, C2 or C3 one to the manager (R223); a C2 record in BOOT or STANDBY is written only
(R224). -/
def record (src cls orig esc trav detail : Nat) (inj : Bool) (d : Dev) : Nat × Dev :=
  let acked := decide (cls < 4) && getR d (CAIRN_WIN_C cls) == 0#32
  let body := at8 8 (recWord d src cls orig esc inj acked) + at8 12 (sysTime d) + at8 20 trav + at8 28 detail
  let told := decide (1 ≤ cls ∧ cls < 4) && !isMgr d && !(cls == 2 && (mode d == 0 || mode d == 1))
  let (seq, d) := recordLocal src cls orig esc trav detail inj d
  (seq, if told then sendMgr 0x15 0 body d else d)

/-- Send a BELAY on every rope that is up or degraded, and note it as accepted (R127, R128). -/
def floodBelay (reason origin epoch : Nat) (except : Option Nat) (d : Dev) : Dev :=
  let body := belayBody reason origin epoch
  let d := each ((upRopes d).filter fun k => some k != except) (fun k d => emit (.ordered k true body (orderedSymbols true body)) d) d
  { d with lk := { d.lk with accepted := ((origin, epoch, d.ticks) :: d.lk.accepted).take 16 } }

/-- Whether a BELAY is among the last 16 accepted within 10 µs (R128). -/
def knownBelay (d : Dev) (origin epoch : Nat) : Bool :=
  d.lk.accepted.any fun b => b.1 == origin && b.2.1 == epoch && decide (d.ticks - b.2.2 ≤ 1000)

/-- LINK_BELAY_LAST of an accepted BELAY. -/
def noteBelay (reason origin epoch : Nat) (d : Dev) : Dev :=
  let n := getF d LINK_BELAY_LAST_COUNT
  setF (setF (setF (setF d LINK_BELAY_LAST_REASON reason) LINK_BELAY_LAST_ORIGIN origin) LINK_BELAY_LAST_EPOCH epoch)
    LINK_BELAY_LAST_COUNT (n + 1)

/-- Raise a BELAY from this device: the next EPOCH, the flood and the device's own hold (R127, R80). -/
def raiseBelay (reason : Nat) (d : Dev) : Dev :=
  let e := (d.lk.epoch + 1) % 256
  let d := { d with lk := { d.lk with epoch := e } }
  let d := floodBelay reason (myPos d) e none d
  if mode d == 3 || mode d == 6 || mode d == 4 then holdFabric d else d

/-- Whether a rollback can recover this device (R25, R26): protected operation and a committed checkpoint. -/
def canRecover (d : Dev) : Bool := isProtected d && !d.ck.kept.isEmpty

/-- Whether another device can take this device's part over (R21, R25, R265): its party has a spare for the partition it holds, and a
manager has a deputy. -/
def canReplace (d : Dev) : Bool :=
  (!holds d || (spareOf d (myParty d)).isSome) && (!isMgr d || flag d SYS_TOPOLOGY_DEP_VALID)

/-- The latest committed checkpoint's number and boundary. -/
def latest (d : Dev) : Nat × Nat := ((getR d CKP_SEQ).toNat, get2 d CKP_BOUND_LO)

/-- Broadcast a MODE order (R24, R243). -/
def sendMode (m : Nat) (strand : Bool) (value extra : Nat) (d : Dev) : Dev :=
  broadcast 0x12 0 (sysctl d (m + b2n strand * 8) value extra) d

/-- Begin the manager's part of a recovery: RECOVER is ordered, the target is the latest committed checkpoint (R181), and
H_D and DONE are awaited. A second event restarts it from its target (R224). -/
def beginRecovery (d : Dev) : Dev :=
  if isMgr d then
    let d := sendMode 6 false 0 0 d
    { d with rs := { d.rs with recovering := true, phase := 0, rollSeq := (latest d).1, rollK := (latest d).2, dones := []
                               startTick := if d.rs.recovering then d.rs.startTick else d.rs.since.getD d.ticks
                               since := none } }
  else d

/-- A replay ends early for the reason given (R220). -/
def endReplay (err : Nat) (d : Dev) : Dev :=
  if mode d == 5 then setF { d with vs := { d.vs with rplEnding := true } } VIS_RPL_STAT_ERR err else d

/-- Start into RECOVER on a C2 or C3 action (R24, R25, R27, R81): at once from RUN or FREEZE; a freeze in progress
becomes a recovery that ends in FREEZE; in open operation a device never enters RECOVER (R26); a replay ends first, and only a C3 action goes on to RECOVER from the FREEZE that follows
(R222); otherwise the event is kept to the end of the transition. -/
def toRecover (c3 : Bool) (d : Dev) : Dev :=
  match d.md.trans with
  | some t =>
    if t.goal == 4 && !t.strand && mode d == 3 then
      beginRecovery (beginTrans 6 false true { d with md := { d.md with keptFreeze := true, recEntry := 3 } })
    else if t.goal == 6 && !t.ready then beginRecovery (beginTrans 6 false true d)
    else { d with md := { d.md with keptC3 := d.md.keptC3 || c3, keptC2 := d.md.keptC2 || !c3 } }
  | none =>
    if !isProtected d && mode d != 5 then d
    else if mode d == 3 || mode d == 4 then
      beginRecovery (beginTrans 6 false true { d with md := { d.md with recEntry := mode d } })
    else if mode d == 6 then beginRecovery d
    else if mode d == 5 then
      let d := endReplay 7 d
      { d with md := { d.md with keptC3 := d.md.keptC3 || c3 } }
    else d

/-- The SAFE announcement (R29, R235), after which the device is silent. -/
def announceSafe (r : Nat × Nat × Nat × Nat) (d : Dev) : Dev :=
  let d := broadcast 0x15 2 (at8 8 r.1 + at8 12 r.2.1 + at8 20 r.2.2.1 + at8 28 r.2.2.2) d
  { d with md := { d.md with silent := true } }

/-- Enter SAFE: what R238 reaches at 2 µs. -/
def arriveSafe (announce : Bool) (r : Nat × Nat × Nat × Nat) (d : Dev) : Dev :=
  let d := setFlag (arriveMode 7 false d) CAIRN_STATUS_SAFE_DONE true
  if announce then announceSafe r d else { d with md := { d.md with silent := true } }

/-- The C4 action (R238): the fabric stops, the pins take their SAFE state, the video output is blanked, and SAFE is entered, at once or, in a
transition, at its end (R27). In BOOT no transition to SAFE exists but for the checks R25 names: the fabric, the pins and the video
output are made safe there too, and the mode stays (DESIGN CHOICE, assumptions row 96). -/
def c4Action (announce fromBoot : Bool) (seq time trav detail : Nat) (d : Dev) : Dev :=
  let d := setFlag (c4Pins { d with md := { d.md with c4Hold := true } }) VID_CTRL_BLANK true
  match d.md.trans with
  | some _ => { d with md := { d.md with keptC4 := true, c4Rec := if announce then some (seq, time, trav, detail) else none } }
  | none => if mode d == 0 && !fromBoot then d else arriveSafe announce (seq, time, trav, detail) d

/-- The manager's own C3 fault (R223): its partition passes to its party's spare and its role to the deputy. The manager cannot declare
itself lost; it stops as a fenced device does and announces it, and the deputy takes the announcement for the loss of the manager
(DESIGN CHOICE, assumptions row 97). -/
def abdicate (d : Dev) : Dev :=
  let time := sysTime d
  let trav := trvCount d
  let (seq, d) := recordLocal 0x21 4 3 4 trav 0 false d
  c4Action true false seq time trav 0 d

/-- The action of a class (R223, R224). -/
def classAction (src cls seq trav detail : Nat) (announce : Bool) (d : Dev) : Dev :=
  let m := mode d
  if m == 7 || d.md.keptC4 then d
  else if cls == 4 then c4Action announce (src == 0x18) seq (sysTime d) trav detail d
  else if flag d DBG_HALT_HALTED && (cls == 2 || cls == 3) then
    let d := if cls == 2 && (m == 3 || m == 4 || m == 6) then { d with cn := { d.cn with lastC2 := some (src, detail, trav) } } else d
    { d with md := { d.md with keptC3 := d.md.keptC3 || cls == 3, keptC2 := d.md.keptC2 || cls == 2 } }
  else if cls == 3 then
    let d := raiseBelay 0x10 d
    if isMgr d && src != 0x17 && src != 0x20 && src != 0x21 then abdicate d
    else if m == 3 || m == 4 || m == 5 || m == 6 then toRecover true d
    else d
  else if cls == 2 then
    if m == 3 || m == 4 || m == 6 then
      toRecover false (raiseBelay 0x11 { d with cn := { d.cn with lastC2 := some (src, detail, trav) } })
    else if m == 5 then endReplay 7 d
    else if m == 2 then { d with hs := { d.hs with loadFault := true } }
    else d
  else d

/-- Whether R225 replaces the action of a class by the C4 action: open operation, or no recovery (R25), where the class's
action would be a rollback or a replacement. A C3 event of a source other than a loss or a split takes this device itself out. -/
def replaced (d : Dev) (src cls : Nat) (noRecover : Bool) : Bool :=
  let own := cls == 3 && src != 0x17 && src != 0x20 && src != 0x21
  let acts := (cls == 2 && (mode d == 3 || mode d == 4 || mode d == 6)) || cls == 3
  acts && (noRecover || !canRecover d || (own && !canReplace d))

/-- A fault event: repeat, open operation, escalation or joining, record and action (R223-R232). `noRecover` says that
recovery is not possible for this event whatever the checkpoints; `announce` is false for a fenced device (R242). -/
def raiseWith (src detail trav : Nat) (inj noRecover announce : Bool) (d : Dev) : Dev :=
  let orig := getF d (CAIRN_SRC_CLASS src)
  if mode d == 7 || d.md.keptC4 then (recordLocal src orig orig 0 trav detail inj d).2
  else
    let rep := getF d (CAIRN_SRC_REPEAT src)
    let isRep := orig == 2 && d.cn.lastC2 == some (src, detail, trav) && decide (rep ≤ 4)
    let c1 := if isRep then rep else orig
    let e1 := if isRep then 3 else 0
    let r1 := replaced d src c1 noRecover
    let c2 := if r1 then 4 else c1
    let e2 := if r1 then 4 else e1
    let olds := d.cn.unack.filter fun u => u.cls == c2
    match olds with
    | [] =>
      let (seq, d) := record src c2 orig e2 trav detail inj d
      classAction src c2 seq trav detail announce d
    | u :: _ =>
      if d.ticks - u.at_ ≤ getF d CAIRN_CTRL_JOIN then (record src c2 orig 5 trav detail inj d).2
      else
        let c3 := if c2 < 4 then c2 + 1 else 4
        let e3 := if c2 < 4 then 1 else e2
        let c4 := if replaced d src c3 noRecover then 4 else c3
        let (seq, d) := record src c4 orig e3 trav detail inj d
        classAction src c4 seq trav detail announce d

/-- A fault event of this device, at the present traverse. -/
def raise (src detail : Nat) (d : Dev) : Dev := raiseWith src detail (trvCount d) false false true d

/-- A fault event whose traverse the source knows. -/
def raiseAt (src detail trav : Nat) (inj : Bool) (d : Dev) : Dev := raiseWith src detail trav inj false true d

/-- An uncorrectable word that is rewritten or rebuilt without a change of mode (R62, R148, R461): in FREEZE, LOAD and
REPLAY the record is written, with no rollback unless it escalates; in the other modes it is an ordinary event. No REPORT goes to the
manager, which would answer one of class 2 by a rollback (DESIGN CHOICE, assumptions row 98). -/
def raiseRewrite (src detail : Nat) (inj : Bool) (d : Dev) : Dev :=
  let m := mode d
  if m == 4 || m == 2 || m == 5 then
    let c := getF d (CAIRN_SRC_CLASS src)
    if c == 2 && !(d.cn.unack.any fun u => u.cls == 2) then (recordLocal src c c 0 (trvCount d) detail inj d).2
    else raiseWith src detail (trvCount d) inj false true d
  else raiseWith src detail (trvCount d) inj false true d

/-- A location in the DETAIL format (R226). -/
def location (tile ev index store : Nat) : Nat := tile + ev * 2 ^ 8 + index * 2 ^ 17 + store * 2 ^ 30

/-- A FAULT, protocol or routing report of a rope (sources 0x14 and 0x15). -/
def linkFault (src rope ty dest : Nat) (d : Dev) : Dev := raise src (rope + ty * 2 ^ 5 + dest * 2 ^ 11) d

/-- The position a flit goes to now, by the map for a partition; none where no position holds it (R115, R117). -/
def flitTarget (d : Dev) (f : Flit) : Option Nat := if f.dkind then some f.dest else pmap d f.dest

/-- Flits looked at anew (R115, R117, R118): those for a partition that no position holds any more are discarded and reported, those a
map change has made this device's own are kept for delivery, and the flits still to be sent are answered. DETAIL's rope is the one
a flit came in on, 0 for a flit of this device (DESIGN CHOICE, assumptions row 88). -/
def sortFlits (fs : List Flit) (d : Dev) : List Flit × Dev :=
  let own := fs.filter fun f => flitTarget d f == some (myPos d)
  let away := fs.filter fun f => (flitTarget d f).any (· != myPos d) && !(f.src == myPos d && silenced d f)
  let nobody := fs.filter fun f => (flitTarget d f).isNone
  (away, each nobody (fun f d => linkFault 0x15 ((f.held.map (·.1)).getD 0) f.ty f.dest (dropFlit f d))
    { d with lk := { d.lk with own := d.lk.own ++ own } })

/-- Flits routed anew, in their order, behind what their ropes already hold (R115, R118). -/
def reroute (fs : List Flit) (d : Dev) : Dev :=
  let (away, d) := sortFlits fs d
  each away (fun f d => route ((flitTarget d f).getD 0) f d) d

/-- Try again every flit that waits for a usable rope (R118). -/
def retryWaiting (d : Dev) : Dev := reroute d.lk.waitq { d with lk := { d.lk with waitq := [] } }

/-- A write of LINK_DETOUR (R118, R124): flits that wait are tried again; a rope that is back carries traffic once its detour is
cleared. -/
def detourWrite (off : Nat) (v : Word) (d : Dev) : Dev :=
  let k := (off - 0x40040) / 4
  let d := plainWrite off v d
  let d := if ropeUp d k && !flag d (LINK_DETOUR_VALID k) then setRope d k { ropeOf d k with lost := false } else d
  retryWaiting d

/-- Acknowledge records of a class up to SEQ v (R229). -/
def acknowledge (n v : Nat) (d : Dev) : Dev :=
  let hit := d.cn.unack.filter fun u => u.cls == n && decide ((v + 2 ^ 32 - u.seq) % 2 ^ 32 < 2 ^ 31)
  let d := each hit (fun u d => ackRing u.seq d) d
  syncUnack { d with cn := { d.cn with unack := d.cn.unack.filter fun u => !hit.contains u } }

/-- An acknowledge window expires (R231): the oldest record is marked acknowledged and a record of the next class is
written. -/
def windowExpiry (n : Nat) (d : Dev) : Dev :=
  match d.cn.unack.find? fun u => u.cls == n with
  | none => d
  | some u =>
    let d := ackRing u.seq (syncUnack { d with cn := { d.cn with unack := d.cn.unack.filter (· != u) } })
    let c := if replaced d 0x3F (n + 1) false then 4 else n + 1
    let (seq, d) := record 0x3F c n 2 (trvCount d) u.seq false d
    classAction 0x3F c seq (trvCount d) u.seq true d

end Sys2Proof.Machine
end

