-- ==== Sys2Proof/Machine/Ecc.lean ====
section
/-! DEFINITION. Protected words: check bits that stand inverted, what a read finds, and what it reports (R60-R62,
R145-R148, R239). -/

namespace Sys2Proof.Machine

/-- The check bits that stand inverted in a word. -/
def eccMask (d : Dev) (key : Nat) : BitVec 8 := sget (fun _ => 0#8) d.ecc key

/-- Clear a word's inverted check bits: it was written or corrected. -/
def eccClear (key : Nat) (d : Dev) : Dev := eccDrop (· == key) d

/-- Clear the words of a range of keys. -/
def eccClearRange (lo n : Nat) (d : Dev) : Dev := eccDrop (fun k => decide (lo ≤ k) && decide (k < lo + n)) d

/-- Whether records of errors in a word carry INJECTED (R239). -/
def wasInjected (d : Dev) (key : Nat) : Bool := d.cn.injected.contains key

/-- DETAIL of a fabric word (R226), from its space and index. -/
def fabricDetail (space i : Nat) : Nat :=
  if space == 0 then location (i / 1024 / 512) (i / 1024 % 512) (i % 1024) 0
  else if space == 1 then location (i / 16 / 512) (i / 16 % 512) (i % 16) 1
  else if space == 2 || space == 3 then location (i / 512) (i % 512) 0 space
  else if space == 4 then location (i / 512) 0 (i % 512) 4
  else location (i / 8192) 0 (i % 8192) 5

/-- Whether the party has a spare that can give back what this worker lost (R60, R146): protected operation, a partition
held, and a spare that holds none. -/
def hasSpare (d : Dev) : Bool := isProtected d && holds d && role d != 3 && (spareOf d (myParty d)).isSome

/-- Ask the spare for a step word (R259): `i` is its index in step memory. -/
def askStepWord (i : Nat) (d : Dev) : Dev :=
  match spareOf d (myParty d) with
  | some sp =>
    let v := i / 1024 / 512 + i / 1024 % 512 * 2 ^ 8 + i % 1024 * 2 ^ 17
    sendPos 0x12 14 sp (sysctl d (myPart d) v 0) d
  | none => d

/-- An uncorrectable step word (R60, R62): the spare's copy rewrites it; found by execution it rolls back, found by another
read in FREEZE, LOAD or REPLAY it does not change the mode. -/
def stepWordFault (i trav : Nat) (execution : Bool) (d : Dev) : Dev :=
  let inj := wasInjected d (eccKey 0 i)
  if hasSpare d && !execution && d.tv.waitSteps.contains i then d
  else
  let d := if hasSpare d then askStepWord i d else d
  if hasSpare d && !execution then
    raiseRewrite 0x02 (fabricDetail 0 i) inj { d with tv := { d.tv with waitSteps := i :: d.tv.waitSteps } }
  else raiseWith 0x02 (fabricDetail 0 i) trav inj (!hasSpare d) true d

/-- A read of a fabric word (spaces 0 to 5): a single error is corrected in place and reported as C0; an uncorrectable
one is reported as C2. Answers whether the word is uncorrectable. -/
def readFabric (space i trav : Nat) (d : Dev) : Bool × Dev :=
  let key := eccKey space i
  let n := popcount (eccMask d key)
  if n == 0 then (false, d)
  else
    let inj := wasInjected d key
    if n == 1 then
      (false, raiseAt (if space == 0 then 0x01 else 0x03) (fabricDetail space i) trav inj (eccClear key d))
    else if space == 0 then (true, stepWordFault i trav true d)
    else (true, raiseAt 0x04 (fabricDetail space i) trav inj d)

/-- A read of a step word by execution or by the scrubber (R60, R62): a correction counts in TRV_SCRUB_STAT. -/
def readStep (i trav : Nat) (d : Dev) : Bool × Dev :=
  let one := popcount (eccMask d (eccKey 0 i)) == 1
  readFabric 0 i trav (if one then countF d TRV_SCRUB_STAT_CORRECTED 1 else d)

/-- Bytes of the memory-model region (R133). -/
def regionBytes (d : Dev) : Nat := getF d MEM_REGION_SIZE_GIB * 2 ^ 30

/-- The service areas, from the top of HBM down (DESIGN CHOICE): 2 GiB of fixed use, then rings, hold area, trace ring,
replay area, journal, checkpoint area and parity log. -/
def areaSizes (d : Dev) : List Nat :=
  [2 * 2 ^ 30, getF d QUE_AREA_RING_MIB * 2 ^ 20, getF d QUE_HOLD_SIZE_MIB * 2 ^ 20,
   getF d VIS_TRACE_AREA_SIZE_GIB * 2 ^ 30, getF d VIS_RPL_AREA_SIZE_GIB * 2 ^ 30, getF d CKP_JOURNAL_SIZE_MIB * 2 ^ 20,
   getF d CKP_AREA_SIZE_GIB * 2 ^ 30, getF d MEM_PLOG_SIZE_MIB * 2 ^ 20]

/-- The base address of the `i`-th service area. -/
def areaBase (d : Dev) (i : Nat) : Nat := hbmSize - ((areaSizes d).take (i + 1)).foldl (· + ·) 0

/-- Whether an HBM byte address lies in the `i`-th service area. -/
def inArea (d : Dev) (i a : Nat) : Bool := decide (areaBase d i ≤ a) && decide (a < areaBase d i + (areaSizes d).getD i 0)

/-- The HBM stack of a byte address (R135). -/
def stackOf (a : Nat) : Nat := (a / 2 ^ 8 % 4) ^^^ (a / 2 ^ 16 % 4)

/-- Whether an uncorrectable region word can be rebuilt (R146, R461): protected operation, a party spare that holds no
partition, and the mode not SAFE. -/
def canRebuild (d : Dev) : Bool :=
  isProtected d && holds d && (spareOf d (myParty d)).isSome && mode d != 7

/-- Note an uncorrectable HBM word (R146, R147): counted, its address recorded, its granule remembered; a second error in
the granule in one run retires the row, or is a C3 fault when no repair resource is left. -/
def noteHbmFault (a : Nat) (d : Dev) : Dev :=
  let d := set2 (countF d MEM_ECC_UNCORR 1) MEM_ECC_ADDR_LO a
  let g := a / 256
  if d.tv.granules.contains g then
    let n := (d.tv.retired.filter fun r => stackOf (256 * r) == stackOf a).length
    let d := { d with tv := { d.tv with retired := g :: d.tv.retired.filter (· != g) } }
    if Config.repairLeft (stackOf a) n then d else raiseAt 0x07 a (trvCount d) (wasInjected d (eccKey 6 (a / 8))) d
  else { d with tv := { d.tv with granules := g :: d.tv.granules } }

/-- Check a read of an HBM word: 0 good, 1 corrected (and reported, R145), 2 uncorrectable (not yet reported). -/
def checkHbm (a : Nat) (d : Dev) : Nat × Dev :=
  let key := eccKey 6 (a / 8)
  let n := popcount (eccMask d key)
  if n == 0 then (0, d)
  else if n == 1 then
    let inj := wasInjected d key
    (1, raiseAt 0x05 (a / 8 * 8) (trvCount d) inj (countF (eccClear key d) MEM_ECC_CORRECTED 1))
  else (2, d)

/-- Report an uncorrectable HBM word as source 0x06 (R146, R461); from one of the region that no spare can rebuild there is no
recovery. -/
def hbmFault (a trav : Nat) (d : Dev) : Dev :=
  let inj := wasInjected d (eccKey 6 (a / 8))
  raiseWith 0x06 (a / 8 * 8) trav inj (decide (a < regionBytes d) && !canRebuild d) true (noteHbmFault (a / 8 * 8) d)

/-- Report an uncorrectable HBM word that is rebuilt without a change of mode (R148, R461). -/
def hbmFaultQuiet (a : Nat) (d : Dev) : Dev :=
  let inj := wasInjected d (eccKey 6 (a / 8))
  raiseRewrite 0x06 (a / 8 * 8) inj (noteHbmFault (a / 8 * 8) d)

/-- Ask the party for a word of the region, or for its page, as at the committed checkpoint (R258, R259). -/
def sendRebuildReq (a : Nat) (oneWord : Bool) (d : Dev) : Dev :=
  each (liveMembers d (myParty d)) (fun p d =>
    sendPos 0x12 13 p (sysctl d (myPart d) (a + b2n oneWord * 2 ^ 63) 0) d) d

/-- An uncorrectable region word waits for its rebuild (R146): it is outstanding to every reader. -/
def awaitRebuild (a : Nat) (d : Dev) : Dev :=
  let w := a / 8
  if d.tv.waitWords.contains w then d
  else sendRebuildReq (w * 8) true { d with tv := { d.tv with waitWords := w :: d.tv.waitWords } }

/-- What an engine of the device finds in words of HBM that it reads, and of the region that a stream to a peer reads (R145, R461): a
single error is corrected, an uncorrectable one reported; a region word that can be rebuilt is. -/
def engineCheck (as : List Nat) (d : Dev) : Dev :=
  if d.ecc.isEmpty then d
  else each as (fun a d =>
    let (st, d) := checkHbm a d
    if st != 2 || d.tv.waitWords.contains (a / 8) then d
    else if a < regionBytes d && canRebuild d then awaitRebuild a (hbmFaultQuiet a d)
    else hbmFault a (trvCount d) d) d

/-- The word addresses a byte range touches. -/
def wordAddrs (a n : Nat) : List Nat := if n == 0 then [] else (List.range ((a + n - 1) / 8 - a / 8 + 1)).map fun i => (a / 8 + i) * 8

/-- An uncorrectable word of the checkpoint area (R181, R182): whether it hits the copy that is read is a free value, since the rules give
the copies no place in the area (DESIGN CHOICE, row 110). -/
def copyBad (d : Dev) : Option Nat :=
  match d.ecc.find? fun e => decide (eccKey 6 0 ≤ e.1) && inArea d 6 (8 * (e.1 - eccKey 6 0)) && decide (2 ≤ popcount e.2) with
  | some e => if Config.freeBit d.free then some (8 * (e.1 - eccKey 6 0)) else none
  | none => none

end Sys2Proof.Machine
end

