-- ==== Sys2Proof/Machine/Ckpt.lean ====
section
/-! DEFINITION. The input journal, checkpoints, saves, the stream to the spare and the parity stream, as far as they
touch the module alone (R151-R182). -/

namespace Sys2Proof.Machine

/-- Sequence numbers after `n`: 0 is never used (R158). -/
def nextSeq (n : Nat) : Nat := if (n + 1) % 2 ^ 32 == 0 then 1 else (n + 1) % 2 ^ 32

/-- The spare this worker streams to, if any (R151): protected operation, a partition held, a party spare. -/
def streamSpare (d : Dev) : Option Nat := if isProtected d && holds d && role d != 3 then spareOf d (myParty d) else none

/-- The CKP_SEQ of the interval that is open: that of the checkpoint which will close it (R152). -/
def openInterval (d : Dev) (trav : Nat) : Nat :=
  match d.par.due.find? fun x => decide (trav < x.2) with
  | some x => x.1
  | none => nextSeq d.ck.lastSeq

/-- CKPDATA flit (R169). -/
def sendCkpData (spare kind seq off : Nat) (ws : List DWord) (d : Dev) : Dev :=
  let body := at8 8 (off % 2 ^ 24 + ws.length * 2 ^ 24) +
    (ws.zip [12, 20, 28]).foldl (fun n w => n + at8 w.2 w.1.toNat) 0
  sendPos 0x28 (kind + 8 * (seq % 128)) spare body d

/-- Bytes of the journal (CKP_JOURNAL.SIZE_MIB). -/
def journalBytes (d : Dev) : Nat := getF d CKP_JOURNAL_SIZE_MIB * 2 ^ 20

/-- Bytes from the oldest kept record to the write point (R174). -/
def journalUsed (d : Dev) : Nat :=
  match d.jr.recs with
  | [] => 0
  | r :: _ => 8 * (d.jr.wr - r.off)

/-- CKP_JOURNAL.FILL in percent. -/
def syncJournal (d : Dev) : Dev :=
  setF d CKP_JOURNAL_FILL (if journalBytes d == 0 then 0 else journalUsed d * 100 / journalBytes d)

/-- Start an unscheduled checkpoint at the manager (R160 steps 1, 2): REQUEST, and the manager's own fence and reply. -/
def startRequest (d : Dev) : Dev :=
  if d.ck.requesting || !d.ck.pends.isEmpty || !(mode d == 3 || mode d == 6) then d
  else
    let f := highBegun d + max 4 d.ck.lead
    let d := broadcast 0x14 0 (ckpctl 0 0 0) d
    { d with ck := { d.ck with requesting := true, replies := if holds d then [(myPos d, f)] else [] }
             tv := { d.tv with fence := if holds d then some f else none } }

/-- Ask for a checkpoint (R165): READY with CKP_SEQ 0 and STATUS bit 1; the manager starts one itself, in protected operation (R160). -/
def askCheckpoint (d : Dev) : Dev :=
  if isMgr d then whenB (isProtected d) startRequest d else sendMgr 0x14 3 (ckpctl 0 0 2) d

/-- A SAMPLE record (R175). -/
def sampleRec (tile step ep trav : Nat) (pop value : Bool) : DWord :=
  BitVec.ofNat 64 (1 + b2n value * 4 + b2n pop * 8 + tile * 2 ^ 4 + step * 2 ^ 12 + ep * 2 ^ 22 + trav % 2 ^ 37 * 2 ^ 27)

/-- An ENTRY record (R175). -/
def entryRec (q index : Nat) (data : List Byte) : List DWord :=
  BitVec.ofNat 64 (2 + q * 4 + data.length * 2 ^ 32) :: BitVec.ofNat 64 index :: dwordsOf data

/-- A MARK record (R175). -/
def markRec (seq : Nat) : List DWord := [BitVec.ofNat 64 (3 + seq * 2 ^ 32)]

/-- The old contents of a tile-RAM block. -/
def tramBlock (d : Dev) (blk : Nat) : List DWord := sgets (fun _ => 0#64) d.fab.tram (32 * blk) 32

/-- Save `v` at `k` where nothing is saved yet. -/
def saveOnce {α : Type} (st : Store α) (k : Nat) (v : α) : Store α :=
  if st.any (fun e => e.1 == k) then st else sins st k v

/-- Put a save into the checkpoint whose interval a write of a tile with count `c` belongs to (R157): the newest one
taken whose boundary the count has reached. -/
def saveInto (f : Ckpt → Ckpt) (c : Nat) (d : Dev) : Dev :=
  match (d.ck.pends.filter fun x => decide (x.k ≤ c)).reverse with
  | x :: _ => { d with ck := { d.ck with pends := d.ck.pends.map fun y => if y.k == x.k then f y else y } }
  | [] =>
    match d.ck.kept with
    | x :: r => { d with ck := { d.ck with kept := f x :: r } }
    | [] => d

/-- Save a tile-RAM block before its first write in the interval (R157). -/
def saveBlock (blk c : Nat) (d : Dev) : Dev :=
  let old := tramBlock d blk
  saveInto (fun x => { x with tram := saveOnce x.tram blk old }) c d

/-- Save a region page before its first write in the interval (R157). -/
def savePage (m : Mem) (page c : Nat) (d : Dev) : Dev :=
  let old := sslice m (4096 * page) 4096
  saveInto (fun x => { x with pages := saveOnce x.pages page old }) c d

/-- Lay the saves of an abandoned or dropped checkpoint under those of the one before it: what the older has not saved
is in the newer. -/
def mergeSaves (older newer : Ckpt) : Ckpt :=
  { older with tram := newer.tram.foldl (fun st e => saveOnce st e.1 e.2) older.tram
               pages := newer.pages.foldl (fun st e => saveOnce st e.1 e.2) older.pages }

/-- The checkpoints with boundary `k` or later, oldest first: their saves, laid back in this order, give the contents
at `k` (R157). -/
def fromK (d : Dev) (k : Nat) : List Ckpt := (d.ck.kept.reverse ++ d.ck.pends).filter fun c => decide (k ≤ c.k)

/-- A tile-RAM word as at boundary `k`. -/
def tramAt (d : Dev) (k w : Nat) : DWord :=
  match (fromK d k).findSome? fun c => (c.tram.find? fun e => e.1 == w / 32).map (·.2) with
  | some b => b.getD (w % 32) 0
  | none => sget (fun _ => 0#64) d.fab.tram w

/-- A region page as at boundary `k`. -/
def pageAt (d : Dev) (m : Mem) (k page : Nat) : List Host.Cell :=
  match (fromK d k).findSome? fun c => (c.pages.find? fun e => e.1 == page).map (·.2) with
  | some p => p
  | none => sslice m (4096 * page) 4096

/-- A region word as at boundary `k`. -/
def regionAt (d : Dev) (m : Mem) (k a : Nat) : DWord := hbmWord (pageAt d m k (a / 4096)) (a % 4096 / 8 * 8)

/-- A descriptor nothing has bound. -/
def desc0 (_ : Nat) : QDesc where
  bound := false
  fromDesign := false
  blocking := false
  notify := false
  slotLog := 0
  countLog := 0
  owner := 0
  vector := 0
  relay := false
  homeQ := 0
  homePart := 0
  prod := 0
  cons := 0
  base := 0
  orphan := false

/-- The descriptor of a queue (R184). -/
def qdesc (d : Dev) (q : Nat) : QDesc := sget desc0 d.qu.desc q

/-- The position record of a queue (R201). -/
def posRecord (d : Dev) (q : Nat) : List DWord :=
  let x := epOf d q
  let c := qdesc d q
  if c.fromDesign then
    [BitVec.ofNat 64 x.closed, BitVec.ofNat 64 (x.words.length + b2n x.trunc * 2 ^ 63), BitVec.ofNat 64 x.dropped, 1#64]
  else [BitVec.ofNat 64 x.acked, BitVec.ofNat 64 x.popped, 0#64, BitVec.ofNat 64 (b2n c.blocking * 2)]

/-- The bound queues of a tile. -/
def boundQueues (d : Dev) (t : Nat) : List Nat := ((List.range 32).map (32 * t + ·)).filter fun q => (qdesc d q).bound

/-- A tile's Q words and queue positions enter a checkpoint (R157). -/
def captureTile (t : Nat) (d : Dev) (c : Ckpt) : Ckpt :=
  let qs := (sslice d.fab.q (512 * t) 512).map fun e => (512 * t + e.1, e.2)
  { c with tiles := t :: c.tiles.filter (· != t)
           q := qs.foldl (fun st e => sset (fun _ => 0#64) st e.1 e.2) c.q
           qpos := (boundQueues d t).foldl (fun st q => sputs (fun _ => 0#64) st (4 * q) (posRecord d q)) c.qpos }

/-- A checkpoint with nothing captured. -/
def newCkpt (d : Dev) (seq k : Nat) : Ckpt where
  seq := seq
  k := k
  tiles := []
  q := []
  qpos := []
  tram := []
  pages := []
  jmark := d.jr.wr

/-- The pending checkpoint's registers. -/
def syncCkp (d : Dev) : Dev :=
  let d := setFlag d CKP_STATUS_PENDING (!d.ck.pends.isEmpty)
  let d := match d.ck.pends with
    | c :: _ => setFlag (set2 d CKP_NEXT_LO c.k) CKP_STATUS_CAPTURED (c.tiles.length == 256)
    | [] => setFlag (setFlag d CKP_STATUS_CAPTURED false) CKP_STATUS_READY_SENT false
  let d := setFlag d CKP_STATUS_PREV_VALID (decide (2 ≤ d.ck.kept.length))
  let d := setF d CKP_STATUS_HIST_COUNT (d.ck.kept.length - 2)
  match d.ck.kept with
  | c :: _ => set2 (setR d CKP_SEQ (BitVec.ofNat 32 c.seq)) CKP_BOUND_LO c.k
  | [] => set2 (setR d CKP_SEQ 0) CKP_BOUND_LO 0

/-- A checkpoint is taken: it becomes pending with its number and boundary (R158, R162), unless it is already abandoned (R166); the MARKs
of the interval it closes are owed in either case (R153, R174). -/
def takeCkpt (seq k : Nat) (d : Dev) : Dev :=
  let empty := d.ck.pends.isEmpty
  let owed := fun l : List (Nat × Nat) => l.filter (·.1 != seq) ++ [(seq, k)]
  let d := { d with ck := { d.ck with pends := if d.ck.gone.contains seq then d.ck.pends else d.ck.pends ++ [newCkpt d seq k]
                                      lastSeq := seq, lastBound := k, jdue := owed d.ck.jdue
                                      readys := if empty then [] else d.ck.readys
                                      streamed := if empty then false else d.ck.streamed }
                    par := { d.par with due := owed d.par.due }
                    jr := { d.jr with since := 0 } }
  syncCkp (if d.ck.pends.length == 1 then setFlag d CKP_STATUS_READY_SENT false else d)

/-- Remove the fence (R160 step 4). -/
def clearFence (d : Dev) : Dev := { d with tv := { d.tv with fence := none } }

/-- The manager closes a REQUEST once every holder has replied (R160 step 3); it is cancelled when the periodic boundary
falls at or before its K (R162). -/
def boundaryIfReplied (d : Dev) : Dev :=
  if d.ck.requesting && allHolders d (d.ck.replies.map (·.1)) then
    let k := (d.ck.replies.map (·.2)).foldl max 0
    let d := clearFence { d with ck := { d.ck with requesting := false, replies := [] } }
    if d.ck.lastBound + d.ck.period ≤ k || !d.ck.pends.isEmpty then broadcast 0x14 2 (ckpctl 0 0 0) d
    else
      let seq := nextSeq d.ck.lastSeq
      takeCkpt seq k (broadcast 0x14 2 (ckpctl seq k 0) d)
  else d

/-- PARITY flit of one or two entries (R153). -/
def sendParity (pos seq : Nat) (es : List (Nat × DWord)) (d : Dev) : Dev :=
  let body := (es.zip [8, 21]).foldl (fun n e => n + at8 e.2 e.1.1 + at8 (e.2 + 5) e.1.2.toNat) 0
  sendPos 0x29 (es.length + 4 * (seq % 256)) pos body d

/-- Close the open PARITY flit: the first one or two queued deltas of one interval leave (R153). -/
def closeParity (d : Dev) : Dev :=
  match d.par.queue, streamSpare d with
  | a :: r, some sp =>
    let b := match r with
      | x :: _ => if x.seq8 == a.seq8 then [x] else []
      | [] => []
    let es := (a :: b).map fun x => (x.addr / 8, x.delta)
    let q := d.par.queue.drop es.length
    setF (sendParity sp a.seq8 es { d with par := { d.par with queue := q } }) MEM_PQUEUE_DEPTH q.length
  | _, _ => d

/-- The parity deltas of an interval are counted and queued (R151-R154). A queue of 65,536 entries sends its oldest first. -/
def queueDelta (seq a : Nat) (delta : DWord) (d : Dev) : Dev :=
  if delta == 0 || (streamSpare d).isNone || mode d == 5 then d
  else
    let d := if 65536 ≤ d.par.queue.length then closeParity d else d
    let d := { d with par := { d.par with queue := d.par.queue ++ [⟨myPos d, seq, a, delta⟩]
                                          sent := sset zeroAt d.par.sent seq (sget zeroAt d.par.sent seq + 1) } }
    setF d MEM_PQUEUE_DEPTH d.par.queue.length

/-- Whether every write of traverses before `k` has completed. -/
def writesDone (d : Dev) (k : Nat) : Bool := d.tv.waitWrites.isEmpty && d.fab.acc.all fun a => !a.write || a.tram || decide (k ≤ a.trav)

/-- Send the queued deltas of an interval and its MARK (R153). -/
def sendParityMark (seq : Nat) (d : Dev) : Dev :=
  let d := { d with par := { d.par with due := d.par.due.filter (·.1 != seq) } }
  match streamSpare d with
  | none => d
  | some sp =>
    let mine := d.par.queue.filter fun x => x.seq8 == seq
    let d := each (chunksOf 2 mine) (fun c d => sendParity sp seq (c.map fun x => (x.addr / 8, x.delta)) d) d
    let q := d.par.queue.filter fun x => x.seq8 != seq
    let d := setF { d with par := { d.par with queue := q } } MEM_PQUEUE_DEPTH q.length
    sendPos 0x29 (4 * (seq % 256)) sp (at8 8 seq + at8 12 (sget zeroAt d.par.sent seq)) d

/-- Runs of at most three entries with consecutive keys. -/
def runsOf : Store DWord → List (Nat × List DWord)
  | [] => []
  | (k, v) :: r =>
    match runsOf r with
    | (k', vs) :: rest => if k' == k + 1 && decide (vs.length < 3) then (k, v :: vs) :: rest else (k, [v]) :: (k', vs) :: rest
    | [] => [(k, [v])]

/-- The stream of a checkpoint to the spare (R168, R169): changed state words, dirty tile-RAM blocks as at K, queue
positions, and END with the number of flits; every state word and every block for a spare that has joined (R267 step 3). What it reads
of tile RAM is checked (R61). -/
def streamCkpt (c : Ckpt) (d : Dev) : Dev :=
  match streamSpare d with
  | none => d
  | some sp =>
    let last := match d.ck.kept with
      | x :: _ => x.q
      | [] => []
    let keys := (c.q.map (·.1) ++ (last.map (·.1)).filter fun k => !(c.q.any fun e => e.1 == k))
    let z := fun _ : Nat => 0#64
    let changed := keys.filter fun k => sget z c.q k != sget z last k || d.ck.kept.isEmpty
    let all := d.ck.full == 1 || d.ck.full == 2
    let d := if all then { d with ck := { d.ck with full := 2 } } else d
    let st := (if all then List.range 131072 else changed).foldl (fun s k => sins s k (sget z c.q k)) []
    let held := fun b => (fromK d c.k).any fun x => x.tram.any fun e => e.1 == b
    let dirty := (d.fab.dirty.map (·.1)) ++ ((d.fab.written.map (·.1)).filter fun b => !(d.fab.dirty.any fun e => e.1 == b))
    let blocks := if all then List.range 65536 else dirty
    let tr := blocks.foldl (fun s b => (List.range 32).foldl (fun s i => sins s (32 * b + i) (tramAt d c.k (32 * b + i))) s) []
    let qs := (List.range 8192).filter fun q => (qdesc d q).bound
    let qp := qs.foldl (fun s q => (List.range 4).foldl (fun s i => sins s (4 * q + i) (sget z c.qpos (4 * q + i))) s) []
    let fl := (runsOf st).map (fun r => (0, r)) ++ (runsOf tr).map (fun r => (1, r)) ++ (runsOf qp).map fun r => (2, r)
    let d := if d.ecc.isEmpty then d
      else each ((blocks.filter fun b => !held b).flatMap fun b => (List.range 32).map (32 * b + ·)) (fun i d => (readFabric 5 i c.k d).2) d
    let d := each fl (fun e d => sendCkpData sp e.1 c.seq e.2.1 e.2.2 d) d
    sendPos 0x28 (4 + 8 * (c.seq % 128)) sp (at8 8 c.seq + at8 12 c.k + at8 20 fl.length) d

/-- Whether every interval up to a checkpoint is complete at the spare (R153, R155): MARK and the stated number of deltas
from each worker of the party, for the interval the checkpoint closes and for every one abandoned since the last commit. -/
def intervalsDone (d : Dev) (seq : Nat) : Bool :=
  ((holders d).filter fun p => p / 16 == myParty d).all fun p =>
    ((seq :: d.ck.gone.filter (· ≤ seq)).all fun n => d.par.marks.any fun m => m.1 == p && m.2.1 == n) &&
      (d.par.marks.filter fun m => m.1 == p && decide (m.2.1 ≤ seq)).all fun m =>
        decide (m.2.2 ≤ sget zeroAt d.par.got (2 ^ 32 * p + m.2.1))

/-- Send READY once the conditions of R163 hold; the manager notes its own. -/
def tryReady (d : Dev) : Dev :=
  match d.ck.pends with
  | [] => d
  | c :: _ =>
    if flag d CKP_STATUS_READY_SENT then d
    else
      let own := holds d && c.tiles.length == 256 && !d.ck.jdue.any (·.1 == c.seq) && !d.par.due.any (·.1 ≤ c.seq) &&
        (match streamSpare d with
         | none => true
         | some _ => decide (c.jmark < d.jr.acked) && d.ck.jackEnd == c.seq)
      let spare := role d == 3 && !holds d && isProtected d &&
        (((holders d).filter fun p => p / 16 == myParty d).all fun p =>
          match d.wk.find? fun e => e.1 == p with
          | some e => e.2.endSeq == c.seq && decide (e.2.endFlits ≤ e.2.flits)
          | none => false) && intervalsDone d c.seq
      if own || spare then
        let d := setFlag d CKP_STATUS_READY_SENT true
        if isMgr d then { d with ck := { d.ck with readys := myPos d :: d.ck.readys } }
        else sendMgr 0x14 3 (ckpctl c.seq c.k (b2n spare)) d
      else d

/-- Whether the oldest retained checkpoint is the pinned one (R257). -/
def pinOldest (d : Dev) : Bool :=
  match d.ck.kept.getLast? with
  | some c => d.par.pin == some c.k
  | none => false

/-- Drop the oldest retained checkpoint (R171, R172): its saves are no longer needed. A pinned one is dropped last (R257):
the next older one goes instead, its saves laid under the pinned one. -/
def dropOldest (d : Dev) : Dev :=
  if pinOldest d && 3 ≤ d.ck.kept.length then
    match d.ck.kept.reverse with
    | p :: c :: r => { d with ck := { d.ck with kept := (mergeSaves p c :: r).reverse } }
    | _ => d
  else { d with ck := { d.ck with kept := d.ck.kept.dropLast } }

/-- Keep the latest, the previous, and of the older ones one of every EVERY commits, at most DEPTH (R171). -/
def trimHistory (d : Dev) : Dev :=
  let depth := min 64 (getF d CKP_HIST_DEPTH)
  let every := max 1 (getF d CKP_HIST_EVERY)
  match d.ck.kept with
  | a :: b :: c :: r =>
    let r := if d.ck.commits % every == 0 then c :: r
      else match r with
        | [] => []
        | x :: rest => if d.par.pin == some c.k then c :: x :: rest else mergeSaves x c :: rest
    { d with ck := { d.ck with kept := a :: b :: r.take depth } }
  | _ => d

/-- Free journal records that no retained checkpoint needs (R171, R174, R195): records before the oldest MARK, but for
ENTRY records of entries not yet acknowledged at that checkpoint. -/
def trimJournal (d : Dev) : Dev :=
  match d.ck.kept.getLast? with
  | none => d
  | some c =>
    let need := fun r : JRec => decide (c.jmark ≤ r.off) ||
      (match r.words with
       | w0 :: w1 :: _ => w0.toNat % 4 == 2 &&
           (let q := w0.toNat / 4 % 8192
            decide ((sget (fun _ => 0#64) c.qpos (4 * q)).toNat ≤ w1.toNat) && !(qdesc d q).fromDesign
            || ((qdesc d q).fromDesign && decide ((qdesc d q).cons ≤ w1.toNat)))
       | _ => false)
    syncJournal { d with jr := { d.jr with recs := d.jr.recs.filter need } }

/-- Words that a record of `n` words needs in the journal's ring (R174, R175): its own, and before them a PAD to the end of the ring where it
does not fit there. -/
def journalNeed (d : Dev) (n : Nat) : Nat :=
  let w := journalBytes d / 8
  if w != 0 && decide (w < d.jr.wr % w + n) then w - d.jr.wr % w + n else n

/-- Whether a record of `n` words finds room (R174). -/
def journalRoom (d : Dev) (n : Nat) : Bool :=
  journalBytes d == 0 || decide (journalUsed d + 8 * journalNeed d n ≤ journalBytes d)

/-- Give up a retained checkpoint that is not the latest for space (R172): history first, then the previous one, with which protection is
degraded. -/
def giveUp (d : Dev) : Dev :=
  if 3 ≤ d.ck.kept.length then syncCkp (dropOldest d)
  else raise 0x0F 3 (syncCkp (dropOldest (setFlag d CKP_STATUS_DEGRADED true)))

/-- Make room for a record of `n` words, dropping at most `k` checkpoints, a pinned one last of all (R172, R257). -/
def journalMake (n : Nat) : Nat → Dev → Dev
  | 0, d => d
  | k + 1, d =>
    if journalRoom d n || decide (d.ck.kept.length ≤ 1) || (pinOldest d && decide (d.ck.kept.length ≤ 2)) then d
    else journalMake n k (trimJournal (giveUp d))

/-- Write words at the journal's write point; a worker with a spare mirrors them (R174, R176). -/
def journalWrite (seq : Nat) (ws : List DWord) (d : Dev) : Dev :=
  let off := d.jr.wr
  let d := { d with jr := { d.jr with recs := d.jr.recs ++ [⟨off, seq, ws⟩], wr := off + ws.length
                                      since := d.jr.since + ws.length } }
  match streamSpare d with
  | some sp => each (chunksOf 3 ws |>.zipIdx) (fun c d => sendCkpData sp 3 seq (off + 3 * c.2) c.1 d) d
  | none => d

/-- Append a record to the journal (R172, R174-R177): retained checkpoints make way for it; with only the latest left and no room the
fault of a short journal is raised and the record is not written. Past three quarters, or a quarter since the last checkpoint, one is
asked for. -/
def journalPut (seq : Nat) (ws : List DWord) (d : Dev) : Dev :=
  let d := journalMake ws.length d.ck.kept.length d
  if !journalRoom d ws.length then raise 0x0E 1 d
  else
    let pad := journalNeed d ws.length - ws.length
    let d := if pad == 0 then d else journalWrite seq (List.replicate pad 0#64) d
    let d := syncJournal (journalWrite seq ws d)
    let clash := decide (journalBytes d / 4 < 8 * d.jr.since) || decide (journalBytes d * 3 / 4 < journalUsed d)
    if journalBytes d != 0 && clash && !d.ck.requesting && d.ck.pends.isEmpty then askCheckpoint d else d

/-- The journal MARK of a boundary that the device floor has reached (R174). -/
def writeMark (seq : Nat) (d : Dev) : Dev :=
  let off := d.jr.wr + (journalNeed d 1 - 1)
  let d := { d with ck := { d.ck with
    jdue := d.ck.jdue.filter (·.1 != seq)
    pends := d.ck.pends.map fun x => if x.seq == seq then { x with jmark := off } else x } }
  journalPut seq (markRec seq) d

/-- What every device does when its floor reaches a checkpoint boundary, also that of a checkpoint abandoned meanwhile: MARK records,
the stream of the pending checkpoint, and the parity MARK of each interval whose writes are complete (R153, R163, R174). -/
def closePending (d : Dev) : Dev :=
  if !holds d then { d with ck := { d.ck with jdue := [] }, par := { d.par with due := [] } }
  else
    let d := each ((d.ck.jdue.filter fun x => upTo x.2 (floorOf d)).map (·.1)) writeMark d
    let d := match d.ck.pends with
      | c :: _ => if c.tiles.length == 256 && !d.ck.streamed then streamCkpt c { d with ck := { d.ck with streamed := true } } else d
      | [] => d
    each ((d.par.due.filter fun x => upTo x.2 (floorOf d) && writesDone d x.2).map (·.1)) sendParityMark d

/-- A checkpoint taken here and not committed goes (R166): its saves are kept with the checkpoint before it. -/
def dropPend (seq : Nat) (ck : CkpSt) : CkpSt :=
  let before := ck.pends.takeWhile fun c => c.seq != seq
  match ck.pends.dropWhile fun c => c.seq != seq with
  | [] => ck
  | c :: r =>
    match before.getLast?, ck.kept with
    | some x, _ => { ck with pends := before.dropLast ++ mergeSaves x c :: r }
    | none, x :: rest => { ck with pends := r, kept := mergeSaves x c :: rest }
    | none, [] => { ck with pends := r }

/-- Checkpoint `seq` is abandoned (R166). One that is abandoned before this device takes it is remembered, so that it is not taken. -/
def abandonSeq (seq : Nat) (counts : Bool) (d : Dev) : Dev :=
  let head := (d.ck.pends.head?.map (·.seq)) == some seq
  let ck := { dropPend seq d.ck with gone := seq :: d.ck.gone.filter (· != seq) }
  let d := { d with ck := if head then { ck with readys := [], streamed := false, jackEnd := 0 } else ck }
  let d := if head then setFlag d CKP_STATUS_READY_SENT false else d
  let d := countF d CKP_ABANDON_TOTAL 1
  let d := if counts then countF d CKP_ABANDON_RUN 1 else d
  syncCkp d

/-- The pending checkpoint is abandoned (R166). -/
def abandonPending (counts : Bool) (d : Dev) : Dev :=
  match d.ck.pends with
  | [] => d
  | c :: _ => abandonSeq c.seq counts d

/-- The manager abandons the pending checkpoint and tells all (R166, R167). -/
def mgrAbandon (counts : Bool) (d : Dev) : Dev :=
  match d.ck.pends with
  | [] => d
  | c :: _ =>
    let d := abandonPending counts (broadcast 0x14 5 (ckpctl c.seq c.k 0) d)
    let lim := max 1 (getF d CKP_ABANDON_LIMIT)
    if counts && getF d CKP_ABANDON_RUN % lim == 0 && getF d CKP_ABANDON_RUN != 0 then
      raise 0x0F 2 (setFlag d CKP_STATUS_DEGRADED true) else d

/-- A tile whose count becomes `c` takes part in the checkpoints at boundary `c`; the periodic boundary is derived without
any message (R157, R159). -/
def capturePoint (t c : Nat) (d : Dev) : Dev :=
  let taking := mode d == 3 || mode d == 6
  let due := taking && c == d.ck.lastBound + d.ck.period && !(d.ck.pends.any fun x => x.k == c)
  let d := if due then takeCkpt (nextSeq d.ck.lastSeq) c d else d
  if taking then
    syncCkp { d with ck := { d.ck with pends := d.ck.pends.map fun x => if x.k == c then captureTile t d x else x } }
  else d

/-- Spill of the checkpoint area (R172): more than three quarters asks for a checkpoint. Saves and Q copies are counted at
the sizes of R156. -/
def areaUsed (d : Dev) : Nat :=
  ((d.ck.kept ++ d.ck.pends).map fun c => 2 ^ 20 + 256 * c.tram.length + 4096 * c.pages.length).foldl (· + ·) 0

/-- A full area whose next drop would be the pin closes the gate until the rebuild completes (R257). -/
def pinBlocks (d : Dev) : Bool :=
  let size := getF d CKP_AREA_SIZE_GIB * 2 ^ 30
  size != 0 && pinOldest d && decide (d.ck.kept.length ≤ 2) && decide (size < areaUsed d)

/-- CKP_AREA.FILL, the request at three quarters, and the drops when the area is full (R172). -/
def syncArea (d : Dev) : Dev :=
  let size := getF d CKP_AREA_SIZE_GIB * 2 ^ 30
  if size == 0 then d
  else
    let d := setF d CKP_AREA_FILL (min 100 (areaUsed d * 100 / size))
    let d := if size * 3 / 4 < areaUsed d && d.ck.pends.isEmpty then askCheckpoint d else d
    if areaUsed d ≤ size then d
    else if pinOldest d && d.ck.kept.length ≤ 2 then d
    else if 2 ≤ d.ck.kept.length then giveUp d
    else raise 0x0E 0 d

end Sys2Proof.Machine
end

