-- ==== Sys2Proof/Machine/Queue.lean ====
section
/-! DEFINITION. Rings, entries, publishing, releasing and notification (R184-R202), as operations the commands share. -/

namespace Sys2Proof.Machine

/-- Send a partition-addressed flit; a partition no position holds is a misdelivered flit (R115, R117). -/
def sendPart (ty sub part body : Nat) (d : Dev) : Dev :=
  match pmap d part with
  | some pos => sendFlit pos (mkFlit d ty sub part false body) d
  | none => linkFault 0x15 0 ty part d

/-- The key of an agent in per-agent stores: core n, port 32 + n, the debug port 64, the executor 65 (R7). -/
def agentKey : Agent → Nat
  | .core n => n.toNat
  | .port n => 32 + n.toNat
  | .dap => 64
  | .executor => 65

/-- The bytes of one slot (R184). -/
def slotBytes (q : QDesc) : Nat := 2 ^ (q.slotLog + 5)

/-- An entry's capacity in bytes (R187). -/
def capacity (q : QDesc) : Nat := slotBytes q - 16

/-- The slots of a ring. -/
def slots (q : QDesc) : Nat := 2 ^ q.countLog

/-- The HBM address of entry `i`'s slot (R187). -/
def slotAddr (q : QDesc) (i : Nat) : Nat := q.base + i % slots q * slotBytes q

/-- Released entries of a queue that wait for a slot (R193). -/
def backlogOf (d : Dev) (q : Nat) : Nat := (d.qu.backlog.filter fun e => e.q == q).length

/-- NOROOM of a from-design queue (R191). -/
def noRoom (d : Dev) (q : Nat) : Bool :=
  let c := qdesc d q
  decide (slots c ≤ (c.prod - c.cons) + backlogOf d q)

/-- The 32 bytes of a descriptor (R184). -/
def descBytes (q : QDesc) : List Byte :=
  bytesOf 8 q.base ++
  bytesOf 4 (b2n q.bound + b2n q.fromDesign * 2 + b2n q.blocking * 4 + b2n q.notify * 8 + q.slotLog * 2 ^ 4 +
    q.countLog * 2 ^ 8 + q.owner * 2 ^ 12 + q.vector * 2 ^ 18 + b2n q.relay * 2 ^ 24) ++
  bytesOf 4 (q.homeQ + q.homePart * 2 ^ 13) ++ bytesOf 8 q.prod ++ bytesOf 8 q.cons

/-- Replace a descriptor and its mirror (R185). -/
def setDesc (q : Nat) (x : QDesc) (s : State) : State :=
  putMem (s.dev.qu.dtab + 32 * q) (descBytes x)
    (onDev (fun d => { d with qu := { d.qu with desc := sset desc0 d.qu.desc q x } }) s)

/-- A relay descriptor of the manager (R198). -/
def rdesc (d : Dev) (r : Nat) : QDesc := sget desc0 d.qu.rdesc r

/-- Replace a relay descriptor and its mirror. -/
def setRdesc (r : Nat) (x : QDesc) (s : State) : State :=
  putMem (s.dev.qu.rtab + 32 * r) (descBytes x)
    (onDev (fun d => { d with qu := { d.qu with rdesc := sset desc0 d.qu.rdesc r x } }) s)

/-- The relay number of a home queue. -/
def relayOf (d : Dev) (part q : Nat) : Option Nat :=
  (d.qu.rdesc.find? fun e => e.2.homePart == part && e.2.homeQ == q).map (·.1)

/-- Set a queue's changed bit and signal its owner when it goes from 0 to 1 (R196). A guide core's queue source follows the
bits as a level. -/
def notifyQueue (relay : Bool) (q : Nat) (x : QDesc) (d : Dev) : Dev :=
  let f := bitFld (if relay then QUE_RPEND (q / 32) else QUE_PEND (q / 32)) (q % 32)
  if flag d f then d
  else
    let d := setFlag d f true
    if x.notify && 32 ≤ x.owner && x.owner ≤ 35 then sendMsix (x.owner - 32) x.vector d else d

/-- Whether a queue is driven over the relay by a host on the manager's port (R198). -/
def relayed (x : QDesc) : Bool := decide (40 ≤ x.owner) && decide (x.owner ≤ 43)

/-- A QUEUE flit toward the manager (R199). -/
def queueToMgr (sub q chunk : Nat) (last : Bool) (index data : Nat) (d : Dev) : Dev :=
  sendMgr 0x30 sub (at8 8 (q + chunk * 2 ^ 13 + b2n last * 2 ^ 25) + at8 12 (index % 2 ^ 64) + at8 20 data) d

/-- A QUEUE flit toward a home device (R199). -/
def queueToHome (sub part q chunk : Nat) (last : Bool) (index data : Nat) (d : Dev) : Dev :=
  sendPart 0x30 sub part (at8 8 (q + chunk * 2 ^ 13 + b2n last * 2 ^ 25) + at8 12 (index % 2 ^ 64) + at8 20 data) d

/-- The 16-byte chunks of an entry's slot (R199). -/
def entryChunks (m : Mem) (x : QDesc) (i : Nat) : List (List Byte) :=
  let a := slotAddr x i
  let len := u32 (hbmBytes m a 4) 0
  chunksOf 16 (hbmBytes m a ((16 + len + 15) / 16 * 16))

/-- Send an entry's chunks, home to manager. -/
def sendEntryMgr (q : Nat) (x : QDesc) (i : Nat) (s : State) : State :=
  let cs := entryChunks s.mem x i
  onDev (each cs.zipIdx fun c d => queueToMgr 0 q c.2 (c.2 + 1 == cs.length) i (natOf c.1) d) s

/-- A closed entry's slot bytes (R187). -/
def heldSlot (e : HeldEntry) : List Byte :=
  bytesOf 8 (4 * e.data.length + b2n e.trunc * 2 ^ 32) ++ bytesOf 8 e.index ++ e.data.flatMap fun w => bytesOf 4 w.toNat

/-- Write a released entry into slot PROD and count it (R193); a relayed entry is sent on (R198). -/
def writeSlot (e : HeldEntry) (s : State) : State :=
  let x := qdesc s.dev e.q
  let s := putMem (slotAddr x x.prod) (heldSlot e) s
  let s := setDesc e.q { x with prod := x.prod + 1 } s
  let s := onDev (notifyQueue false e.q x) s
  if relayed x then sendEntryMgr e.q x x.prod s else s

/-- Occupancy of the hold area in bytes (R191). -/
def holdUsed (d : Dev) : Nat :=
  ((d.qu.held ++ d.qu.backlog).map fun e => 16 + 4 * e.data.length).foldl (· + ·) 0 +
    (d.fab.ep.map fun e => 4 * e.2.words.length).foldl (· + ·) 0

/-- QUE_HOLD.FILL in percent; past three quarters, with no checkpoint under way, the device asks for one (R192). -/
def syncHold (d : Dev) : Dev :=
  let size := getF d QUE_HOLD_SIZE_MIB * 2 ^ 20
  if size == 0 then d
  else
    let d := setF d QUE_HOLD_FILL (min 100 (holdUsed d * 100 / size))
    whenB (decide (size * 3 < holdUsed d * 4) && !d.ck.requesting && d.ck.pends.isEmpty) askCheckpoint d

/-- Whether the hold area has room for `n` more bytes (R192). -/
def holdRoom (d : Dev) (n : Nat) : Bool :=
  let size := getF d QUE_HOLD_SIZE_MIB * 2 ^ 20
  size == 0 || decide (holdUsed d + n ≤ size)

/-- Release a closed entry: to its slot when one is free and no earlier entry waits, else into BACKLOG (R193). Where the
party has a spare, its ENTRY record is mirrored for an adoption (R254). -/
def releaseEntry (e : HeldEntry) (s : State) : State :=
  let data := e.data.flatMap fun w => bytesOf 4 w.toNat
  let s := if (streamSpare s.dev).isSome then
      onDev (journalPut (openInterval s.dev e.trav) (entryRec e.q e.index data)) s else s
  let x := qdesc s.dev e.q
  if backlogOf s.dev e.q == 0 && decide (x.prod - x.cons < slots x) then writeSlot e s
  else onDev (fun d => { d with qu := { d.qu with backlog := d.qu.backlog ++ [e] } }) s

/-- Move waiting entries of a queue into free slots, at most `n`. -/
def drainBacklog (q : Nat) : Nat → State → State
  | 0, s => s
  | n + 1, s =>
    let x := qdesc s.dev q
    if decide (x.prod - x.cons < slots x) then
      match takeFirst (fun e : HeldEntry => e.q == q) s.dev.qu.backlog with
      | some (e, rest) =>
        drainBacklog q n (writeSlot e (onDev (fun d => { d with qu := { d.qu with backlog := rest } }) s))
      | none => s
    else s

/-- CONS of a to-design queue passes an acknowledged entry (R195); the owner is signalled, and a relayed
queue's manager by CONS. -/
def advanceCons (q : Nat) (s : State) : State :=
  let x := qdesc s.dev q
  let x' := { x with cons := x.cons + 1 }
  let s := setDesc q x' s
  let s := onDev (notifyQueue false q x) s
  if relayed x then onDev (queueToMgr 2 q 0 false x'.cons 0) s else s

/-- Report a refused request to its source (QUE_ERR, R197). -/
def queueError (src : Agent) (relay publish : Bool) (q code : Nat) (d : Dev) : Dev :=
  let w := BitVec.ofNat 32 (q + code * 2 ^ 13 + b2n relay * 2 ^ 17 + b2n publish * 2 ^ 18)
  { d with qu := { d.qu with errs := sset (fun _ => 0#32) d.qu.errs (agentKey src) w } }

/-- The modes that accept queue requests (R196). -/
def queueMode (d : Dev) : Bool :=
  (mode d == 4 && !d.md.stranded) || mode d == 3 || mode d == 6 || mode d == 5

/-- The owner code of an agent (R184, R196); the debug port and the executor own no queue. -/
def ownerCode : Agent → Option Nat
  | .core n => some n.toNat
  | .port n => some (32 + n.toNat)
  | _ => none

/-- Whether a bridge port stands in the place of a queue's owner: an enabled capture port, or an enabled audio port with that
direction in use (R400, R431). -/
def bridged (d : Dev) (q : Nat) : Bool :=
  (List.range 4).any (fun p => flag d (VID_C_CFG_EN p) && getF d (VID_C_CFG_QUEUE p) == q) ||
    (List.range 2).any fun p => flag d (AUD_P_CFG_EN p) &&
      ((flag d (AUD_P_CFG_IN_EN p) && getF d (AUD_P_QUEUE_IN_QUEUE p) == q) ||
        (flag d (AUD_P_CFG_OUT_EN p) && getF d (AUD_P_QUEUE_OUT_QUEUE p) == q))

/-- The checks of R197 on a request as a whole; 0 when all pass. -/
def requestCode (d : Dev) (src : Agent) (relay publish : Bool) (q : Nat) : Nat :=
  let x := if relay then rdesc d q else qdesc d q
  let unbound := if relay then !isMgr d || decide (getF d QUE_RCOUNT_COUNT ≤ q) else !x.bound
  if !queueMode d then 8
  else if unbound then 2
  else if x.orphan || ownerCode src != some x.owner || (!relay && bridged d q) then 1
  else if x.fromDesign == publish then 3
  else if publish && d.qu.pubs.any fun p => p.relay == relay && p.q == q then 9
  else 0

/-- The entry checks of R194 and R197 on one slot header: its code, 0 to publish it, 10 to skip it. -/
def entryCode (x : QDesc) (number len hi index : Nat) : Nat :=
  if index < number then 10
  else if x.cons + slots x ≤ number then 4
  else if capacity x < len || hi != 0 then 5
  else if number < index then 6
  else 0

/-- The bytes of a to-design entry in its slot. -/
def slotData (m : Mem) (x : QDesc) (i : Nat) : List Byte :=
  let a := slotAddr x i
  hbmBytes m (a + 16) (u32 (hbmBytes m a 4) 0)

/-- Count a published entry: PROD + 1 and the mirror; a relayed queue answers PROD (R194, R198). -/
def countPublished (q : Nat) (s : State) : State :=
  let x := qdesc s.dev q
  let s := setDesc q { x with prod := x.prod + 1 } s
  if relayed x then onDev (queueToMgr 1 q 0 false (x.prod + 1) 0) s else s

/-- Go on with a publish of this device's own queue, at most `n` steps (R176, R194). Answers what is left of it. -/
def stepPublish : Nat → Publish → State → Option Publish × State
  | 0, p, s => (some p, s)
  | n + 1, p, s =>
    let x := qdesc s.dev p.q
    if p.wrote then
      if (streamSpare s.dev).isNone || p.waitOff ≤ s.dev.jr.acked then
        stepPublish n { p with wrote := false, first := p.first + 1, left := p.left - 1 } (countPublished p.q s)
      else (some p, s)
    else if p.left == 0 then (none, s)
    else
      let s := onDev (engineCheck (wordAddrs (slotAddr x p.first) (slotBytes x))) s
      let h := hbmBytes s.mem (slotAddr x p.first) 16
      let code := entryCode x x.prod (u32 h 0) (u32 h 4) (u64 h 8)
      if code == 10 then stepPublish n { p with first := p.first + 1, left := p.left - 1 } s
      else if code != 0 then
        let s := if relayed x then onDev (queueToMgr 3 p.q 0 false (u64 h 8) code) s else s
        (none, onDev (queueError p.src false true p.q code) s)
      else
        let r := entryRec p.q x.prod (slotData s.mem x p.first)
        if journalRoom s.dev r.length then
          let s := onDev (journalPut (openInterval s.dev (trvCount s.dev)) r) s
          stepPublish n { p with wrote := true, waitOff := s.dev.jr.wr } s
        else (some p, s)

/-- Go on with every publish that waits. -/
def progressPubs (s : State) : State :=
  let ps := s.dev.qu.pubs.filter fun p => !p.relay
  let s0 := onDev (fun d => { d with qu := { d.qu with pubs := d.qu.pubs.filter (·.relay) } }) s
  each ps (fun p s =>
    match stepPublish (2 * p.left + 3) p s with
    | (some p', s) => onDev (fun d => { d with qu := { d.qu with pubs := d.qu.pubs ++ [p'] } }) s
    | (none, s) => s) s0

/-- Start a publish of `n` entries (R194). -/
def startPublish (src : Agent) (q n : Nat) (s : State) : State :=
  progressPubs (onDev (fun d => { d with qu := { d.qu with pubs := d.qu.pubs ++
    [⟨false, q, src, (qdesc d q).prod, n, 0, false⟩] } }) s)

/-- The manager examines the slots of a relay publish and sends each entry that passes to its home (R194, R198). A skipped
slot does not advance the number. Answers how many entries it sent. -/
def sendRelayEntries (r : Nat) (src : Agent) : Nat → Nat → Nat → State → Nat × State
  | 0, _, _, s => (0, s)
  | n + 1, slot, number, s =>
    let x := rdesc s.dev r
    let s := onDev (engineCheck (wordAddrs (slotAddr x slot) (slotBytes x))) s
    let h := hbmBytes s.mem (slotAddr x slot) 16
    let code := entryCode x number (u32 h 0) (u32 h 4) (u64 h 8)
    if code == 10 then sendRelayEntries r src n (slot + 1) number s
    else if code != 0 then (0, onDev (queueError src true true r code) s)
    else
      let cs := entryChunks s.mem x slot
      let s := onDev (each cs.zipIdx fun c d =>
        queueToHome 0 x.homePart x.homeQ c.2 (c.2 + 1 == cs.length) number (natOf c.1) d) s
      let (m, s) := sendRelayEntries r src n (slot + 1) (number + 1) s
      (m + 1, s)

/-- Release slots of a from-design queue: CONS advances by the count, waiting entries move in (R193). -/
def releaseSlots (q n : Nat) (s : State) : State :=
  let x := qdesc s.dev q
  let s := setDesc q { x with cons := x.cons + n } s
  onDev syncHold (drainBacklog q s.dev.qu.backlog.length s)

/-- The words of to-design entry `i` as the design reads it: from the slot, or in a re-execution from its ENTRY record
(R178, R188). -/
def entryBytes (s : State) (q i : Nat) : List Byte :=
  let live := slotData s.mem (qdesc s.dev q) i
  if s.dev.jr.reading then
    match s.dev.jr.recs.find? fun r => r.words.headD 0 |>.toNat |> fun w => w % 4 == 2 && w / 4 % 8192 == q &&
        (r.words.getD 1 0).toNat == i with
    | some r => (r.words.drop 2).flatMap (fun w => bytesOf 8 w.toNat) |>.take ((r.words.headD 0).toNat / 2 ^ 32)
    | none => live
  else live

end Sys2Proof.Machine
end

