-- ==== Sys2Proof/Machine/Region.lean ====
section
/-! DEFINITION. HBM as ports, hosts, guide cores and engines reach it (R133-R149, R182, R218, R461). -/

namespace Sys2Proof.Machine

/-- Whether a region page of an adopted partition is still to be rebuilt (R256, R258). -/
def unbuilt (d : Dev) (page : Nat) : Bool :=
  decide (page < d.par.pageEnd) && !sget (fun _ => false) d.par.rebuilt page

/-- Put cells back over a page. -/
def putPage (page : Nat) (cells : List Host.Cell) (m : Mem) : Mem :=
  cells.foldl (fun m c => hbmSet m (4096 * page + c.1) c.2) (sclear m (4096 * page) 4096)

/-- A save page marked for restore no longer waits. -/
def restored (page : Nat) (d : Dev) : Dev :=
  let left := d.ck.restore.filter (· != page)
  setFlag { d with ck := { d.ck with restore := left } } CKP_STATUS_RESTORING (!left.isEmpty)

/-- Restore one save page marked for restore (R182): from its save, or, where that has an uncorrectable error, word by word from parity
(R146). -/
def restorePage (page : Nat) (s : State) : State :=
  if s.dev.ck.restore.contains page then
    match copyBad s.dev with
    | some a =>
      let d := hbmFaultQuiet a (restored page { s.dev with free := s.dev.free + 1 })
      { s with dev := each (wordAddrs (4096 * page) 4096) awaitRebuild d }
    | none =>
      { s with mem := putPage page (pageAt s.dev s.mem s.dev.ck.restoreK page) s.mem
               dev := restored page (eccWritten (4096 * page) 4096 (unreserve none (4096 * page) 4096 s.dev)) }
  else s

/-- A word with kept bytes of the old one (R139 KEEP). -/
def mergeKeep (old new : DWord) (keep : BitVec 8) : DWord :=
  let ob := bytesOf 8 old.toNat
  let nb := bytesOf 8 new.toNat
  BitVec.ofNat 64 (natOf ((List.range 8).map fun i => if keep.getLsbD i then ob.getD i 0 else nb.getD i 0))

/-- The access of a port that is outstanding, when no earlier one of its tile to the same memory stands before it (R57,
R143). -/
def readyAccess : List Access → Nat → Option Access
  | [], _ => none
  | a :: r, port =>
    if a.port == port then (if a.failed then none else some a)
    else (readyAccess r port).bind fun b => if a.port / 4 == port / 4 && a.tram == b.tram then none else some b

/-- An access completes: it is no longer outstanding, and a read's word stands in the return bits (R141). -/
def finishAccess (a : Access) (data : DWord) (d : Dev) : Dev :=
  let d := { d with fab := { d.fab with acc := d.fab.acc.filter fun x => x.port != a.port } }
  if a.write then d else { d with fab := { d.fab with pret := sset (fun _ => 0#64) d.fab.pret a.port data } }

/-- An access met an uncorrectable word: it has no data, and it stays outstanding until the rollback takes it away (R61,
R146). -/
def failAccess (a : Access) (d : Dev) : Dev :=
  { d with fab := { d.fab with acc := d.fab.acc.map fun x => if x.port == a.port then { x with failed := true } else x } }

/-- Whether a tile-RAM block has been saved in the interval of a write at count `c` (R157). -/
def blockSaved (blk c : Nat) (d : Dev) : Bool :=
  match (d.ck.pends.filter fun x => decide (x.k ≤ c)).reverse with
  | x :: _ => x.tram.any fun e => e.1 == blk
  | [] =>
    match d.ck.kept with
    | x :: _ => x.tram.any fun e => e.1 == blk
    | [] => true

/-- Whether a region page has been saved in the interval of a write at count `c` (R157). -/
def pageSaved (page c : Nat) (d : Dev) : Bool :=
  match (d.ck.pends.filter fun x => decide (x.k ≤ c)).reverse with
  | x :: _ => x.pages.any fun e => e.1 == page
  | [] =>
    match d.ck.kept with
    | x :: _ => x.pages.any fun e => e.1 == page
    | [] => true

/-- What a page about to be saved holds that its save must wait for or cannot read (R145, R461): a word that waits for its rebuild, or an
uncorrectable one, not yet reported. -/
inductive SaveCheck where
  | ok
  | waits (a : Nat)
  | bad (a : Nat)
deriving DecidableEq, Repr

/-- Check every word of a page that a write at count `c` is to save (R145, R157, R461). -/
def checkPage (page c : Nat) (d : Dev) : SaveCheck × Dev :=
  if pageSaved page c d then (.ok, d)
  else match d.tv.waitWords.find? fun w => w / 512 == page with
    | some w => (.waits (8 * w), d)
    | none =>
      if d.ecc.isEmpty then (.ok, d)
      else (wordAddrs (4096 * page) 4096).foldl (fun r a =>
        match r.1 with
        | .ok => let x := checkHbm a r.2; (if x.1 == 2 then .bad a else .ok, x.2)
        | _ => r) (.ok, d)

/-- Check every word of a tile-RAM block that is about to be saved (R61). -/
def checkBlock (blk trav : Nat) (d : Dev) : Bool × Dev :=
  (List.range 32).foldl (fun r i => let x := readFabric 5 (32 * blk + i) trav r.2; (r.1 || x.1, x.2)) (false, d)

/-- A tile-RAM access acts (R56-R58, R61, R157). -/
def tramAccess (a : Access) (d : Dev) : Dev :=
  let t := a.port / 4
  let i := 8192 * t + a.word % 8192
  let blk := i / 32
  let old := sget (fun _ => 0#64) d.fab.tram i
  if a.write then
    let r := if a.keep == 0 then (false, d) else readFabric 5 i a.trav d
    let saving := mode r.2 != 5 && !blockSaved blk (tileOf r.2 t).count r.2
    let r2 := if saving then checkBlock blk a.trav r.2 else (false, r.2)
    if r.1 || r2.1 then failAccess a r2.2
    else
      let d := if saving then saveBlock blk (tileOf r2.2 t).count r2.2 else r2.2
      let d := eccClear (eccKey 5 i) d
      finishAccess a 0 { d with fab := { d.fab with
        tram := sset (fun _ => 0#64) d.fab.tram i (mergeKeep old a.data a.keep)
        written := sset (fun _ => false) d.fab.written blk true } }
  else
    let r := readFabric 5 i a.trav d
    if r.1 then failAccess a r.2 else finishAccess a (sget (fun _ => 0#64) r.2.fab.tram i) r.2

/-- A range fault (R142). -/
def rangeFault (a : Access) (d : Dev) : Dev :=
  let d := countF (setF (setF d MEM_RANGE_PORT a.port) MEM_RANGE_WRITE (b2n a.write)) MEM_RANGE_COUNT 1
  raiseAt 0x0A (a.port + b2n a.write * 2 ^ 10) a.trav false (finishAccess a 0 d)

/-- The size of the replay area in bytes. -/
def replayArea (d : Dev) : Nat := getF d VIS_RPL_AREA_SIZE_GIB * 2 ^ 30

/-- The `i`-th overlay page, counted downward from the top of the replay area (R220), as a page of HBM. -/
def overlayPage (d : Dev) (i : Nat) : Nat := (areaBase d 4 + replayArea d) / 4096 - 1 - i

/-- The HBM page of the overlay that stands for a region page, if one does (R218). -/
def overlayOf (d : Dev) (page : Nat) : Option Nat :=
  (d.vs.overlay.zipIdx.find? fun e => e.1 == page).map fun e => overlayPage d e.2

/-- Where a replay's access finds a region word in HBM: in the overlay page, in the region where no checkpoint from K on has saved its page,
else in a save (R218). -/
def replayAddr (d : Dev) (a : Nat) : Option Nat :=
  match overlayOf d (a / 4096) with
  | some p => some (4096 * p + a % 4096)
  | none => if (fromK d d.vs.rplK).any fun c => c.pages.any fun e => e.1 == a / 4096 then none else some a

/-- A replay's word: the overlay's where one stands, else the region's as at K (R218). -/
def replayWord (s : State) (a : Nat) : DWord :=
  match overlayOf s.dev (a / 4096) with
  | some p => hbmWord s.mem (4096 * p + a % 4096 / 8 * 8)
  | none => regionAt s.dev s.mem s.dev.vs.rplK a

/-- Bytes of the replay area in use: the tile-RAM copy, the records and the overlay pages (R220). -/
def replayUsed (d : Dev) : Nat :=
  2 ^ 24 + (getR d VIS_RPL_RECORDS).toNat * getF d VIS_RPL_RECLEN_BYTES + d.vs.overlay.length * 4096

/-- Allocate the overlay page of a region page, with the region's bytes as at K (R218); where records and overlay would meet, the replay ends
with ERR 5, SPACE, instead (R220). -/
def openOverlay (page : Nat) (s : State) : State :=
  let d := { s.dev with vs := { s.dev.vs with overlay := s.dev.vs.overlay ++ [page] } }
  if replayArea d < replayUsed d then onDev (endReplay 5) s
  else
    let p := overlayPage d s.dev.vs.overlay.length
    { s with mem := putPage p (pageAt s.dev s.mem s.dev.vs.rplK page) s.mem
             dev := eccWritten (4096 * p) 4096 (unreserve none (4096 * p) 4096 d) }

/-- The first of the words at the addresses given with an uncorrectable error, the single errors before it corrected. -/
def firstBad (as : List Nat) (d : Dev) : Option Nat × Dev :=
  if d.ecc.isEmpty then (none, d)
  else as.foldl (fun r a =>
    match r.1 with
    | some _ => r
    | none => let x := checkHbm a r.2; (if x.1 == 2 then some a else none, x.2)) (none, d)

/-- What a replay's access reads of HBM: its word, and, for a write that opens an overlay page, the whole page. -/
def replayReads (acc : Access) (a : Nat) (d : Dev) : List Nat :=
  let opens := acc.write && (overlayOf d (a / 4096)).isNone
  let as := if opens then wordAddrs (a / 4096 * 4096) 4096 else if acc.write && acc.keep == 0 then [] else [a]
  as.filterMap (replayAddr d)

/-- An HBM access of a port in a replay acts (R145, R146, R218, R220): nothing in the region changes. -/
def replayAccess (acc : Access) (a : Nat) (s : State) : State :=
  match firstBad (replayReads acc a s.dev) s.dev with
  | (some b, d) =>
    let fix := decide (b < regionBytes d) && canRebuild d
    let d := hbmFault b acc.trav d
    { s with dev := if fix then awaitRebuild b d else failAccess acc d }
  | (none, d) =>
    let s := { s with dev := d }
    let old := replayWord s a
    if !acc.write then onDev (finishAccess acc old) s
    else
      let s := if (overlayOf d (a / 4096)).isSome then s else openOverlay (a / 4096) s
      match overlayOf s.dev (a / 4096) with
      | some p => putWord (4096 * p + a % 4096) (mergeKeep old acc.data acc.keep) (onDev (finishAccess acc 0) s)
      | none => s

/-- An HBM access of a port acts (R136, R142-R146, R157, R258). -/
def hbmAccess (acc : Access) (s : State) : State :=
  let t := acc.port / 4
  let size := sget zeroAt s.dev.fab.winSize t
  let a := sget zeroAt s.dev.fab.winBase t * 65536 + 8 * acc.word
  if size * 8192 ≤ acc.word then onDev (rangeFault acc) s
  else if s.dev.tv.waitWords.contains (a / 8) then s
  else if unbuilt s.dev (a / 4096) then onDev (sendRebuildReq (a / 4096 * 4096) false) s
  else if mode s.dev == 5 then replayAccess acc a s
  else
    let s := restorePage (a / 4096) s
    let old := hbmWord s.mem a
    let reads := !acc.write || isProtected s.dev || acc.keep != 0
    let (st, d) := if reads then checkHbm a s.dev else (0, s.dev)
    let lost := fun (b : Nat) (d : Dev) =>
      let fix := canRebuild d
      let d := hbmFault b acc.trav d
      if fix then awaitRebuild b d else failAccess acc d
    if st == 2 then { s with dev := lost a d }
    else if acc.write then
      match checkPage (a / 4096) (tileOf d t).count d with
      | (.waits _, d) => { s with dev := d }
      | (.bad b, d) => { s with dev := lost b d }
      | (.ok, d) =>
        let new := mergeKeep old acc.data acc.keep
        let d := savePage s.mem (a / 4096) (tileOf d t).count d
        let d := queueDelta (openInterval d acc.trav) a (old ^^^ new) d
        putWord a new { s with dev := syncArea (finishAccess acc 0 d) }
    else { s with dev := finishAccess acc old d }

/-- The outcome of a read of HBM by anything but a port: data, a wait for a rebuild, or no data at an address. -/
inductive Got where
  | data (bs : List Byte)
  | wait
  | fault (a : Nat)
deriving DecidableEq, Repr

/-- Make the words of a range readable one by one (R461): restore marked pages, correct single errors, report
uncorrectable ones. -/
def readWords : List Nat → State → Option Got × State
  | [], s => (none, s)
  | a :: r, s =>
    let region := decide (a < regionBytes s.dev)
    if region && s.dev.tv.waitWords.contains (a / 8) then (some .wait, s)
    else if region && unbuilt s.dev (a / 4096) then
      (some .wait, onDev (sendRebuildReq (a / 4096 * 4096) false) s)
    else
      let s := if region then restorePage (a / 4096) s else s
      let (st, d) := checkHbm a s.dev
      if st == 2 then
        let fix := region && canRebuild d
        let d := if fix then hbmFaultQuiet a d else hbmFault a (trvCount d) d
        if mode d == 0 || mode d == 1 then
          readWords r (putWord (a / 8 * 8) 0 { s with dev := d })
        else if fix then (some .wait, { s with dev := awaitRebuild a d })
        else (some (.fault a), { s with dev := d })
      else readWords r { s with dev := d }

/-- The region as R149 gives hosts and guide cores access to it. In BOOT and STANDBY, where no image is held, it is that of the last image
(DESIGN CHOICE, row 111). -/
def hostRegion (d : Dev) : Nat := if mode d == 0 || mode d == 1 then d.hs.region * 2 ^ 30 else regionBytes d

/-- A read of HBM by a host, a guide core, DMA, Float or the debug port (R149, R461): of the region in BOOT and STANDBY it returns 0. Bytes
beyond HBM read as 0. -/
def hbmRead (a n : Nat) (s : State) : Got × State :=
  let z := if mode s.dev == 0 || mode s.dev == 1 then min n (hostRegion s.dev - a) else 0
  match readWords ((wordAddrs (a + z) (n - z)).filter (· < hbmSize)) s with
  | (some g, s) => (g, s)
  | (none, s) => (.data (List.replicate z 0#8 ++ hbmBytes s.mem (a + z) (n - z)), s)

/-- Whether the mode lets hosts and guide cores write the region (R149). -/
def regionWritable (d : Dev) : Bool := mode d == 4 && !d.md.stranded

/-- Eight bytes of a word at `base` with those of a write at `a` laid over them. -/
def overlayBytes (m : Mem) (base a : Nat) (bs : List Byte) : List Byte :=
  (List.range 8).map fun j =>
    if a ≤ base + j ∧ base + j < a + bs.length then bs.getD (base + j - a) 0 else hbmByte m (base + j)

/-- A write waits for the rebuild of the word at `w` (R461). -/
def keepWrite (w base a : Nat) (bs : List Byte) (d : Dev) : Dev :=
  { d with tv := { d.tv with waitWrites := d.tv.waitWrites ++ [(w, base, a, bs)] } }

/-- A write in FREEZE meets an uncorrectable word (R461): it waits for the rebuild, or it is discarded and counted. -/
def writeMeets (w base a : Nat) (bs : List Byte) (d : Dev) : Dev :=
  if canRebuild d then keepWrite w base a bs (awaitRebuild w (hbmFaultQuiet w d))
  else countF (hbmFault w (trvCount d) d) MEM_HOSTWR_DROPPED 1

/-- One region word of a write in FREEZE (R149, R157, R161, R461). -/
def writeRegionWord (base a : Nat) (bs : List Byte) (s : State) : State :=
  let s := restorePage (base / 4096) s
  let partly := !(decide (a ≤ base) && decide (base + 8 ≤ a + bs.length))
  let reads := isProtected s.dev || partly
  let (st, d) := if reads then checkHbm base s.dev else (0, s.dev)
  if st == 2 then { s with dev := writeMeets base base a bs d }
  else match checkPage (base / 4096) (trvCount d) d with
  | (.waits w, d) => { s with dev := keepWrite w base a bs d }
  | (.bad w, d) => { s with dev := writeMeets w base a bs d }
  | (.ok, d) =>
    let old := hbmWord s.mem base
    let new := BitVec.ofNat 64 (natOf (overlayBytes s.mem base a bs))
    let d := savePage s.mem (base / 4096) (trvCount d) d
    let d := queueDelta (nextSeq d.ck.lastSeq) base (old ^^^ new) d
    putWord base new { s with dev := setFlag d CKP_STATUS_EDITED true }

/-- A write of HBM by a host or guide core: in the region by the mode's rule, elsewhere applied (R149, R276). -/
def hbmWrite (a : Nat) (bs : List Byte) (s : State) : State :=
  let z := min bs.length (hostRegion s.dev - a)
  let s := if z == 0 then s
    else if regionWritable s.dev then
      each (wordAddrs a z) (fun w s =>
        if s.dev.tv.waitWords.contains (w / 8) then onDev (keepWrite w w a (bs.take z)) s else writeRegionWord w a (bs.take z) s) s
    else onDev (fun d => countF d MEM_HOSTWR_DROPPED 1) s
  let rest := (bs.drop z).take (hbmSize - (a + z))
  if rest.isEmpty then s else putMem (a + z) rest s

/-- A host read through BAR2 (R149, R276, R461): the completion carries the bytes; one that meets a word being rebuilt waits for it, one
that meets an error that cannot be rebuilt ends in a bus error. -/
def bar2Get (p a n : Nat) (s : State) : State :=
  match hbmRead a n s with
  | (.data bs, s) => onDev (emit (.readData p bs)) s
  | (.wait, s) => onDev (fun d => { d with hs := { d.hs with bar2 := d.hs.bar2 ++ [(p, a, n)] } }) s
  | (.fault _, s) => onDev (emit (.busError p)) s

/-- The BAR2 reads that waited and whose words are rebuilt are completed (R461). -/
def retryReads (s : State) : State :=
  let ready := fun r : Nat × Nat × Nat => (wordAddrs r.2.1 r.2.2).all fun w =>
    !s.dev.tv.waitWords.contains (w / 8) && !(decide (w < regionBytes s.dev) && unbuilt s.dev (w / 4096))
  each (s.dev.hs.bar2.filter ready) (fun r s => bar2Get r.1 r.2.1 r.2.2 s)
    (onDev (fun d => { d with hs := { d.hs with bar2 := d.hs.bar2.filter fun r => !ready r } }) s)

end Sys2Proof.Machine
end

