-- ==== Sys2Proof/Machine/Tiles.lean ====
section
/-! DEFINITION. What a tile does in a traverse: operands, results, waits, effects and sends, and its beginning and end
(R34-R57, R66-R72, R140, R141, R154, R174-R178, R189-R192). -/

namespace Sys2Proof.Machine

/-- A step word the image does not name: IDLE (R41). -/
def idleWord (_ : Nat) : BitVec 80 := 7#80

/-- An empty 64-bit group. -/
def zero64 (_ : Nat) : DWord := 0#64

/-- An unset bit. -/
def noBit (_ : Nat) : Bool := false

/-- An empty slot bank. -/
def noSlot (_ : Nat) : Option Bool := none

/-- Bits [hi:lo] of a step word. -/
def stepBits (w : BitVec 80) (hi lo : Nat) : Nat := bitsOf w.toNat hi lo

/-- KIND of a step word (R37). -/
def kindOf (w : BitVec 80) : Nat := stepBits w 3 0

/-- OUTX of a step word. -/
def outxOf (w : BitVec 80) : Nat := stepBits w 5 4

/-- DST of a step word. -/
def dstOf (w : BitVec 80) : Nat := stepBits w 15 6

/-- Whether DST of a step word has a bit set that must be 0, or a WAIT selects the reserved condition (R63 code 3). -/
def dstBad (w : BitVec 80) : Bool :=
  let k := kindOf w
  let dst := dstOf w
  (k == 1 && dst / 64 != 0) || (k == 4 && dst % 8 != 0) || (k == 5 && dst / 256 != 0) ||
  (k == 6 && (dst / 256 == 3 || (dst / 256 == 0 && dst / 16 % 16 != 0) || (dst / 256 == 1 && dst / 32 % 8 != 0) ||
    (dst / 256 == 2 && dst % 256 != 0)))

/-- Whether an MPORT step names a reserved register bit (R138 code 11). -/
def mportBad (w : BitVec 80) : Bool :=
  let r := dstOf w / 64 % 4
  let b := dstOf w % 64
  kindOf w == 2 && ((r == 0 && decide (37 ≤ b)) || (r == 2 && decide (10 ≤ b)) || (r == 3 && decide (1 ≤ b)))

/-- The four operand selectors, A first. -/
def selectors (w : BitVec 80) : List Nat := [stepBits w 63 52, stepBits w 51 40, stepBits w 39 28, stepBits w 27 16]

/-- Result of a step from its truth table and operand values (R38). -/
def resultOf (w : BitVec 80) (a b c d : Bool) : Bool :=
  w.getLsbD (64 + 8 * b2n d + 4 * b2n c + 2 * b2n b + b2n a)

/-- The step word of evaluator `e` (device-wide number) at step `s`. -/
def stepAt (d : Dev) (e s : Nat) : BitVec 80 := sget idleWord d.fab.step (1024 * e + s)

/-- A step word that image checking would refuse for its KIND, DST or OUTX (R63 codes 1, 3, 4, R138 code 11). -/
def wordOpen (w : BitVec 80) : Bool :=
  decide (8 ≤ kindOf w) || dstBad w || mportBad w || (decide (6 ≤ kindOf w) && outxOf w != 0)

/-- The word evaluator `g` (device-wide number) executes at step `s`. With image checking off a word it would refuse executes with
unpredictable results (R65): as a word that is a free value. -/
def execWord (d : Dev) (g s : Nat) : BitVec 80 :=
  let w := stepAt d g s
  if wordOpen w then BitVec.ofNat 80 (Config.freeChoice (d.free + g % 512)) else w

/-- Whether a step reads operands: IDLE and WAIT steps read none (R41). -/
def readsOperands (k : Nat) : Bool := k != 6 && k != 7

/-- A read access of a port that is outstanding. -/
def readOutstanding (d : Dev) (port : Nat) : Bool := d.fab.acc.any fun a => a.port == port && !a.write

/-- An outstanding access of a port. -/
def outstanding (d : Dev) (port : Nat) : Bool := d.fab.acc.any fun a => a.port == port

/-- The value an operand selector names at evaluator `e` of tile `t` in traverse `trav` (R40); reserved selectors read the
free bit numbered `i`. -/
def operand (d : Dev) (t e trav sel i : Nat) : Bool :=
  let g := 512 * t + e
  if sel < 0x400 then (sget zero64 d.fab.lds (16 * g + sel / 64)).getLsbD (sel % 64)
  else if sel < 0x600 then sget noBit d.fab.bus (512 * t + (sel - 0x400))
  else if sel < 0x800 then (sget noSlot d.fab.slots (2 * (512 * t + (sel - 0x600)) + trav % 2)).getD false
  else if sel < 0x840 then (sget zero64 d.fab.q g).getLsbD (sel - 0x800)
  else if sel < 0x940 then (sget zero64 d.fab.pret (4 * t + (sel - 0x840) / 64)).getLsbD ((sel - 0x840) % 64)
  else if sel < 0x960 then (tileOf d t).lastPop.getLsbD (sel - 0x940)
  else if sel == 0x960 then (tileOf d t).popValid
  else if sel == 0x961 then (tileOf d t).qEmpty
  else if sel == 0xFFE then false
  else if sel == 0xFFF then true
  else Config.freeBit (d.free + i)

/-- Why an operand does not exist yet: the wait code and its detail (R40). -/
def operandWait (d : Dev) (t trav sel : Nat) : Option (Nat × Nat) :=
  if 0x600 ≤ sel ∧ sel < 0x800 then
    if (sget noSlot d.fab.slots (2 * (512 * t + (sel - 0x600)) + trav % 2)).isNone then some (1, sel - 0x600) else none
  else if 0x840 ≤ sel ∧ sel < 0x940 then
    let p := (sel - 0x840) / 64
    if readOutstanding d (4 * t + p) then some (2, p) else none
  else none

/-- The words of a to-design queue's current entry. -/
def entryWords (s : State) (q : Nat) : List Word :=
  let bs := entryBytes s q (epOf s.dev q).acked
  (chunksOf 4 bs).map fun c => BitVec.ofNat 32 (natOf c)

/-- Whether a to-design endpoint has a current entry (R189). -/
def hasEntry (d : Dev) (q : Nat) : Bool := decide ((epOf d q).acked < (qdesc d q).prod)

/-- The flag a QCTL step samples for an endpoint (R44, R191, R203): empty, or NOROOM. -/
def queueFlag (d : Dev) (q : Nat) : Bool :=
  let x := qdesc d q
  if !x.bound then true else if x.fromDesign then noRoom d q else !hasEntry d q

/-- Whether a WAIT QUEUE step proceeds (R190, R192, R203). -/
def queueProceeds (s : State) (q : Nat) : Bool :=
  let x := qdesc s.dev q
  if !x.bound then false
  else if x.fromDesign then !noRoom s.dev q
  else hasEntry s.dev q && decide ((epOf s.dev q).popped < (entryWords s q).length)

/-- Whether every tile of the device has begun traverse `trav` (R45). -/
def allBegun (d : Dev) (trav : Nat) : Bool :=
  (List.range 256).all fun u => let x := tileOf d u; decide (trav < x.count) || (x.inTrav && x.count == trav)

/-- The unmet condition of a WAIT step (R45); the reserved condition is open with image checking off (R65). -/
def waitStep (s : State) (t e trav dst : Nat) : Option (Nat × Nat) :=
  if dst / 256 == 0 then
    match (List.range 4).find? fun p => bitOf dst p && outstanding s.dev (4 * t + p) with
    | some p => some (3, p)
    | none => none
  else if dst / 256 == 1 then if queueProceeds s (32 * t + dst % 32) then none else some (4, dst % 32)
  else if dst / 256 == 2 then if allBegun s.dev trav then none else some (5, 0)
  else if Config.freeBit (s.dev.free + e) then none else some (5, 0)

/-- The first condition of R46 step 1 that step `st` of tile `t` still waits for. -/
def stepWaits (s : State) (t trav st : Nat) : Option (Nat × Nat) :=
  (List.range 512).findSome? fun e =>
    let w := execWord s.dev (512 * t + e) st
    let k := kindOf w
    if k == 6 then waitStep s t e trav (dstOf w)
    else if readsOperands k then (selectors w).findSome? (operandWait s.dev t trav) else none

/-- The result of every evaluator at a step (R46 steps 2 and 3). The result of a reserved kind, and of an IDLE or WAIT
step, is a free bit that image checking keeps from being used (R42, R65). -/
def results (d : Dev) (t trav st : Nat) : List Bool :=
  (List.range 512).map fun e =>
    let w := execWord d (512 * t + e) st
    if 6 ≤ kindOf w then Config.freeBit (d.free + 2048 + e)
    else
      let v := fun i => operand d t e trav ((selectors w).getD i 0) (4 * e + i)
      resultOf w (v 0) (v 1) (v 2) (v 3)

/-- The protected words a step reads: its step words, and the LDS, Q and slot words of its operands. -/
def stepReads (d : Dev) (t st : Nat) : List (Nat × Nat) :=
  (List.range 512).flatMap fun e =>
    let g := 512 * t + e
    let w := execWord d g st
    (0, 1024 * g + st) ::
      (if readsOperands (kindOf w) then
        (selectors w).filterMap fun sel =>
          if sel < 0x400 then some (1, 16 * g + sel / 64)
          else if 0x600 ≤ sel ∧ sel < 0x800 then some (4, 512 * t + (sel - 0x600))
          else if 0x800 ≤ sel ∧ sel < 0x840 then some (2, g)
          else none
       else [])

/-- Check the protected words a step reads (R60, R61). Answers whether one is uncorrectable: the step is then not
executed. -/
def checkStep (t st trav : Nat) (d : Dev) : Bool × Dev :=
  if d.ecc.isEmpty then (false, d)
  else (stepReads d t st).foldl (fun r w =>
    let x := if w.1 == 0 then readStep w.2 trav r.2 else readFabric w.1 w.2 trav r.2
    (r.1 || x.1, x.2)) (false, d)

/-- The QCTL steps of a step: evaluator, endpoint, action and result, in ascending evaluator order. -/
def qctls (d : Dev) (t st : Nat) (res : List Bool) : List (Nat × Nat × Nat × Bool) :=
  (List.range 512).filterMap fun e =>
    let w := execWord d (512 * t + e) st
    if kindOf w == 4 then some (e, dstOf w / 32, dstOf w / 8 % 4, res.getD e false) else none

/-- The endpoint of the first POP of a step that meets an empty BLOCKING queue, the ACKs of lower evaluators of the step applied
before it (R47, R189, R203); `acks` are the endpoints they name. -/
def emptyPop (d : Dev) (t : Nat) : List Nat → List (Nat × Nat × Nat × Bool) → Option Nat
  | _, [] => none
  | acks, q :: r =>
    let n := 32 * t + q.2.1
    let x := qdesc d n
    let left := decide ((epOf d n).acked + acks.count q.2.1 < x.prod)
    if !q.2.2.2 || !x.bound || x.fromDesign then emptyPop d t acks r
    else if q.2.2.1 == 2 && x.blocking && !left then some q.2.1
    else emptyPop d t (if q.2.2.1 == 3 && left then q.2.1 :: acks else acks) r

/-- The queue action waits of a step between computing and applying: a POP on an empty BLOCKING queue (R189), then room in
the hold area for its pushes (R192). -/
def queueWaits (d : Dev) (t : Nat) (qs : List (Nat × Nat × Nat × Bool)) : Option (Nat × Nat) :=
  match emptyPop d t [] qs with
  | some e => some (6, e)
  | none =>
    let ps := qs.filter fun q =>
      let x := qdesc d (32 * t + q.2.1)
      decide (q.2.2.1 < 2) && q.2.2.2 && x.bound && x.fromDesign &&
        decide ((epOf d (32 * t + q.2.1)).words.length < capacity x / 4)
    match ps with
    | [] => none
    | q :: _ => if holdRoom d (4 * ps.length) then none else some (13, q.2.1)

/-- A port register word after the MPORT results of a step (R43, R47). -/
def portReg (d : Dev) (t st : Nat) (res : List Bool) (p r : Nat) : DWord :=
  let k := 4 * (4 * t + p) + r
  (List.range 512).foldl (fun v e =>
    let w := execWord d (512 * t + e) st
    if kindOf w == 2 && dstOf w / 256 == p && dstOf w / 64 % 4 == r then
      let m := BitVec.ofNat 64 (2 ^ (dstOf w % 64))
      if res.getD e false then v ||| m else v &&& ~~~m
    else v) (sget zero64 d.fab.preg k)

/-- The ports whose GO bit the step leaves at 1 (R140). -/
def starting (d : Dev) (t st : Nat) (res : List Bool) : List Nat :=
  (List.range 4).filter fun p => (portReg d t st res p 3).getLsbD 0

/-- The waits of a step's port accesses between computing and applying (R141, R154). -/
def portWaits (d : Dev) (t st : Nat) (res : List Bool) : Option (Nat × Nat) :=
  let ps := starting d t st res
  match ps.find? fun p => outstanding d (4 * t + p) with
  | some p => some (11, p)
  | none =>
    let n := (ps.filter fun p => let c := (portReg d t st res p 2).toNat; !bitOf c 0 && bitOf c 1).length
    if (streamSpare d).isSome && mode d != 5 && decide (65536 < d.par.queue.length + n) then some (12, 0) else none

/-- Start the accesses of a step, in ascending port number; GO bits return to 0 (R140, R143). -/
def startAccesses (t st trav : Nat) (res : List Bool) (d : Dev) : Dev :=
  let d1 := each (List.range 4) (fun p d0 => each (List.range 4) (fun r d0 =>
    let v := portReg d t st res p r
    let v := if r == 3 then v &&& ~~~1#64 else v
    { d0 with fab := { d0.fab with preg := sset zero64 d0.fab.preg (4 * (4 * t + p) + r) v } }) d0) d
  each (starting d t st res) (fun p d0 =>
    let addr := (portReg d t st res p 0).toNat
    let ctrl := (portReg d t st res p 2).toNat
    { d0 with fab := { d0.fab with acc := d0.fab.acc ++ [{
        port := 4 * t + p
        tram := bitOf ctrl 0
        write := bitOf ctrl 1
        keep := BitVec.ofNat 8 (ctrl / 4)
        word := addr % 2 ^ 37
        data := portReg d t st res p 1
        trav := trav
        failed := false }] } }) d1

/-- What a tile reads in place of a live sample (R178): the live value, the record's value, or a record that does not
match. -/
inductive Sampled where
  | live
  | value (b : Bool)
  | mismatch
deriving DecidableEq, Repr

/-- Take the tile's next SAMPLE record (R178). Once a tile's records run out, RECOVER reads live values. -/
def takeSample (t st ep trav : Nat) (pop : Bool) (d : Dev) : Sampled × Dev :=
  if !d.jr.reading then (.live, d)
  else
    match takeFirst (fun r : JRec => let w := (r.words.headD 0).toNat; w % 4 == 1 && w / 16 % 256 == t) d.jr.rd with
    | none => (if mode d == 5 then .mismatch else .live, d)
    | some (r, rest) =>
      let w := r.words.headD 0
      let d := { d with jr := { d.jr with rd := rest } }
      if w == sampleRec t st ep trav pop true then (.value true, d)
      else if w == sampleRec t st ep trav pop false then (.value false, d)
      else (.mismatch, d)

/-- One sample of a step: its value, whether a record contradicted it, and whether a record must be appended. -/
def oneSample (t st ep trav : Nat) (pop live : Bool) (d : Dev) : (Bool × Bool × Bool) × Dev :=
  match takeSample t st ep trav pop d with
  | (.live, d) => ((live, false, mode d != 5), d)
  | (.value b, d) => ((b, false, false), d)
  | (.mismatch, d) => ((live, true, false), d)

/-- Replace a queue endpoint's state. -/
def onEp (q : Nat) (f : Endpoint → Endpoint) (d : Dev) : Dev := setEp d q (f (epOf d q))

/-- Count and report a from-design entry dropped or truncated (R191). -/
def entryReport (q trav : Nat) (dropped : Bool) (d : Dev) : Dev :=
  let d := countF d (if dropped then QUE_OUTCOUNT_DROPPED else QUE_OUTCOUNT_TRUNCATED) 1
  raiseAt 0x0C (q + b2n dropped * 2 ^ 13) trav false d

/-- PUSH (R191): append the staging word, or mark the entry TRUNC at capacity; the staging word is cleared. -/
def pushWord (q : Nat) (d : Dev) : Dev :=
  let x := epOf d q
  if x.words.length < capacity (qdesc d q) / 4 then
    syncHold (setEp d q { x with words := x.words ++ [x.staging], staging := 0 })
  else setEp d q { x with trunc := true, staging := 0 }

/-- Close the open entry (R191, R193), or drop it when NOROOM was sampled. In a REPLAY nothing is released (R218). -/
def closeEntry (q trav : Nat) (full : Bool) (s : State) : State :=
  let x := epOf s.dev q
  let empty := { x with words := [], trunc := false }
  if full then
    let e : HeldEntry := ⟨q, x.closed, x.trunc, x.words, trav⟩
    onDev (fun d =>
      let d := setEp d q { empty with dropped := x.dropped + 1 }
      entryReport q trav true { d with qu := { d.qu with drops := d.qu.drops ++ [(x.dropped, e)] } }) s
  else
    let e : HeldEntry := ⟨q, x.closed, x.trunc, x.words, trav⟩
    let s := onDev (fun d => setEp d q { empty with closed := x.closed + 1 }) s
    let s := if x.trunc then onDev (entryReport q trav false) s else s
    if mode s.dev == 5 then s
    else if isProtected s.dev then
      onDev (fun d => syncHold { d with qu := { d.qu with held := d.qu.held ++ [e] } }) s
    else onDev syncHold (releaseEntry e s)

/-- A POP (R189) given the pop-valid value read back from the journal, if any. Answers the pop-valid value. -/
def popWord (t q : Nat) (given : Option Bool) (s : State) : Bool × State :=
  let d := s.dev
  let x := qdesc d q
  let ws := entryWords s q
  let ep := epOf d q
  let live := x.bound && !x.fromDesign && hasEntry d q && decide (ep.popped < ws.length)
  let valid := given.getD live
  let tl := tileOf d t
  if valid then
    (true, onDev (fun d => setTile (setEp d q { ep with popped := ep.popped + 1 }) t
      { tl with lastPop := ws.getD ep.popped 0, popValid := true }) s)
  else (false, onDev (fun d => setTile d t { tl with lastPop := 0, popValid := false }) s)

/-- An ACK (R189, R195): CONS follows at once in open operation, at a commit in protected operation. -/
def ackEntry (q trav : Nat) (s : State) : State :=
  let x := qdesc s.dev q
  if x.bound && !x.fromDesign && hasEntry s.dev q then
    let s := onDev (onEp q fun e => { e with acked := e.acked + 1, popped := 0 }) s
    if mode s.dev == 5 then s
    else if isProtected s.dev then
      onDev (fun d => { d with qu := { d.qu with acks := d.qu.acks ++ [(q, trav)] } }) s
    else advanceCons q s
  else s

/-- Pop-valid and the last-pop word read 0 (R203). -/
def noPop (t : Nat) (d : Dev) : Dev := setTile d t { tileOf d t with lastPop := 0, popValid := false }

/-- One queue action of a step (R44, R47, R203). `full` lists the endpoints sampled as NOROOM, `pv` the pop-valid values
read from the journal and not yet used. Answers the pop-valid values of the POPs, in order. -/
def queueAction (t trav : Nat) (full : List Nat) (q : Nat × Nat × Nat × Bool)
    (r : List (Option Bool) × List (Nat × Bool) × State) : List (Option Bool) × List (Nat × Bool) × State :=
  let (pv, pops, s) := r
  let n := 32 * t + q.2.1
  let x := qdesc s.dev n
  if !q.2.2.2 then r
  else if q.2.2.1 == 2 then
    let (v, s) := popWord t n (pv.headD none) s
    (pv.drop 1, pops ++ [(q.2.1, v)], s)
  else if q.2.2.1 == 3 then (pv, pops, if x.bound && x.fromDesign then onDev (noPop t) s else ackEntry n trav s)
  else if x.bound && x.fromDesign then
    let s := onDev (pushWord n) s
    (pv, pops, if q.2.2.1 == 1 then closeEntry n trav (full.contains q.2.1) s else s)
  else if x.bound then (pv, pops, onDev (noPop t) s)
  else r

/-- A value leaves a send buffer for the tile network (R53, R67). -/
def netSend (slot trav : Nat) (v : Bool) (d : Dev) : Dev :=
  { d with fab := { d.fab with net := d.fab.net ++ [⟨slot, trav % 2 == 1, v, trav⟩] } }

/-- Send a closed SIGNAL flit (R106). -/
def sendSignal (o : SigOpen) (d : Dev) : Dev :=
  let body := o.entries.zipIdx.foldl (fun n e =>
    n + (e.1.slot.toNat + e.1.tile.toNat * 2 ^ 9 + b2n e.1.value * 2 ^ 17) * 2 ^ (18 * e.2)) 0
  sendPart 0x20 (b2n o.parity + 2 * o.entries.length) o.part body d

/-- Close the open SIGNAL flits that satisfy `p`. -/
def closeSignals (p : SigOpen → Bool) (d : Dev) : Dev :=
  each (d.lk.sig.filter p) sendSignal { d with lk := { d.lk with sig := d.lk.sig.filter (!p ·) } }

/-- A value of tile `t` leaves its send buffer for the rope interface: it joins the open flit of its partition and parity, which closes at 12 values (R53, R106). -/
def ropeSend (t dest trav : Nat) (v : Bool) (d : Dev) : Dev :=
  let part := dest / 2 ^ 17 % 1024
  let par := trav % 2 == 1
  let e : SigEntry := ⟨BitVec.ofNat 9 dest, BitVec.ofNat 8 (dest / 512), v⟩
  let mine := fun o : SigOpen => o.part == part && o.parity == par
  let sig := if d.lk.sig.any mine then d.lk.sig.map fun o => if mine o then { o with tiles := insertOnce t o.tiles, entries := o.entries ++ [e] } else o
    else d.lk.sig ++ [⟨part, par, [t], [e]⟩]
  closeSignals (fun o => decide (12 ≤ o.entries.length)) { d with lk := { d.lk with sig := sig } }

/-- An empty send buffer. -/
def noSends (_ : Nat) : List SendVal := []

/-- The send buffer of tile `t` (R67). -/
def bufferOf (d : Dev) (t : Nat) : List SendVal := sget noSends d.fab.sends t

/-- The device with the send buffer of tile `t` replaced. -/
def setBuffer (t : Nat) (l : List SendVal) (d : Dev) : Dev := { d with fab := { d.fab with sends := sset noSends d.fab.sends t l } }

/-- Whether a consumed send-route entry is out of scope for the partition `part` (R63 code 6). -/
def routeBad (d : Dev) (part entry : Nat) (rope : Bool) : Bool :=
  let p := entry / 2 ^ 17 % 1024
  entry / 2 ^ 27 != 0 || (!rope && p != part) || (rope && p == part) || decide (parties d ≤ p / 16)

/-- The DEST of tile `t`'s next send. With image checking off, an entry that it would refuse and a send past the 4,096 entries go, if
anywhere, to a free slot of the partition, over a rope to a free slot of another one (R65). -/
def nextDest (d : Dev) (t : Nat) (rope : Bool) : Option Nat :=
  let i := (tileOf d t).sendIdx
  let e := (sget (fun _ => 0#32) d.fab.route (4096 * t + i)).toNat
  if i < 4096 && !routeBad d (myPart d) e rope then some (e % 2 ^ 27)
  else
    let f := Config.freeChoice (d.free + 1024 + i % 1024) % 2 ^ 27
    if rope then
      if routeBad d (myPart d) f true || (pmap d (f / 2 ^ 17)).isNone then none else some f
    else some (f % 2 ^ 17)

/-- One send of tile `t` joins its send buffer, through the next send-route entry (R53, R54, R67). -/
def issueSend (t trav : Nat) (rope v : Bool) (d : Dev) : Dev :=
  let d' := setTile d t { tileOf d t with sendIdx := (tileOf d t).sendIdx + 1 }
  match nextDest d t rope with
  | some dest => setBuffer t (bufferOf d t ++ [⟨rope, dest, v, trav⟩]) d'
  | none => d'

/-- The sends of one evaluator's step, tile network first (R53, R54). -/
def sends (t trav outx : Nat) (v : Bool) (d : Dev) : Dev :=
  let d := if outx % 2 == 1 then issueSend t trav false v d else d
  if 2 ≤ outx then issueSend t trav true v d else d

/-- What leaves a send buffer in one step time (R67), `n` values at most for the tile network and `r` for the rope interface, and what
stays. -/
def drainSplit : Nat → Nat → List SendVal → List SendVal × List SendVal
  | _, _, [] => ([], [])
  | n, r, v :: l =>
    if v.rope then
      if r == 0 then let x := drainSplit n r l; (x.1, v :: x.2) else let x := drainSplit n (r - 1) l; (v :: x.1, x.2)
    else if n == 0 then let x := drainSplit n r l; (x.1, v :: x.2) else let x := drainSplit (n - 1) r l; (v :: x.1, x.2)

/-- The send buffer of tile `t` drains for one step time (R67): up to 32 values to the tile network and 16 to the rope interface. -/
def drainSends (t : Nat) (d : Dev) : Dev :=
  if !fabricRuns d then d
  else
    let x := drainSplit 32 16 (bufferOf d t)
    each x.1 (fun v d => if v.rope then ropeSend t v.dest v.trav v.value d else netSend (v.dest % 2 ^ 17) v.trav v.value d)
      (setBuffer t x.2 d)

/-- The values a step of tile `t` sends. -/
def stepSends (d : Dev) (t st : Nat) : Nat :=
  (List.range 512).foldl (fun n e => let o := outxOf (execWord d (512 * t + e) st); n + o % 2 + o / 2) 0

/-- The wait for room in the send buffer before a step is applied (R67). -/
def sendWaits (d : Dev) (t st : Nat) : Option (Nat × Nat) :=
  if 1024 < (bufferOf d t).length + stepSends d t st then some (7, 0) else none

/-- Put a bit into a 64-bit group. -/
def putBit (st : Store DWord) (k i : Nat) (b : Bool) : Store DWord :=
  let v := sget zero64 st k
  let m := BitVec.ofNat 64 (2 ^ i)
  sset zero64 st k (if b then v ||| m else v &&& ~~~m)

/-- The effect of one evaluator's result, ports and queue actions apart (R42), its line of the broadcast bus (R48) and its
sends. -/
def effect (t trav st : Nat) (res : List Bool) (e : Nat) (d : Dev) : Dev :=
  let g := 512 * t + e
  let w := execWord d g st
  let k := kindOf w
  let v := res.getD e false
  let dst := dstOf w
  let d := if k == 0 then { d with fab := { d.fab with lds := putBit d.fab.lds (16 * g + dst / 64) (dst % 64) v } }
    else if k == 1 then { d with fab := { d.fab with dq := putBit d.fab.dq g (dst % 64) v } }
    else if k == 5 then { d with fab := { d.fab with probe := sset noBit d.fab.probe (256 * t + dst % 256) v } }
    else d
  let d := { d with fab := { d.fab with bus := sset noBit d.fab.bus g (v && k != 6 && k != 7) } }
  if outxOf w == 0 then d else sends t trav (outxOf w) v d

/-- A QDATA result (R42). -/
def stagingBit (t dst : Nat) (v : Bool) (d : Dev) : Dev :=
  onEp (32 * t + dst / 32) (fun x =>
    let m := BitVec.ofNat 32 (2 ^ (dst % 32))
    { x with staging := if v then x.staging ||| m else x.staging &&& ~~~m }) d

/-- All effects of a step in ascending evaluator order (R46 step 4, R47), but for the port accesses it starts. -/
def applyEffects (t trav st : Nat) (res : List Bool) (full : List Nat)
    (r : List (Option Bool) × List (Nat × Bool) × State) : List (Option Bool) × List (Nat × Bool) × State :=
  each (List.range 512) (fun e r =>
    let w := execWord r.2.2.dev (512 * t + e) st
    let r : List (Option Bool) × List (Nat × Bool) × State :=
      if kindOf w == 3 then (r.1, r.2.1, onDev (stagingBit t (dstOf w) (res.getD e false)) r.2.2)
      else if kindOf w == 4 then
        queueAction t trav full (e, dstOf w / 32, dstOf w / 8 % 4, res.getD e false) r
      else r
    (r.1, r.2.1, onDev (effect t trav st res e) r.2.2)) r

/-- Withdraw or announce a tile's host wait (R87, R192): `now` is the endpoint the tile waits on, if any. -/
def announceWait (t : Nat) (now : Option Nat) (d : Dev) : Dev :=
  let old := d.tv.ownWaits.filter fun q => q / 32 == t && some q != now
  let d := each old (fun q d =>
    broadcast 0x13 6 (at8 8 q) { d with tv := { d.tv with ownWaits := d.tv.ownWaits.filter (· != q) } }) d
  let d := match now with
    | some q => if d.tv.ownWaits.contains q then d
      else broadcast 0x13 5 (at8 8 q) { d with tv := { d.tv with ownWaits := d.tv.ownWaits ++ [q] } }
    | none => d
  let mine := !d.tv.ownWaits.isEmpty
  setFlag (setFlag d TRV_STATUS_HOSTWAIT_LOCAL mine) TRV_STATUS_HOSTWAIT_SYS (mine || !d.tv.hostWaits.isEmpty)

/-- Every host wait of the device ends with the state its tiles waited in (R74, R87): each is withdrawn. -/
def withdrawWaits (d : Dev) : Dev :=
  let d := each d.tv.ownWaits (fun q d => broadcast 0x13 6 (at8 8 q) d) d
  let d := { d with tv := { d.tv with ownWaits := [] } }
  setFlag (setFlag d TRV_STATUS_HOSTWAIT_LOCAL false) TRV_STATUS_HOSTWAIT_SYS (!d.tv.hostWaits.isEmpty)

/-- The host wait a wait code stands for: a POP or WAIT QUEUE on an empty BLOCKING queue, or a WAIT QUEUE on a from-design
queue without room (R87, R190, R192). -/
def hostWaitOf (d : Dev) (t : Nat) (w : Nat × Nat) : Option Nat :=
  let q := 32 * t + w.2
  let x := qdesc d q
  if w.1 == 6 then some q
  else if w.1 == 4 && x.bound && (x.fromDesign || (x.blocking && !hasEntry d q)) then some q
  else none

/-- A tile waits: TRV_TILE_STAT says where and on what. -/
def tileWaits (t : Nat) (w : Nat × Nat) (d : Dev) : Dev :=
  announceWait t (hostWaitOf d t w) (setTile d t { tileOf d t with wait := w.1, detail := w.2 })

/-- Samples read from the journal or live, for a list of endpoints: the NOROOM values, whether one mismatched, and the
records to append. -/
def sampleFlags (t st trav : Nat) : List Nat → Dev → (List (Nat × Bool) × Bool × List DWord) × Dev
  | [], d => (([], false, []), d)
  | ep :: r, d =>
    let live := queueFlag d (32 * t + ep)
    let ((v, bad, app), d) := oneSample t st ep trav false live d
    let ((vs, bad', recs), d) := sampleFlags t st trav r d
    (((ep, v) :: vs, bad || bad', (if app then [sampleRec t st ep trav false v] else []) ++ recs), d)

/-- The pop-valid records of a step's POPs, read before its actions in a re-execution. -/
def samplePops (t st trav : Nat) : List Nat → Dev → (List (Option Bool) × Bool) × Dev
  | [], d => (([], false), d)
  | ep :: r, d =>
    let (x, d) := takeSample t st ep trav true d
    let ((vs, bad), d) := samplePops t st trav r d
    match x with
    | .live => ((none :: vs, bad), d)
    | .value b => ((some b :: vs, bad), d)
    | .mismatch => ((none :: vs, true), d)

/-- Apply a step whose conditions all hold (R46 step 4): the samples of its QCTL steps, every effect, its port accesses and
its SAMPLE records. -/
def applyStep (t trav st : Nat) (res : List Bool) (s : State) : State :=
  let qs := qctls s.dev t st res
  let sense := (qs.getLast?.map fun q => q.2.1).getD 0
  let others := ((qs.filter fun q => q.2.2.1 == 1 && q.2.1 != sense).map fun q => q.2.1).foldr insertOnce []
  let popEps := (qs.filter fun q => q.2.2.1 == 2 && q.2.2.2).map fun q => q.2.1
  let ((pv, bad1), d1) := samplePops t st trav popEps s.dev
  let ((fl, bad2, recs), d2) := sampleFlags t st trav (if qs.isEmpty then [] else others ++ [sense]) d1
  if bad1 || bad2 then onDev (raiseAt 0x0D (t + st * 2 ^ 8 + sense * 2 ^ 18) trav false) { s with dev := d2 }
  else
    let full := (fl.filter (·.2)).map (·.1)
    let (_, pops, s) := applyEffects t trav st res full (pv, [], { s with dev := d2 })
    let fresh := (pops.zip pv).filterMap fun x => match x.2 with
      | some _ => none
      | none => some (sampleRec t st x.1.1 trav true x.1.2)
    let s := onDev (startAccesses t st trav res) s
    let s := if mode s.dev == 5 then s
      else onDev (each (fresh ++ recs) fun w d => journalPut (openInterval d trav) [w] d) s
    onDev (fun d =>
      let tl := tileOf d t
      let tl := if qs.isEmpty then tl
        else { tl with sense := sense, qEmpty := ((fl.find? fun f => f.1 == sense).map (·.2)).getD true }
      announceWait t none (setTile { d with free := d.free + 4096 } t
        { tl with step := st + 1, wait := if st + 1 == travN d then 8 else 0, detail := 0 })) s

/-- One step time of a tile (R46, R67): its send buffer drains; nothing else happens to a tile that is held, between traverses or at the end of its steps; a
tile whose conditions do not hold notes what it waits for. -/
def tileStep (t : Nat) (s0 : State) : State :=
  let s := onDev (drainSends t) s0
  let d := s.dev
  let tl := tileOf d t
  if !fabricRuns d || !tl.inTrav then s
  else if flag d TRV_STATUS_HOLD then onDev (fun d => setTile d t { tl with wait := 10, detail := 0 }) s
  else if travN d ≤ tl.step then s
  else
    let trav := tl.count
    match stepWaits s t trav tl.step with
    | some w => onDev (fun d => tileWaits t w { d with free := d.free + 4096 }) s
    | none =>
      match checkStep t tl.step trav d with
      | (true, d) => { s with dev := d }
      | (false, d) =>
        let s := { s with dev := d }
        let res := results d t trav tl.step
        match portWaits d t tl.step res with
        | some w => onDev (tileWaits t w) s
        | none =>
          match queueWaits d t (qctls d t tl.step res) with
          | some w => onDev (tileWaits t w) s
          | none =>
            match sendWaits d t tl.step with
            | some w => onDev (tileWaits t w) s
            | none => applyStep t trav tl.step res s

/-- The traverse gate of R72 with a fence (R160), a stop count (R78), the trace buffer (R207) and the replay records
(R219). -/
def gateOpen (d : Dev) (trav : Nat) : Bool :=
  upTo trav (nextCount (floorOf d)) &&
  (d.tv.targets.all fun p => upTo trav (nextCount (sget zeroAt d.tv.floors p))) &&
  (match stopCount d with
   | some s => !upTo s trav
   | none => true) &&
  (match d.tv.fence with
   | some f => !upTo f trav
   | none => true) &&
  !pinBlocks d && decide (d.vs.pend.length < 64) && (d.vs.rplPend.all fun r => decide (trav < r.t + 2))

/-- Clear what a tile does not carry into a traverse (R35). -/
def clearTile (t : Nat) (d : Dev) : Dev :=
  let d := { d with fab := { d.fab with
    lds := sclear d.fab.lds (16 * 512 * t) 8192
    bus := sclear d.fab.bus (512 * t) 512
    probe := sclear d.fab.probe (256 * t) 256
    preg := sclear d.fab.preg (16 * t) 16
    pret := sclear d.fab.pret (4 * t) 4
    written := sclear d.fab.written (256 * t) 256 } }
  let d := eccClearRange (eccKey 1 (16 * 512 * t)) 8192 d
  each (((d.fab.ep.map (·.1)).filter fun q => q / 32 == t)) (fun q d => onEp q (fun x => { x with staging := 0 }) d) d

/-- A tile begins its next traverse (R68) when the gate is open and nothing holds it. -/
def beginTraverse (t : Nat) (d : Dev) : Dev :=
  let tl := tileOf d t
  if !fabricRuns d || tl.inTrav || !d.hs.imageHeld then d
  else if flag d TRV_STATUS_HOLD then setTile d t { tl with wait := 10, detail := 0 }
  else if !gateOpen d tl.count then setTile d t { tl with wait := 9, detail := 0 }
  else setTile (clearTile t d) t { tl with inTrav := true, step := 0, wait := 0, detail := 0, sendIdx := 0, lastPop := 0
                                           popValid := false, qEmpty := false }

/-- The lowest expected slot of tile `t` that is still empty in the bank of the traverse (R50). -/
def emptySlot (d : Dev) (t trav : Nat) : Option Nat :=
  ((d.fab.expect.filter fun e => e.2 && e.1 / 512 == t).map (·.1)).find? fun k =>
    (sget noSlot d.fab.slots (2 * k + trav % 2)).isNone

/-- Whether a tile may end its traverse (R69). -/
def mayEnd (d : Dev) (t : Nat) : Bool :=
  let tl := tileOf d t
  fabricRuns d && tl.inTrav && tl.step == travN d && !flag d TRV_STATUS_HOLD && (emptySlot d t tl.count).isNone && (bufferOf d t).isEmpty &&
    d.fab.acc.all fun a => a.port / 4 != t

/-- The check bits of a tile's state words as D moves to Q (R36, R61). The move reads every D word (DEDUCED, assumptions row 35):
a single error is corrected and reported; an uncorrectable one is reported and goes to Q with its word. -/
def moveEcc (t trav : Nat) (d : Dev) : Dev :=
  if d.ecc.isEmpty then d
  else
    let is := (List.range 512).map (512 * t + ·)
    let d := each (is.filter fun i => eccMask d (eccKey 3 i) != 0#8) (fun i d => (readFabric 3 i trav d).2) d
    each is (fun i d =>
      let m := eccMask d (eccKey 3 i)
      let d := eccClear (eccKey 2 i) d
      { d with ecc := sset (fun _ => 0#8) d.ecc (eccKey 2 i) m }) d

/-- The indivisible event that ends tile `t`'s traverse (R70). -/
def endTile (t : Nat) (d : Dev) : Dev :=
  let tl := tileOf d t
  let bank := tl.count % 2
  let ds := d.fab.dq.filter fun e => e.1 / 512 == t
  let q := ds.foldl (fun st e => sset zero64 st e.1 e.2) (sclear d.fab.q (512 * t) 512)
  let ps := (d.fab.probe.filter fun e => e.1 / 256 == t).map fun e => (65536 * bank + e.1, e.2)
  let cap := ps.foldl (fun st e => sset noBit st e.1 e.2) (sclear d.fab.capture (65536 * bank + 256 * t) 256)
  let wr := (d.fab.written.filter fun e => e.1 / 256 == t).map (·.1)
  let d := { d with fab := { d.fab with
    q := q
    slots := d.fab.slots.filter fun e => !(e.1 / 1024 == t && e.1 % 2 == bank)
    capture := cap
    dirty := wr.foldl (fun st b => sset noBit st b true) d.fab.dirty } }
  let d := eccClearRange (eccKey 4 (512 * t)) 512 (moveEcc t tl.count d)
  let d := closeSignals (fun o => o.parity == (bank == 1) && o.tiles.contains t) d
  let d := if mode d == 5 then
      let qs := (q.filter fun e => e.1 / 512 == t).map fun e => (131072 * bank + e.1, e.2)
      let base := sclear d.vs.rplQ (131072 * bank + 512 * t) 512
      { d with vs := { d.vs with rplQ := qs.foldl (fun st e => sset zero64 st e.1 e.2) base } }
    else d
  setTile d t { tl with count := nextCount tl.count, inTrav := false, step := 0, wait := 9, detail := 0 }

/-- Send the device floor to every feeder (R73, R107). -/
def sendFloors (d : Dev) : Dev :=
  each d.tv.feeders (fun p d =>
    sendPart 0x21 0 p (at8 8 (floorOf d) + at8 16 (getF d TRV_STATUS_RESTORES)) d) d

/-- Place a value in its slot bank, or report a route fault (R49, R51). -/
def placeValue (k : Nat) (parity v : Bool) (trav : Nat) (d : Dev) : Dev :=
  let i := 2 * k + b2n parity
  let ok := d.hs.imageHeld && sget noBit d.fab.expect k && (sget noSlot d.fab.slots i).isNone
  if ok then eccClear (eccKey 4 k) { d with fab := { d.fab with slots := sset noSlot d.fab.slots i (some v) } }
  else raiseAt 0x08 (k / 512 + k % 512 * 2 ^ 8) (if d.hs.imageHeld then trav else 0) false d

end Sys2Proof.Machine
end

