-- ==== Sys2Proof/Machine/Trace.lean ====
section
/-! DEFINITION. Probes, trigger units, the trace ring and replay records (R204-R220), and how a freeze begins (R79,
R80, R127). -/

namespace Sys2Proof.Machine

/-- The tiles whose bits are set in a set of mask registers. -/
def maskTiles (d : Dev) (reg : Nat → Nat) : List Nat :=
  (List.range 256).filter fun t => bitOf (getR d (reg (t / 32))).toNat (t % 32)

/-- A tile's probe block (R206): 256 captured bits, of the traverse of parity `bank`. -/
def probeBlock (d : Dev) (bank t : Nat) : List Byte :=
  (List.range 32).map fun j => BitVec.ofNat 8 ((List.range 8).foldl
    (fun n i => n + b2n (sget noBit d.fab.capture (65536 * bank + 256 * t + 8 * j + i)) * 2 ^ i) 0)

/-- A record header (R206) without CKP_SEQ. -/
def recordHeader (d : Dev) (t tiles : Nat) (gap resumed replay state probes : Bool) (seq : Nat) (fired : BitVec 64) :
    List Byte :=
  bytesOf 8 t ++ bytesOf 8 (sysTime d) ++
  bytesOf 4 (tiles + b2n gap * 2 ^ 9 + b2n resumed * 2 ^ 10 + b2n replay * 2 ^ 11 + b2n state * 2 ^ 12 +
    b2n probes * 2 ^ 13) ++ bytesOf 4 seq ++ bytesOf 8 fired.toNat

/-- A unit that has not been evaluated: v' 0, no hits. -/
def unit0 (_ : Nat) : TrigUnit where
  prev := false
  cnt := 0
  armed := false
  off := false

/-- Trigger unit `u`. -/
def unitOf (d : Dev) (u : Nat) : TrigUnit := sget unit0 d.vs.units u

/-- Whether unit `u` is armed (R212). -/
def unitArmed (d : Dev) (u : Nat) : Bool :=
  flag d (VIS_TRG_CTRL_ENABLE u) && !(unitOf d u).off && (!flag d (VIS_TRG_CTRL_ARM_EN u) || (unitOf d u).armed)

/-- A source of a trigger unit at the evaluation for traverse `t` (R211). -/
def trigSource (d : Dev) (replay : Bool) (t u sel : Nat) : Bool :=
  if sel < 0x10000 then sget noBit d.fab.capture (65536 * (t % 2) + sel)
  else if sel < 0x10040 then (if replay then d.vs.rplFired else d.vs.firedPrev).getLsbD (sel - 0x10000)
  else if sel < 0x10050 then !replay && d.vs.rcLatch.getLsbD (sel - 0x10040)
  else if sel < 0x10080 then false
  else if sel < 0x100C0 then !replay && pinInput d (sel - 0x10080)
  else if sel < 0x10100 then !replay && d.vs.lineLatch.getLsbD (sel - 0x100C0)
  else if sel == 0x10100 then get2 d (VIS_TRG_MATCH_LO u) == t % 2 ^ 64
  else sel == 0x10102

/-- Evaluate one unit (R212): whether it fires, and its new state. -/
def evalUnit (d : Dev) (replay : Bool) (t u : Nat) : Bool × TrigUnit :=
  let a := trigSource d replay t u (getF d (VIS_TRG_SRC_A_SEL u)) != flag d (VIS_TRG_SRC_A_INV u)
  let b := trigSource d replay t u (getF d (VIS_TRG_SRC_B_SEL u)) != flag d (VIS_TRG_SRC_B_INV u)
  let x := unitOf d u
  let v := bitOf (getF d (VIS_TRG_CTRL_FUNC u)) (2 * b2n b + b2n a)
  let edge := getF d (VIS_TRG_CTRL_EDGE u)
  let hit := if edge == 0 then v else if edge == 1 then v && !x.prev else if edge == 2 then !v && x.prev else v != x.prev
  let counts := unitArmed d u && hit
  let cnt := x.cnt + b2n counts
  let fires := counts && decide (max 1 (getR d (VIS_TRG_COUNT u)).toNat ≤ cnt)
  (fires, { x with prev := v, cnt := if fires then 0 else cnt, off := x.off || (fires && flag d (VIS_TRG_CTRL_ONESHOT u)) })

/-- The units an evaluation covers (R210). -/
def evaluated (d : Dev) (replay : Bool) : List Nat :=
  (List.range 64).filter fun u => flag d (VIS_TRG_CTRL_ENABLE u) && flag d (VIS_TRG_CTRL_INREPLAY u) == replay

/-- Set the bits of a 64-bit W1C or status pair of registers. -/
def orPair (r0 r1 : Nat) (v : BitVec 64) (d : Dev) : Dev :=
  setR (setR d r0 (getR d r0 ||| v.setWidth 32)) r1 (getR d r1 ||| (v >>> 32).setWidth 32)

/-- A set of units as bits. -/
def unitBits (us : List Nat) : BitVec 64 := us.foldl (fun v u => v ||| BitVec.ofNat 64 (2 ^ u)) 0

/-- A freeze transition begins where RUN gives one; in RECOVER, or in a transition into RUN or RECOVER, the request is kept
(R27, R81). -/
def freezeTrans (d : Dev) : Dev :=
  match d.md.trans with
  | some t => if t.goal == 3 || t.goal == 6 then { d with md := { d.md with keptFreeze := true } } else d
  | none =>
    if mode d == 3 then beginTrans 4 false false d
    else if mode d == 6 then { d with md := { d.md with keptFreeze := true } }
    else d

/-- Whether this device is entering FREEZE by R79. -/
def freezing (d : Dev) : Bool :=
  match d.md.trans with
  | some t => t.goal == 4 && !t.strand && mode d == 3
  | none => false

/-- The manager freezes the system with a hold request (R79 step 1); in REPLAY the same procedure ends the replay (R220). A freeze in
progress absorbs the request (R81). -/
def mgrFreeze (d : Dev) : Dev :=
  if freezing d then d
  else if mode d == 5 then
    if d.md.trans.isSome || d.vs.rplFreeze || d.vs.rplEnding || d.vs.rplWait then d
    else stopIfReported (holdFabric (broadcast 0x13 0 0 { d with vs := { d.vs with rplFreeze := true } }))
  else
    let d := freezeTrans d
    if freezing d then stopIfReported (holdFabric (broadcast 0x13 0 0 d)) else d

/-- A hold that begins a freeze at this device (R79 step 1): a freeze in progress absorbs it (R81), and it has no further effect during
a recovery hold (R130). -/
def freezeHold (d : Dev) : Dev :=
  if freezing d || (flag d TRV_STATUS_HOLD && !d.rs.mgrHold) then d
  else
    let d := freezeTrans d
    if freezing d then stopIfReported (holdFabric d) else d

/-- A hold of the resilience machinery (R80, R127): a freeze in progress becomes a recovery hold, after which RECOVER ends in FREEZE
(R81, R130). -/
def recoveryHold (d : Dev) : Dev :=
  let d := if freezing d then beginTrans 6 false false { d with md := { d.md with keptFreeze := true, recEntry := 3 } } else d
  if mode d == 3 || mode d == 4 || mode d == 6 then holdFabric d else d

/-- What a BELAY does at a device that raises or accepts it (R80, R127, R130, R222); one with a reserved REASON holds only. -/
def belayHold (reason : Nat) (d : Dev) : Dev :=
  if reason == 1 || reason == 2 then (if mode d == 5 then d else freezeHold d)
  else if reason == 0x10 || reason == 0x11 then recoveryHold d
  else if mode d == 3 || mode d == 4 || mode d == 6 then holdFabric d
  else d

/-- Raise a freeze BELAY (R127). -/
def raiseFreeze (reason : Nat) (d : Dev) : Dev :=
  let e := (d.lk.epoch + 1) % 256
  belayHold reason (floodBelay reason (myPos d) e none { d with lk := { d.lk with epoch := e } })

/-- A request to freeze goes to the manager in a TRIG flit (R213, R214). -/
def requestFreeze (t u : Nat) (d : Dev) : Dev :=
  if isMgr d then mgrFreeze d else sendPos 0x17 (2 ^ 6) (mgrPos d) (at8 8 t + at8 16 u) d

/-- A system trigger line is received or raised here (R214): the evaluation latch, VIS_SYSTRIG and the pin pulse. -/
def lineIn (line : Nat) (d : Dev) : Dev :=
  let d := { d with vs := { d.vs with lineLatch := d.vs.lineLatch ||| BitVec.ofNat 64 (2 ^ line) } }
  pulseLine line (orPair VIS_SYSTRIG0 VIS_SYSTRIG1 (BitVec.ofNat 64 (2 ^ line)) d)

/-- A firing unit's actions outside REPLAY (R213), but for TRACE_START and TRACE_STOP. -/
def fireActions (t u : Nat) (d : Dev) : Dev :=
  let fz := getF d (VIS_TRG_CTRL_FREEZE u)
  let line := getF d (VIS_TRG_CTRL_LINE u)
  let d := if flag d (VIS_TRG_CTRL_SYSTRIG u) then
      lineIn line (broadcast 0x17 line (at8 8 t + at8 16 u) d) else d
  let d := if flag d (VIS_TRG_CTRL_IRQ u) then hostEvent 3 ([u + myPos d * 2 ^ 16, 0] ++ lohi t) d else d
  let d := if flag d (VIS_TRG_CTRL_CKP u) && isProtected d then askCheckpoint d else d
  let d := if fz == 0 || freezing d then d else { d with tv := { d.tv with trigT := some (nextCount t) } }
  let d := if fz == 2 then raiseFreeze 2 d else if fz == 1 then requestFreeze t u d else d
  pulseTrigger u d

/-- Evaluate the trigger units for traverse `t` (R210, R212): the fired units, and the device after the evaluation, its
firing state recorded. -/
def evalUnits (replay : Bool) (t : Nat) (d : Dev) : List Nat × Dev :=
  let us := evaluated d replay
  let rs := us.map fun u => (u, evalUnit d replay t u)
  let fired := (rs.filter fun r => r.2.1).map (·.1)
  let d := each rs (fun r d => { d with vs := { d.vs with units := sset unit0 d.vs.units r.1 r.2.2 } }) d
  let d := each (List.range 64) (fun u d =>
    if flag d (VIS_TRG_CTRL_ARM_EN u) && fired.contains (getF d (VIS_TRG_CTRL_ARM_UNIT u)) then
      { d with vs := { d.vs with units := sset unit0 d.vs.units u { unitOf d u with armed := true } } }
    else d) d
  let d := orPair VIS_TRG_FIRED0 VIS_TRG_FIRED1 (unitBits fired) d
  let d := each fired (fun u d => set2 d (VIS_TRG_HIT_LO u) t) d
  (fired, if replay then { d with vs := { d.vs with rplFired := unitBits fired } }
    else { d with vs := { d.vs with firedPrev := unitBits fired } })

/-- The evaluation for traverse `t` in RUN and RECOVER, once in a run (R210). -/
def evalRun (t : Nat) (d : Dev) : List Nat × Dev :=
  if d.vs.evaluated && decide (t ≤ get2 d VIS_TRG_EVAL_LO) then ([], d)
  else
    let (fired, d) := evalUnits false t d
    let d := set2 { d with vs := { d.vs with evaluated := true, lineLatch := 0, rcLatch := 0 } } VIS_TRG_EVAL_LO t
    (fired, d)

/-- The device floor reaches `t + 1` in RUN or RECOVER (R204, R207, R213): evaluation, the trace record where capture is
enabled, then the actions of the units that fired. -/
def captureTraverse (t : Nat) (d : Dev) : Dev :=
  let (fired, d) := evalRun t d
  let act := fun (d : Dev) (f : Nat → Fld) => fired.any fun u => flag d (f u)
  let d := if act d VIS_TRG_CTRL_TRACE_START then
      setFlag (setFlag d VIS_TRACE_CTRL_FULL false) VIS_TRACE_CTRL_ENABLE true else d
  let d := if flag d VIS_TRACE_CTRL_ENABLE then
      let tiles := maskTiles d VIS_TRACE_TMASK
      let gap := d.vs.gap || (match d.vs.lastRec with
        | some l => decide (l + 1 < t)
        | none => false)
      let bytes := recordHeader d t tiles.length gap d.vs.resumed false false true 0 (unitBits fired) ++
        tiles.flatMap (probeBlock d (t % 2))
      { d with vs := { d.vs with pend := d.vs.pend ++ [⟨t, bytes⟩], lastRec := some t, gap := false, resumed := false } }
    else d
  let d := if act d VIS_TRG_CTRL_TRACE_STOP then setFlag d VIS_TRACE_CTRL_ENABLE false else d
  each fired (fireActions t) d

/-- The device floor reaches `t + 1` in REPLAY (R218-R220): the units with INREPLAY, the replay record, and the window's
early end. FIRED has the bit of every unit that fired, with RPL_MARK or without (R206, R212; DEDUCED, assumptions row 114). -/
def captureReplay (t : Nat) (d : Dev) : Dev :=
  let (fired, d) := evalUnits true t d
  let d := set2 d VIS_RPL_CUR_LO (t + 1)
  let d := setFlag d VIS_RPL_STAT_CAPTURING (decide (d.vs.rplFrom ≤ t + 1))
  let d := if d.vs.rplFrom ≤ t ∧ t < d.vs.rplEnd then
      let tiles := d.vs.rplMask
      let state := fun tl => (List.range 512).flatMap fun e =>
        bytesOf 8 (sget zero64 d.vs.rplQ (131072 * (t % 2) + 512 * tl + e)).toNat
      let bytes := recordHeader d t tiles.length false false true d.vs.rplState d.vs.rplProbes d.vs.rplSeq (unitBits fired) ++
        tiles.flatMap fun tl => (if d.vs.rplState then state tl else []) ++
          (if d.vs.rplProbes then probeBlock d (t % 2) tl else [])
      { d with vs := { d.vs with rplPend := d.vs.rplPend ++ [⟨t, bytes⟩] } }
    else d
  match fired.find? fun u => flag d (VIS_TRG_CTRL_RPL_END u) with
  | some u => requestFreeze t u d
  | none => d

/-- Number of slots of the trace ring. -/
def traceSlots (d : Dev) : Nat := (getR d VIS_TRACE_RECORDS).toNat

/-- Bytes 20-23 of a record. -/
def patchSeq (seq : Nat) (bs : List Byte) : List Byte := bs.take 20 ++ bytesOf 4 seq ++ bs.drop 24

/-- Write the oldest pending trace record to the next slot (R207). Once the ring has filled in stop mode, the records still pending are not
written: they are discarded (DESIGN CHOICE, assumptions row 117). -/
def writeTrace (s : State) : State :=
  match s.dev.vs.pend with
  | [] => s
  | r :: rest =>
    let n := traceSlots s.dev
    let d := { s.dev with vs := { s.dev.vs with pend := rest, ringT := (r.t :: s.dev.vs.ringT).take n } }
    if n == 0 then { s with dev := d }
    else if flag d VIS_TRACE_CTRL_FULL && flag d VIS_TRACE_CTRL_MODE then
      { s with dev := { s.dev with vs := { s.dev.vs with pend := [], lastRec := s.dev.vs.ringT.head? } } }
    else
      let slot := (getR d VIS_TRACE_WRITE).toNat
      let a := get2 d VIS_TRACE_BASE_LO + slot * getF d VIS_TRACE_RECLEN_BYTES
      let held := min n ((getR d VIS_TRACE_HELD).toNat + 1)
      let d := setR d VIS_TRACE_HELD (BitVec.ofNat 32 held)
      let d := setR d VIS_TRACE_WRITE (BitVec.ofNat 32 ((slot + 1) % n))
      let d := if slot + 1 == n && flag d VIS_TRACE_CTRL_MODE then
          setFlag (setFlag d VIS_TRACE_CTRL_ENABLE false) VIS_TRACE_CTRL_FULL true else d
      putMem a (patchSeq (getR d CKP_SEQ).toNat r.bytes) { s with dev := d }

/-- Write the oldest pending replay record behind those before it (R219, R220). -/
def writeReplay (s : State) : State :=
  match s.dev.vs.rplPend with
  | [] => s
  | r :: rest =>
    let d := { s.dev with vs := { s.dev.vs with rplPend := rest } }
    let n := (getR d VIS_RPL_RECORDS).toNat
    let d' := setR d VIS_RPL_RECORDS (BitVec.ofNat 32 (n + 1))
    if replayArea d < replayUsed d' then { s with dev := endReplay 5 d }
    else putMem (get2 d VIS_RPL_BASE_LO + n * getF d VIS_RPL_RECLEN_BYTES) r.bytes { s with dev := d' }

/-- RECLEN and RECORDS as the mask and the area give them (R205). -/
def sizeTrace (d : Dev) : Dev :=
  let len := 32 + 32 * (maskTiles d VIS_TRACE_TMASK).length
  setR (setF d VIS_TRACE_RECLEN_BYTES len) VIS_TRACE_RECORDS
    (BitVec.ofNat 32 (getF d VIS_TRACE_AREA_SIZE_GIB * 2 ^ 30 / len))

/-- Empty the trace ring. -/
def emptyTrace (d : Dev) : Dev :=
  let d := { d with vs := { d.vs with pend := [], ringT := [], lastRec := none, gap := false, emptyNext := false } }
  sizeTrace (setR (setR d VIS_TRACE_WRITE 0) VIS_TRACE_HELD 0)

/-- Discard trace records of traverse `k` or later (R208): pending ones, and those at the end of the ring. The first
record written next has RESUMED set. -/
def dropTrace (k : Nat) (d : Dev) : Dev :=
  let kept := d.vs.pend.filter fun r => decide (r.t < k)
  let ring := d.vs.ringT.dropWhile fun t => decide (k ≤ t)
  let gone := d.vs.ringT.length - ring.length
  let n := traceSlots d
  let last := match kept.getLast? with
    | some r => some r.t
    | none => ring.head?
  let d := { d with vs := { d.vs with pend := kept, ringT := ring, resumed := true, gap := false, lastRec := last } }
  let d := setR d VIS_TRACE_HELD (BitVec.ofNat 32 ring.length)
  setR d VIS_TRACE_WRITE (BitVec.ofNat 32 (if n == 0 then 0 else ((getR d VIS_TRACE_WRITE).toNat + n - gone % n) % n))

end Sys2Proof.Machine
end

