-- ==== Sys2Proof/Machine/Commands.lean ====
section
/-! DEFINITION. Accepted commands: their parameters, records and ends, on a port or over the manager's relay (R277-R291). -/

namespace Sys2Proof.Machine

/-- Word `i` of a descriptor. -/
def descWord (c : List Word) (i : Nat) : Nat := (c.getD i 0).toNat

/-- Parameter P`i` (R277). -/
def param (c : List Word) (i : Nat) : Nat := descWord c (i + 2)

/-- OPCODE of a descriptor. -/
def opcodeOf (c : List Word) : Nat := descWord c 0 % 256

/-- A 64-bit value in two parameters. -/
def param2 (c : List Word) (i : Nat) : Nat := param c i + param c (i + 1) * 2 ^ 32

/-- The accepted command a reference names. -/
def findCmd (d : Dev) (r : CmdRef) : Option Cmd :=
  match r with
  | .host p _ => (portOf d p.toNat).active.find? fun c => c.ref == r
  | .relay _ _ => d.hs.relayed.find? fun c => c.ref == r

/-- Change an accepted command. -/
def onCmd (r : CmdRef) (f : Cmd → Cmd) (d : Dev) : Dev :=
  match r with
  | .host p _ =>
    let x := portOf d p.toNat
    setPort d p.toNat { x with active := x.active.map fun c => if c.ref == r then f c else c }
  | .relay _ _ => { d with hs := { d.hs with relayed := d.hs.relayed.map fun c => if c.ref == r then f c else c } }

/-- Send a record back over the relay in two CMD_RESP flits (R286). -/
def sendResp (pos rtag : Nat) (rec : List Word) (d : Dev) : Dev :=
  let bs := rec.flatMap fun w => bytesOf 4 w.toNat
  each [0, 1] (fun k d =>
    sendPos 0x11 0 pos (at8 8 rtag + at8 10 k + at8 12 (natOf ((bs.drop (16 * k)).take 16))) d) d

/-- Remove an accepted command. -/
def dropCmd (r : CmdRef) (d : Dev) : Dev :=
  match r with
  | .host p _ =>
    let x := portOf d p.toNat
    let act := x.active.filter fun c => c.ref != r
    setF (setPort d p.toNat { x with active := act }) (HOST_PP_ACTIVE_COUNT p.toNat) act.length
  | .relay _ _ => { d with hs := { d.hs with relayed := d.hs.relayed.filter fun c => c.ref != r } }

/-- End a command with its one final record (R278, R288). A command that is no longer active has none. -/
def endCmd (r : CmdRef) (status : Nat) (result : List Nat) (done : Nat) (d : Dev) : Dev :=
  match findCmd d r with
  | none => d
  | some c =>
    let d := dropCmd r d
    match r with
    | .host p t =>
      putRecord p.toNat false (bitOf (descWord c.desc 0) 8)
        (mkRecord d t.toNat status true false (opcodeOf c.desc) done result) d
    | .relay pos rt =>
      sendResp pos.toNat rt.toNat (mkRecord d rt.toNat status true false (opcodeOf c.desc) done result) d

/-- End a command OK. -/
def okCmd (r : CmdRef) (result : List Nat) (d : Dev) : Dev := endCmd r 0 result 0 d

/-- End several commands with one status, TRV_COUNT in W6-W7. -/
def endCount (rs : List CmdRef) (status : Nat) (d : Dev) : Dev :=
  each rs (fun r d => endCmd r status ([0, 0] ++ lohi (trvCount d)) 0 d) d

/-- Every accepted command of this device. -/
def allCmds (d : Dev) : List Cmd := (List.range 4).flatMap (fun p => (portOf d p).active) ++ d.hs.relayed

/-- End every accepted command whose opcode is in a list. -/
def abortOps (ops : List Nat) (status : Nat) (d : Dev) : Dev :=
  each ((allCmds d).filter fun c => ops.contains (opcodeOf c.desc)) (fun c d => endCmd c.ref status [] c.bytes d) d

end Sys2Proof.Machine
end

