-- ==== Sys2Proof/Machine/Image.lean ====
section
/-! DEFINITION. The KNIM container: framing, sections, checks and loading (R307-R311, R462, R63, R64, R85, R138, R177,
R186), and the layout of the service area. -/

namespace Sys2Proof.Machine

/-- CRC-32 of a byte list (R302). -/
def crc32 (bs : List Byte) : Nat := (~~~(bs.foldl (crcByte 0xEDB88320#32) 0xFFFFFFFF#32)).toNat

/-- A section: its type, CRITICAL bit or CRC, and unpadded body. -/
structure Section where
  ty : Nat
  tag : Nat
  body : List Byte
deriving DecidableEq, Repr

/-- Round up to a multiple of `m`. -/
def ceilTo (m n : Nat) : Nat := (n + m - 1) / m * m

/-- The sections of a KNIM container after its header (R308); none when the framing breaks. -/
def knimSections : Nat → List Byte → Option (List Section)
  | 0, bs => if bs.isEmpty then some [] else none
  | n + 1, bs =>
    let len := u64 bs 8
    if bs.length < 16 || u16 bs 2 != 0 || decide (bs.length < 16 + ceilTo 16 len) then none
    else (knimSections n (bs.drop (16 + ceilTo 16 len))).map fun r =>
      ⟨u16 bs 0, u32 bs 4, (bs.drop 16).take len⟩ :: r

/-- A partition image: what the sections of a KNIM container give (R309). -/
structure Img where
  part : Nat
  n : Nat
  size : Nat
  build : Nat
  steps : List (Nat × List Byte)
  routes : List (Nat × List Nat)
  expect : List Byte
  windows : List (Nat × Nat)
  queues : List (Nat × Nat)
  state : List (Nat × DWord)
  tram : List (Nat × List DWord)
  region : List (Nat × List DWord)
  masks : Option (List Nat)
deriving DecidableEq, Repr

/-- Strictly ascending first fields (R309). -/
def ascending {α : Type} (l : List (Nat × α)) : Bool :=
  match l with
  | [] => true
  | a :: r => (r.zip (a :: r)).all fun p => decide (p.2.1 < p.1.1)

/-- Runs that do not begin at or before the last word of the run before (R309). -/
def runsApart (l : List (Nat × List DWord)) : Bool :=
  match l with
  | [] => true
  | a :: r => (r.zip (a :: r)).all fun p => decide (p.2.1 + p.2.2.length ≤ p.1.1)

/-- Tile blocks of a STEPS section. -/
def stepBlocks (n : Nat) : Nat → List Byte → Option (List (Nat × List Byte))
  | 0, bs => if bs.isEmpty then some [] else none
  | k + 1, bs =>
    let len := 512 * n * 10
    if bs.isEmpty then some []
    else if bs.length < 8 + len || 255 < u32 bs 0 || u32 bs 4 != 0 then none
    else (stepBlocks n k (bs.drop (8 + len))).map fun r => (u32 bs 0, (bs.drop 8).take len) :: r

/-- Tile blocks of a ROUTES section. -/
def routeBlocks : Nat → List Byte → Option (List (Nat × List Nat))
  | 0, bs => if bs.isEmpty then some [] else none
  | k + 1, bs =>
    let n := u32 bs 4
    if bs.isEmpty then some []
    else if bs.length < 8 + 4 * n || 255 < u32 bs 0 || 4096 < n then none
    else (routeBlocks k (bs.drop (8 + 4 * n))).map fun r =>
      (u32 bs 0, (List.range n).map fun i => u32 bs (8 + 4 * i)) :: r

/-- Initial runs with 4-byte (TRAM_INIT) or 8-byte (REGION_INIT) fields. -/
def initRuns (wide : Bool) : Nat → List Byte → Option (List (Nat × List DWord))
  | 0, bs => if bs.isEmpty then some [] else none
  | k + 1, bs =>
    let h := if wide then 16 else 8
    let first := if wide then u64 bs 0 else u32 bs 0
    let n := if wide then u64 bs 8 else u32 bs 4
    if bs.isEmpty then some []
    else if bs.length < h + 8 * n then none
    else (initRuns wide k (bs.drop (h + 8 * n))).map fun r => (first, dwordsOf ((bs.drop h).take (8 * n))) :: r

/-- The body of a section, if it is present. -/
def bodyOf (ss : List Section) (ty : Nat) : Option (List Byte) := (ss.find? fun s => s.ty == ty).map (·.body)

/-- Records of a section, `n` bytes each; none when the body is no whole number of records. -/
def recordsOf (n : Nat) (b : Option (List Byte)) : Option (List (List Byte)) :=
  match b with
  | none => some []
  | some bs => if bs.length % n == 0 then some (chunksOf n bs) else none

/-- The sections of a container as an image: record fields in range, in order (check 7 of R310). -/
def imgOf (c : List Byte) (ss : List Section) : Option Img := do
  let n := u16 c 18
  let body := bodyOf ss
  if (ss.map (·.ty)).Nodup && (ss.all fun s => 1 ≤ s.ty && s.ty ≤ 10) then pure () else none
  let steps ← match body 1 with
    | some b => stepBlocks n b.length b
    | none => some []
  let routes ← match body 2 with
    | some b => routeBlocks b.length b
    | none => some []
  let qs ← recordsOf 8 (body 5)
  let sts ← recordsOf 16 (body 6)
  let tram ← match body 7 with
    | some b => initRuns false b.length b
    | none => some []
  let region ← match body 8 with
    | some b => initRuns true b.length b
    | none => some []
  let queues := qs.map fun r => (u16 r 0, u32 r 4)
  let state := sts.map fun r => (u32 r 0, BitVec.ofNat 64 (u64 r 8))
  let exp := (body 3).getD (List.replicate 16384 0#8)
  let win := (body 4).getD (List.replicate 2048 0#8)
  let okLen := exp.length == 16384 && win.length == 2048 && (match body 9 with
    | some b => b.length == 64
    | none => true)
  let okRec := (qs.all fun r => u16 r 0 ≤ 8191 && u16 r 2 == 0) && (sts.all fun r => u32 r 4 == 0)
  let okOrder := ascending steps && ascending routes && ascending queues && ascending state &&
    ascending tram && ascending region && runsApart tram && runsApart region
  if okLen && okRec && okOrder then
    some { part := u16 c 16 % 1024, n := n, size := u8 c 20, build := u64 c 24, steps := steps, routes := routes
           expect := exp, windows := (List.range 256).map fun t => (u32 win (8 * t), u32 win (8 * t + 4))
           queues := queues, state := state, tram := tram, region := region
           masks := (body 9).map fun b => (List.range 16).map fun i => u32 b (4 * i) }
  else none

/-- The step word of evaluator `e` of tile `t` at step `s` in an image; IDLE where it names none. -/
def imgStep (im : Img) (t e s : Nat) : BitVec 80 :=
  match im.steps.find? fun b => b.1 == t with
  | some b => BitVec.ofNat 80 (natOf ((b.2.drop (10 * (im.n * e + s))).take 10))
  | none => idleWord 0

/-- A send-route entry of an image. -/
def imgRoute (im : Img) (t k : Nat) : Nat :=
  match im.routes.find? fun b => b.1 == t with
  | some b => b.2.getD k 0
  | none => 0

/-- An expect bit of an image. -/
def imgExpect (im : Img) (t n : Nat) : Bool := bitOf (u8 im.expect (64 * t + n / 8)) (n % 8)

/-- The binding word of a queue in an image. -/
def imgQueue (im : Img) (q : Nat) : Option Nat := (im.queues.find? fun r => r.1 == q).map (·.2)

/-- A violation: its place in the order of R64, its code, tile, step and evaluator, and send-route entry. -/
structure Viol where
  key : Nat
  code : Nat
  tile : Nat
  step : Nat
  ev : Nat
  entry : Nat
deriving DecidableEq, Repr

/-- A violation at a step word or tile. -/
def violAt (code t s e entry : Nat) : Viol := ⟨((t * 1024 + s) * 512 + e) * 64 + code, code, t, s, e, entry⟩

/-- A violation of the whole partition ranks after all others. -/
def violPart (code : Nat) : Viol := ⟨2 ^ 40 + code, code, 0, 0, 0, 0⟩

/-- Whether a step names an endpoint it may not (code 8). -/
def endpointBad (im : Img) (t : Nat) (w : BitVec 80) : Bool :=
  let k := kindOf w
  let dst := dstOf w
  let bad := fun e => (imgQueue im (32 * t + e)).isNone
  if k == 3 then bad (dst / 32)
  else if k == 4 then
    match imgQueue im (32 * t + dst / 32) with
    | none => true
    | some q => bitOf q 1 != decide (dst / 8 % 4 < 2)
  else if k == 6 && dst / 256 == 1 then bad (dst % 32)
  else false

/-- The violations of one step word, sends apart (R63, R138). -/
def wordViols (im : Img) (t s e : Nat) : List Viol :=
  let w := imgStep im t e s
  let k := kindOf w
  let reads := readsOperands k
  let put := fun (b : Bool) (c : Nat) => if b then [violAt c t s e 0] else []
  put (8 ≤ k) 1 ++
  put (reads && (selectors w).any fun x => 0x962 ≤ x && x < 0xFFE) 2 ++
  put (dstBad w) 3 ++ put (!reads && outxOf w != 0) 4 ++
  put (reads && (selectors w).any fun x => 0x600 ≤ x && x < 0x800 && !imgExpect im t (x - 0x600)) 7 ++
  put (endpointBad im t w) 8 ++ put (mportBad w) 11

/-- The sends of a tile in order: step, evaluator, and whether over a rope (R54). -/
def imgSends (im : Img) (t : Nat) : List (Nat × Nat × Bool) :=
  (List.range im.n).flatMap fun s => (List.range 512).flatMap fun e =>
    let w := imgStep im t e s
    let o := if readsOperands (kindOf w) then outxOf w else 0
    (if o % 2 == 1 then [(s, e, false)] else []) ++ (if 2 ≤ o then [(s, e, true)] else [])

/-- The send violations of a tile (codes 5 and 6). -/
def sendViols (d : Dev) (im : Img) (t : Nat) : List Viol :=
  let ss := imgSends im t
  (match ss[4096]? with
   | some (s, e, _) => [violAt 5 t s e 4096]
   | none => []) ++
  ((ss.take 4096).zipIdx.filter fun x => routeBad d im.part (imgRoute im t x.2) x.1.2.2).map fun x =>
    violAt 6 t x.1.1 x.1.2.1 x.2

/-- The SAMPLE records a tile can write in a traverse (R177). -/
def sampleCount (im : Img) (t : Nat) : Nat :=
  (List.range im.n).foldl (fun n s =>
    let qs := (List.range 512).filterMap fun e =>
      let w := imgStep im t e s
      if kindOf w == 4 then some (dstOf w / 32, dstOf w / 8 % 4) else none
    match qs.getLast? with
    | none => n
    | some l => n + (qs.filter fun q => q.2 == 2).length + 1 +
        (((qs.filter fun q => q.2 == 1 && q.1 != l.1).map (·.1)).foldr insertOnce []).length) 0

/-- Whether a queue binding has a bad format (code 16). -/
def bindingBad (q : Nat) : Bool :=
  let owner := bitsOf q 17 12
  !bitOf q 0 || decide (11 < bitsOf q 7 4) || bitsOf q 11 8 == 0 || (bitOf q 2 && bitOf q 1) ||
    !(decide (owner < 36) || (decide (40 ≤ owner) && decide (owner ≤ 43))) || decide (1 ≤ q / 2 ^ 24)

/-- Bytes of a binding's ring, rounded up to 4 KiB. -/
def ringBytes (q : Nat) : Nat := ceilTo 4096 (2 ^ (bitsOf q 11 8 + bitsOf q 7 4 + 5))

/-- Bindings driven over the relay (R186 code 18, R198). -/
def relayBindings (im : Img) (mgrPart : Nat) : Nat :=
  if im.part == mgrPart then 0
  else (im.queues.filter fun r => let o := bitsOf r.2 17 12; 40 ≤ o && o ≤ 43).length

/-- The violations that are checked whether or not image checking is on (R138, R177, R186). -/
def alwaysViols (d : Dev) (im : Img) (relaysBefore mgrPart : Nat) : List Viol :=
  let ws := im.windows.zipIdx.filter fun w => w.1.2 != 0
  let clash := ws.flatMap fun a => (ws.filter fun b => a.2 < b.2 && a.1.1 < b.1.1 + b.1.2 && b.1.1 < a.1.1 + a.1.2).map
    fun b => violAt 12 b.2 0 0 0
  let range := (ws.filter fun w => im.size * 16384 < w.1.1 + w.1.2).map fun w => violAt 13 w.2 0 0 0
  let smp := ((List.range 256).filter fun t => 64 < sampleCount im t).map fun t => violAt 15 t 0 0 0
  let bind := (im.queues.filter fun r => bindingBad r.2).map fun r => violAt 16 (r.1 / 32) 0 0 0
  let rings := (im.queues.map fun r => ringBytes r.2).foldl (· + ·) 0
  clash ++ range ++ smp ++ bind ++
  (if getF d QUE_AREA_RING_MIB * 2 ^ 20 < rings then [violPart 17] else []) ++
  (if 8192 < relaysBefore + relayBindings im mgrPart then [violPart 18] else [])

/-- Every violation of check 10 (R63, R64, R138, R177, R186). -/
def violations (d : Dev) (im : Img) (noCheck : Bool) (relaysBefore mgrPart : Nat) : List Viol :=
  (if noCheck then []
   else (List.range 256).flatMap fun t =>
     ((List.range im.n).flatMap fun s => (List.range 512).flatMap fun e => wordViols im t s e) ++ sendViols d im t) ++
  alwaysViols d im relaysBefore mgrPart

/-- The first of a list of violations in the order of R64. -/
def firstViol : List Viol → Option Viol
  | [] => none
  | v :: r => match firstViol r with
    | some u => if v.key ≤ u.key then some v else some u
    | none => some v

/-- RESULT of a refused image (R287 step 4). The entry field holds 12 bits: for code 5 the entry that the 4,097th send would consume,
4,096, reads 0 in it (DESIGN CHOICE, row 106). -/
def refusal (part code count tile step ev entry : Nat) : List Nat :=
  [code + min count 65535 * 2 ^ 16, tile + ev * 2 ^ 8 + step * 2 ^ 17, entry % 4096 + part * 2 ^ 16, 0]

/-- Bytes the image and every service area need together (R310 check 6). -/
def spaceNeeded (d : Dev) (size : Nat) : Nat :=
  (size + getF d CKP_AREA_SIZE_GIB + getF d VIS_TRACE_AREA_SIZE_GIB + getF d VIS_RPL_AREA_SIZE_GIB + 2) * 2 ^ 30 +
  (getF d CKP_JOURNAL_SIZE_MIB + getF d QUE_AREA_RING_MIB + getF d QUE_HOLD_SIZE_MIB + getF d MEM_PLOG_SIZE_MIB) * 2 ^ 20

/-- Whether an initial run leaves its space (R310 check 9, R462). -/
def initBad (im : Img) : Bool :=
  (im.state.any fun r => 131072 ≤ r.1) || (im.tram.any fun r => 2097152 < r.1 + r.2.length) ||
    im.region.any fun r => im.size * 2 ^ 27 < r.1 + r.2.length

/-- Check a container (R310): the image, or the RESULT of its refusal. `mgrN` and `mgrBuild` are those of the manager's
partition, where its header has been read. -/
def checkImage (d : Dev) (c : List Byte) (part : Nat) (noCheck : Bool) (mgrN mgrBuild : Option Nat) (relays mgrPart : Nat) :
    Except (List Nat) Img :=
  let no := fun code => Except.error (refusal part code 1 0 0 0 0)
  let zeros := fun lo n => ((c.drop lo).take n).all (· == 0#8)
  let n := u16 c 18
  let len := u64 c 8
  if c.length < 64 || u32 c 0 != 0x4D494E4B || u8 c 5 != 1 || crc32 (c.take 60) != u32 c 60 || !zeros 21 3 || !zeros 32 28
    || u16 c 16 / 1024 != 0 then no 19
  else if u16 c 16 != part || !(holds d && myPart d == part) then no 20
  else if n < 16 || 1024 < n || n % 16 != 0 then no 9
  else if mgrN.any (· != n) then no 10
  else if mgrBuild.any (· != u64 c 24) then no 21
  else if (if isProtected d then 64 else 88) < u8 c 20 then no 14
  else if 96 * 2 ^ 30 < spaceNeeded d (u8 c 20) then no 22
  else if c.length < len || len < 64 then no 19
  else
    match knimSections (u16 c 6) ((c.take len).drop 64) with
    | none => no 19
    | some ss =>
      match imgOf c ss with
      | none => no 19
      | some im =>
        if ss.any fun s => crc32 s.body != s.tag then no 23
        else if initBad im then no 24
        else
          let vs := violations d im noCheck relays mgrPart
          match firstViol vs with
          | some v => Except.error (refusal part v.code vs.length v.tile v.step v.ev v.entry)
          | none =>
            if noCheck then .ok im
            else
              match (List.range 256).findSome? fun t => (imgSends im t).zipIdx.findSome? fun x =>
                  if x.1.2.2 && (pmap d (imgRoute im t x.2 / 2 ^ 17 % 1024)).isNone then some (t, x.1.1, x.1.2.1, x.2)
                  else none with
              | some (t, s, e, k) => Except.error (refusal part 25 1 t s e k)
              | none => .ok im

/-- Name the areas that registers report (R205, R220, R185, R198). -/
def layArea (d : Dev) : Dev :=
  let d := set2 (set2 d VIS_TRACE_BASE_LO (areaBase d 3)) VIS_RPL_BASE_LO (areaBase d 4 + 2 ^ 24)
  let dt := areaBase d 0
  let d := { d with qu := { d.qu with dtab := dt, rtab := dt + 2 ^ 18 } }
  sizeTrace (set2 (set2 d QUE_DTAB_LO dt) QUE_RTAB_LO (if isMgr d then dt + 2 ^ 18 else 0))

/-- Fold values into a store from a key on. -/
def storeRun {α : Type} [DecidableEq α] (dflt : Nat → α) (st : Store α) (key : Nat) (vs : List α) : Store α :=
  sputs dflt st key vs

/-- Write an image's step words, route tables, expect masks and windows into the fabric (R249, R250, R310). -/
def loadTables (im : Img) (d : Dev) : Dev :=
  let steps := im.steps.foldl (fun st b => (List.range 512).foldl (fun st e => (List.range im.n).foldl (fun st s =>
    sset idleWord st (1024 * (512 * b.1 + e) + s) (imgStep im b.1 e s)) st) st) ([] : Store (BitVec 80))
  let routes := im.routes.foldl (fun st b => sputs (fun _ => 0#32) st (4096 * b.1) (b.2.map (BitVec.ofNat 32)))
    ([] : Store Word)
  let exp := (List.range 131072).foldl (fun st k => sset noBit st k (imgExpect im (k / 512) (k % 512))) ([] : Store Bool)
  let d := { d with fab := { d.fab with
    step := steps
    route := routes
    expect := exp
    winBase := sputs zeroAt [] 0 (im.windows.map fun w : Nat × Nat => w.1)
    winSize := sputs zeroAt [] 0 (im.windows.map fun w : Nat × Nat => w.2) } }
  setF (setF (eccClearRange (eccKey 0 0) (2 ^ 40) { d with hs := { d.hs with region := im.size } }) TRV_LENGTH_N im.n) MEM_REGION_SIZE_GIB im.size

/-- The image a container holds, where its framing is sound. -/
def imageOf (c : List Byte) : Option Img :=
  (knimSections (u16 c 6) ((c.take (u64 c 8)).drop 64)).bind (imgOf c)

/-- Put an image's probe masks into force (R309). -/
def putMasks (im : Img) (d : Dev) : Dev :=
  match im.masks with
  | some ms => sizeTrace (each ms.zipIdx (fun x d =>
      setR d (if x.2 < 8 then VIS_TRACE_TMASK x.2 else VIS_RPL_TMASK (x.2 - 8)) (BitVec.ofNat 32 x.1)) d)
  | none => sizeTrace d

/-- The target set of R72: the partitions that the rope sends of a device's tiles name. -/
def targetSet (im : Img) : List Nat :=
  ((List.range 256).flatMap fun t => (imgSends im t).zipIdx.filterMap fun x =>
    if x.1.2.2 && decide (x.2 < 4096) then some (imgRoute im t x.2 / 2 ^ 17 % 1024) else none).foldr insertOnce []

/-- Bind an image's queues: descriptors, with rings laid out in the ring area in queue order (R184). -/
def bindQueues (im : Img) (s : State) : State :=
  let d := s.dev
  let mine := im.part == (if isMgr d then myPart d else 1024)
  let r := im.queues.foldl (fun (r : Nat × State) q =>
    let w := q.2
    let o := bitsOf w 17 12
    let x : QDesc := { desc0 0 with
      bound := bitOf w 0, fromDesign := bitOf w 1, blocking := bitOf w 2, notify := bitOf w 3, slotLog := bitsOf w 7 4
      countLog := bitsOf w 11 8, owner := if mine && 40 ≤ o then o - 8 else o, vector := bitsOf w 23 18
      homeQ := q.1, homePart := im.part, base := r.1 }
    (r.1 + ringBytes w, setDesc q.1 x r.2)) (areaBase d 1, onDev (fun d => { d with qu := { d.qu with desc := [] } }) s)
  r.2

end Sys2Proof.Machine
end

