-- ==== Sys2Proof/Machine/Container.lean ====
section
/-! DEFINITION. The KNCF configuration container: its checks, and what it gives the registers (R301-R306). -/

namespace Sys2Proof.Machine

/-- A section of a KNCF container: TYPE, the upper half of the header's first word, and the body without padding. -/
structure KncfSection where
  ty : Nat
  top : Nat
  body : List Byte
deriving DecidableEq, Repr

/-- The sections after the header, at most `n` (R303); none where one runs beyond the bytes given or their number differs. -/
def kncfSections : Nat → List Byte → Option (List KncfSection)
  | 0, l => if l.isEmpty then some [] else none
  | n + 1, l =>
    let len := u32 l 4
    let total := 8 + (len + 7) / 8 * 8
    if l.length < 8 || l.length < total then none
    else (kncfSections n (l.drop total)).map (⟨u16 l 0, u16 l 2, (l.drop 8).take len⟩ :: ·)

/-- The first section of a type. -/
def sectionOf (ss : List KncfSection) (ty : Nat) : Option (List Byte) := (ss.find? fun x => x.ty == ty).map (·.body)

/-- The body length R304 gives a known type; none where any is right. -/
def kncfLength (x : KncfSection) : Option Nat :=
  if x.ty == 1 then some 8 else if x.ty == 2 then some 72 else if x.ty == 3 then some 128
  else if x.ty == 4 then some (8 + 2 * u32 x.body 0 + u32 x.body 4)
  else if x.ty == 5 then some 8 else if x.ty == 6 then some 56 else if x.ty == 7 then some 256
  else if x.ty == 8 then some 16 else if x.ty == 9 then some 4 else if x.ty == 10 then some 8 else none

/-- Whether a type appears twice. -/
def twice : List Nat → Bool
  | [] => false
  | a :: r => r.contains a || twice r

/-- The two limits of each AREAS field, by its place. -/
def areaLimits : List (Nat × Nat) := [(1, 16), (8, 24), (64, 16384), (64, 16384), (1, 32), (1, 32), (64, 1024), (0, 0)]

/-- Whether the fields of a section lie in their ranges and its reserved bits are 0 (R304, R305). -/
def kncfFields (x : KncfSection) : Bool :=
  let b := x.body
  let words := (chunksOf 4 b).map natOf
  bitsOf x.top 15 1 == 0 &&
  (if x.ty == 1 then
    let v := u64 b 0
    let p := bitsOf v 19 13
    decide (1 ≤ p) && decide (p ≤ 64) && bitsOf v 63 41 == 0
  else if x.ty == 2 then words.all fun w => bitsOf w 17 16 != 3 && bitsOf w 31 18 == 0
  else if x.ty == 4 then
    let p := u32 b 0
    decide (1 ≤ p) && decide (p ≤ 65536) && decide (u32 b 4 ≤ 131072) &&
      (chunksOf 2 ((b.drop 8).take (2 * p))).all fun c => decide (natOf c < 16384)
  else if x.ty == 5 then
    let cap := u16 b 0
    let warn := u8 b 2
    let crit := u8 b 3
    decide (150 ≤ cap) && decide (cap ≤ 720) && decide (70 ≤ warn) && decide (warn ≤ 100) && decide (warn + 5 ≤ crit) &&
      decide (crit ≤ 110) && u32 b 4 == 0
  else if x.ty == 6 then
    decide (u8 b 16 < 2) && ((b.drop 17).take 3).all (· == 0#8) && (b.drop 20).all fun c => decide (c.toNat ≤ 4) || c == 0xFF#8
  else if x.ty == 7 then
    words.all fun w => (decide (w % 16 ≤ 6) || w % 16 == 15) && bitsOf w 31 10 == 0
  else if x.ty == 8 then
    ((chunksOf 2 b).zip areaLimits).all fun c => natOf c.1 == 0 || (decide (c.2.1 ≤ natOf c.1) && decide (natOf c.1 ≤ c.2.2))
  else if x.ty == 9 then b.all fun c => decide (c.toNat < 8)
  else if x.ty == 10 then decide (1000 ≤ u32 b 0) && decide (u32 b 0 ≤ 600000) && u32 b 4 == 0
  else true)

/-- The bytes of a copy as the flash returns them: erased bytes past the programmed ones read 0xFF (R305). -/
def flashBytes (c : List Byte) (n : Nat) : List Byte :=
  let h := c.take n
  h ++ List.replicate (n - h.length) 0xFF#8

/-- The check a copy fails (R305), coded as NVM_STATUS codes it; 0 when it passes. -/
def kncfFail (c : List Byte) : Nat :=
  let h := flashBytes c 32
  let len := u32 h 8
  if u32 h 0 != 0x46434E4B || u8 h 5 != 1 then 1
  else if len < 32 || 12 * 2 ^ 20 < len then 2
  else
    let b := flashBytes c len
    if crc32 (b.take 12 ++ [0#8, 0#8, 0#8, 0#8] ++ b.drop 16) != u32 h 12 then 3
    else match kncfSections (u16 h 6) (b.drop 32) with
      | none => 4
      | some ss =>
        let known := fun x : KncfSection => decide (1 ≤ x.ty) && decide (x.ty ≤ 11)
        let mgr := match sectionOf ss 1 with
          | some i => bitsOf (u64 i 0) 11 10 == 1
          | none => false
        if twice (ss.map (·.ty)) || !(ss.all fun x => match kncfLength x with
            | some n => x.body.length == n
            | none => true) then 4
        else if !([1, 2, 4] ++ (if mgr then [3] else [])).all (fun t => ss.any fun x => x.ty == t) ||
            ss.any (fun x => !known x && bitOf x.top 0) then 5
        else if !(ss.all kncfFields) || !((b.drop 16).take 16).all (· == 0#8) then 6
        else 0

/-- The sections of the applied container. -/
def applied (d : Dev) : List KncfSection := (kncfSections (u16 d.nvm 6) (d.nvm.drop 32)).getD []

/-- The positions the manager's SYSTEM section says are populated (R304). -/
def systemSet (d : Dev) : List Nat :=
  match sectionOf (applied d) 3 with
  | some b => (List.range 1024).filter fun p => bitOf (u16 b (2 * (p / 16))) (p % 16)
  | none => []

end Sys2Proof.Machine
end

