-- ==== Sys2Proof/Machine/Restore.lean ====
section
/-! DEFINITION. Commits, rollbacks, adoption and replay as they act on one device's state (R164, R173, R178, R180-R182,
R195, R202, R218, R221, R250, R254). -/

namespace Sys2Proof.Machine

/-- Tile RAM as at boundary `k`: the present contents with the saves laid back (R157). -/
def tramStoreAt (d : Dev) (k : Nat) : Store DWord :=
  let blks := ((fromK d k).flatMap fun c => c.tram.map (·.1)).foldr insertOnce []
  blks.foldl (fun st b => (List.range 32).foldl (fun st i => sset zero64 st (32 * b + i) (tramAt d k (32 * b + i))) st)
    d.fab.tram

/-- The words of the entry that was open at a position record (R202): the open entry's, or those of the entry it became
when it closed or was dropped since. -/
def openWords (d : Dev) (q closed dropped n : Nat) : List Word :=
  let ws := match d.qu.drops.find? fun e => e.1 == dropped && e.2.q == q && e.2.index == closed with
    | some e => e.2.data
    | none => match d.qu.held.find? fun e => e.q == q && e.index == closed with
      | some e => e.data
      | none => (epOf d q).words
  (ws ++ List.replicate n 0#32).take n

/-- An endpoint at its position record (R201, R202). -/
def endpointAt (d : Dev) (qpos : Store DWord) (q : Nat) : Endpoint :=
  let x := epOf d q
  let w := fun i => (sget zero64 qpos (4 * q + i)).toNat
  if bitOf (w 3) 0 then
    { x with staging := 0, closed := w 0, words := openWords d q (w 0) (w 2) (w 1 % 2 ^ 63), trunc := bitOf (w 1) 63
             dropped := w 2 }
  else { x with staging := 0, acked := w 0, popped := w 1 }

/-- What every device does at a restore, whether or not it holds a partition (R74): its counts and its stored floors are the restored
count, RESTORES counts, and host waits end. -/
def restoreCounts (k : Nat) (d : Dev) : Dev :=
  let d := setCounts k (withdrawWaits d)
  bumpF { d with tv := { d.tv with floors := d.tv.targets.foldl (fun st p => sset zeroAt st p k) [], arrived := false, fence := none } }
    TRV_STATUS_RESTORES

/-- Restore the tiles to a boundary: Q and D, queue positions, empty slots, no access and no value in flight, every count
`k` (R74, R180 step 3, R218). -/
def restoreTiles (q : Store DWord) (qpos : Store DWord) (tram : Store DWord) (k : Nat) (d : Dev) : Dev :=
  let bound := (List.range 8192).filter fun i => (qdesc d i).bound
  let d := { d with
    fab := { d.fab with q := q, dq := q, tram := tram, slots := [], acc := [], net := [], sends := [], written := [], lds := [], bus := [] }
    lk := { d.lk with sig := [] } }
  let d := each [2, 3, 4, 5] (fun sp d => eccClearRange (eccKey sp 0) (2 ^ 40) d) d
  let eps := bound.map fun i => (i, endpointAt d qpos i)
  let d := each eps (fun e d => setEp d e.1 e.2) d
  setFlag (restoreCounts k d) TRV_STATUS_STALLED false

/-- Read the journal from an offset on (R178). -/
def journalFrom (off : Nat) (d : Dev) : Dev :=
  { d with jr := { d.jr with reading := true, rd := d.jr.recs.filter fun r => decide (off ≤ r.off) } }

/-- Read live values again. -/
def journalLive (d : Dev) : Dev := { d with jr := { d.jr with reading := false, rd := [] } }

/-- Abandon every pending checkpoint (R162, R180 step 2). -/
def abandonAll (d : Dev) : Dev := each d.ck.pends (fun _ d => abandonPending false d) d

/-- Keep only the checkpoints up to CKP_SEQ `seq`: those taken later are laid under it. -/
def keepFrom (seq : Nat) (d : Dev) : Dev :=
  let newer := d.ck.kept.takeWhile fun c => c.seq != seq
  match d.ck.kept.dropWhile fun c => c.seq != seq with
  | c :: r => { d with ck := { d.ck with kept := newer.reverse.foldl mergeSaves c :: r } }
  | [] => d

/-- Discard what the rollback to `k` withdraws: fences, deltas of later intervals, held outputs, trace records (R180 step
2, R208). -/
def discardAfter (seq k : Nat) (d : Dev) : Dev :=
  let d := { d with
    par := { d.par with queue := d.par.queue.filter fun x => decide (x.seq8 ≤ seq), sent := d.par.sent.filter fun e => decide (e.1 ≤ seq)
                        due := d.par.due.filter fun x => decide (x.1 ≤ seq) }
    ck := { d.ck with jdue := d.ck.jdue.filter (fun x => decide (x.1 ≤ seq)), gone := d.ck.gone.filter fun n => decide (n ≤ seq) }
    qu := { d.qu with acks := d.qu.acks.filter fun a => decide (a.2 < k) } }
  dropTrace k (setF d MEM_PQUEUE_DEPTH d.par.queue.length)

/-- Discard the held entries of traverses `k` and later, once the open entries are restored (R202). -/
def discardHeld (k : Nat) (d : Dev) : Dev :=
  syncHold { d with qu := { d.qu with held := d.qu.held.filter fun e => decide (e.trav < k)
                                      drops := d.qu.drops.filter fun e => decide (e.2.trav < k) } }

/-- A spare's part of a rollback (R180 step 4): staging, and the parity intervals after K. A rollback to the previous checkpoint (R181)
leaves parity as of a later one: it is rebuilt as after a full log (DESIGN CHOICE, row 110). -/
def spareRollback (seq : Nat) (d : Dev) : Dev :=
  let d := { d with
    par := { d.par with log := d.par.log.filter fun x => decide (x.seq8 ≤ seq), marks := d.par.marks.filter fun m => decide (m.2.1 ≤ seq)
                        got := [] }
    wk := d.wk.map fun e => (e.1, { e.2 with stage := [], flits := 0, endSeq := 0, endK := 0, endFlits := 0 }) }
  let d := setR d MEM_PLOG_FILL (BitVec.ofNat 32 d.par.log.length)
  if seq != (latest d).1 && flag d MEM_REGION_PARITY_VALID then
    setFlag (setFlag { d with par := { d.par with log := [], rebuilding := true, krSeq := 0, ends := [] } } MEM_REGION_PARITY_VALID false)
      RES_STATUS_PROTECTED false
  else d

/-- A device whose copy of the target has an uncorrectable error reports it and restores nothing (R181). -/
def reportCopy (a : Nat) (d : Dev) : Dev :=
  let d := { d with free := d.free + 1, ck := { d.ck with rollEnd := false } }
  (record 0x06 2 2 0 (trvCount d) a (wasInjected d (eccKey 6 (a / 8))) (noteHbmFault a d)).2

/-- A rollback to a committed checkpoint on a device that holds it (R180 steps 2 to 4, R182). -/
def rollbackTo (seq k : Nat) (d : Dev) : Dev :=
  let h := highBegun d
  let d := { d with rs := { d.rs with hd := some ((d.rs.hd.map (later h)).getD h) }
                    md := { d.md with resumed := mode d == 7 } }
  let d := discardAfter seq k (keepFrom seq (abandonAll d))
  let d := { d with ck := { d.ck with requesting := false, replies := [], lastBound := k, rollEnd := true, doneK := k } }
  let d := if role d == 3 && !holds d then spareRollback seq d else d
  match d.ck.kept.find? fun c => c.seq == seq with
  | some c =>
    match copyBad d with
    | some a => reportCopy a d
    | none =>
    let pages := ((fromK d k).flatMap fun x => x.pages.map (·.1)).foldr insertOnce []
    let d := discardHeld k (restoreTiles c.q c.qpos (tramStoreAt d k) k d)
    let d := { d with ck := { d.ck with restore := pages, restoreK := k } }
    syncCkp (setFlag (journalFrom c.jmark d) CKP_STATUS_RESTORING (!pages.isEmpty))
  | none => syncCkp (restoreCounts k d)

/-- Insert in the order of (traverse, queue). -/
def insertHeld (e : HeldEntry) : List HeldEntry → List HeldEntry
  | [] => [e]
  | x :: r => if e.trav < x.trav || (e.trav == x.trav && e.q < x.q) then e :: x :: r else x :: insertHeld e r

/-- Release the queue outputs of traverses before `k`, in order of traverse, then queue (R173, R193, R195). -/
def releaseOutputs (k : Nat) (s : State) : State :=
  let out := (s.dev.qu.held.filter fun e => decide (e.trav < k)).foldl (fun l e => insertHeld e l) []
  let acks := s.dev.qu.acks.filter fun a => decide (a.2 < k)
  let s := onDev (fun d => { d with qu := { d.qu with held := d.qu.held.filter (fun e => !decide (e.trav < k))
                                                      drops := d.qu.drops.filter (fun e => !decide (e.2.trav < k))
                                                      acks := d.qu.acks.filter fun a => !decide (a.2 < k) } }) s
  let s := each out releaseEntry s
  onDev syncHold (each acks (fun a s => advanceCons a.1 s) s)

/-- Apply parity deltas to the parity words (R155). -/
def applyDeltas (ls : List PLog) (s : State) : State :=
  each ls (fun l s => putWord l.addr (hbmWord s.mem l.addr ^^^ l.delta) s) s

/-- A spare's part of a commit (R155, R164, R170): parity intervals up to the checkpoint are applied while parity is
consistent, and the staged copies are promoted. -/
def spareCommit (seq : Nat) (s : State) : State :=
  let now := s.dev.par.log.filter fun x => decide (x.seq8 ≤ seq)
  let rest := s.dev.par.log.filter fun x => !decide (x.seq8 ≤ seq)
  let valid := flag s.dev MEM_REGION_PARITY_VALID
  let promote := fun (w : WorkerCopy) =>
    if w.endSeq != seq then w
    else
      let st := fun (kind : Nat) (old : Store DWord) => (w.stage.filter fun x => x.1 == kind).foldl
        (fun o x => sset zero64 o x.2.2.1 x.2.2.2) old
      { w with state := st 0 w.state, tram := st 1 w.tram, qpos := st 2 w.qpos, stage := [], flits := 0, endSeq := 0
               endFlits := 0 }
  let d := { s.dev with
    par := { s.dev.par with
      marks := s.dev.par.marks.filter fun m => !decide (m.2.1 ≤ seq)
      got := s.dev.par.got.filter fun e => !decide (e.1 % 2 ^ 32 ≤ seq)
      log := if s.dev.par.rebuilding && s.dev.par.krSeq != 0 then s.dev.par.log else rest }
    wk := s.dev.wk.map fun e => (e.1, promote e.2) }
  let d := setR d MEM_PLOG_FILL (BitVec.ofNat 32 d.par.log.length)
  -- a parity rebuild (R155, R267): the first checkpoint that commits is K_r; the stream covers the intervals up to it,
  -- and the first commit after the stream has ended makes parity consistent again
  if valid then applyDeltas now { s with dev := d }
  else if s.dev.par.rebuilding && s.dev.par.krSeq == 0 then
    let d := { d with par := { d.par with krSeq := seq, log := rest, ends := [] } }
    let workers := (holders d).filter fun p => p / 16 == myParty d
    clearMem 0 (64 * 2 ^ 30) { s with dev := each workers (fun p d => sendPos 0x12 13 p (sysctl d (myPos d) 0 0) d) d }
  else if s.dev.par.rebuilding then
    let workers := (holders d).filter fun p => p / 16 == myParty d
    if workers.all s.dev.par.ends.contains then
      let later := s.dev.par.log.filter fun x => decide (x.seq8 ≤ seq)
      let d := { d with par := { d.par with rebuilding := false, krSeq := 0, log := rest, ends := [] } }
      let d := setFlag (setFlag (setFlag d MEM_REGION_PARITY_VALID true) RES_STATUS_PROTECTED true) RES_STATUS_RESTORING false
      applyDeltas later { s with dev := setR d MEM_PLOG_FILL (BitVec.ofNat 32 rest.length) }
    else { s with dev := d }
  else { s with dev := d }

/-- A commit at a device (R164): the pending checkpoint becomes the latest, saves, records and dirt that nothing needs are
freed, outputs are released, and a spare promotes what it has staged. -/
def applyCommit (seq k : Nat) (s : State) : State :=
  match s.dev.ck.pends.find? fun c => c.seq == seq && c.k == k with
  | none => s
  | some c =>
    let d := s.dev
    let d := { d with
      ck := { d.ck with pends := d.ck.pends.filter (fun x => x.seq != seq), kept := c :: d.ck.kept, commits := d.ck.commits + 1
                        full := if d.ck.full == 2 && d.ck.streamed then 0 else d.ck.full
                        readys := [], streamed := false, jackEnd := 0, gone := d.ck.gone.filter fun n => decide (seq < n) }
      fab := { d.fab with dirty := d.fab.dirty.filter fun e => (c :: d.ck.pends).any fun x => decide (c.k ≤ x.k) && x.tram.any fun y => y.1 == e.1 }
      cn := { d.cn with lastC2 := none } }
    let d := setF (setFlag (setFlag d CKP_STATUS_READY_SENT false) CKP_STATUS_DEGRADED false) CKP_ABANDON_RUN 0
    let d := if mode d == 4 && k == trvCount d then setFlag d CKP_STATUS_EDITED false else d
    let d := irqEvent 4 (pulseStatus 5 (trimJournal (syncCkp (trimHistory d))))
    let s := releaseOutputs k { s with dev := d }
    if role s.dev == 3 && !holds s.dev then spareCommit seq s else s

/-- The committed checkpoint an adopting spare makes of its copies (R250). -/
def adoptedCkpt (w : WorkerCopy) (seq k : Nat) : Ckpt where
  seq := seq
  k := k
  tiles := List.range 256
  q := w.state
  qpos := w.qpos
  tram := []
  pages := []
  jmark := 0

/-- The journal mirror of a worker as records, from the MARK of K on (R176): the words in order of offset, cut at record
boundaries. -/
def mirrorRecs : Nat → Nat → List DWord → List JRec
  | 0, _, _ => []
  | _ + 1, _, [] => []
  | n + 1, off, w :: r =>
    let ty := w.toNat % 4
    let len := if ty == 2 then 2 + (w.toNat / 2 ^ 32 + 7) / 8 else 1
    ⟨off, 0, (w :: r).take len⟩ :: mirrorRecs n (off + len) ((w :: r).drop len)

/-- The words of a worker's mirror in order of offset. -/
def mirrorWords (w : WorkerCopy) : List (Nat × DWord) :=
  let st := w.jrnl.foldl (fun (o : Store DWord) x => sins (sdel o x.2.1) x.2.1 x.2.2) []
  st

/-- Rebuild the rings from the mirrored ENTRY records (R254). Of a from-design queue they are the released entries from CONS on: the
first, as many as the ring has slots, stand in it, and the rest wait in the backlog. -/
def rebuildRings (s : State) : State :=
  let qs := (List.range 8192).filter fun q => (qdesc s.dev q).bound
  let ents := s.dev.jr.recs.filter fun r => (r.words.headD 0).toNat % 4 == 2
  let qOf := fun (r : JRec) => (r.words.headD 0).toNat / 4 % 8192
  let bytes := fun (r : JRec) => ((r.words.drop 2).flatMap fun w => bytesOf 8 w.toNat).take ((r.words.headD 0).toNat / 2 ^ 32)
  each qs (fun q s =>
    let mine := ents.filter fun r => qOf r == q
    let idx := mine.map fun r => (r.words.getD 1 0).toNat
    let first := minList (epOf s.dev q).acked idx
    let prod := idx.foldl (fun n i => max n (i + 1)) (if (qdesc s.dev q).fromDesign then first else (epOf s.dev q).acked)
    let x := qdesc s.dev q
    let inRing := fun (i : Nat) => !x.fromDesign || decide (i < first + slots x)
    let wait := (mine.filter fun r => !inRing (r.words.getD 1 0).toNat).map fun (r : JRec) =>
      (⟨q, (r.words.getD 1 0).toNat, false, (chunksOf 4 (bytes r)).map fun c => BitVec.ofNat 32 (natOf c), 0⟩ : HeldEntry)
    let prod := if x.fromDesign then min prod (first + slots x) else prod
    let x := { x with prod := prod, cons := if x.fromDesign then first else min (epOf s.dev q).acked prod
                      orphan := x.owner < 36 }
    let s := onDev (fun d => { d with qu := { d.qu with backlog := d.qu.backlog ++ wait } }) (setDesc q x s)
    each (mine.filter fun r => inRing (r.words.getD 1 0).toNat) (fun r s =>
      let i := (r.words.getD 1 0).toNat
      let slot := bytesOf 8 (bytes r).length ++ bytesOf 8 i ++ bytes r
      putMem (slotAddr x i) slot s) s) s

/-- The rebuild of an adopted region begins (R256): every page of the partition is still to be rebuilt. -/
def startRebuild (d : Dev) : Dev :=
  let n := getF d MEM_REGION_SIZE_GIB * 2 ^ 18
  setR { d with par := { d.par with pageEnd := n, rebuilt := [], pageGot := [], pageEnds := [] } } RES_REBUILD (BitVec.ofNat 32 n)

/-- The spare restores the partition it adopts from its copies (R250, R254): state, tile RAM, queue positions, rings and
journal at K. -/
def adoptRestore (pos seq k : Nat) (s : State) : State :=
  match s.dev.wk.find? fun e => e.1 == pos with
  | none => s
  | some (_, w) =>
    let ws := mirrorWords w
    let recs := mirrorRecs ws.length ((ws.head?.map (·.1)).getD 0) (ws.map (·.2))
    let mark := (recs.find? fun r => r.words == markRec seq).map (·.off)
    let c := { adoptedCkpt w seq k with jmark := mark.getD 0 }
    let d := s.dev
    let d := { d with ck := { d.ck with kept := [c], pends := [], jdue := [], gone := [], restore := [], rollEnd := true, doneK := k, lastBound := k }
                      jr := { d.jr with recs := recs, wr := (recs.getLast?.map fun r => r.off + r.words.length).getD 0 }
                      md := { d.md with resumed := mode d == 7 } }
    let d := startRebuild (restoreTiles c.q c.qpos w.tram k d)
    let open_ := (List.range 8192).filter fun q => (qdesc d q).bound && (qdesc d q).fromDesign
    let freeWord := fun (n i : Nat) => BitVec.ofNat 32 (natOf ((List.range 4).map fun j => Config.freeByte (n + 4 * i + j)))
    let d := each open_ (fun q d =>
      onEp q (fun x => { x with words := (List.range x.words.length).map (freeWord d.free) })
        { d with free := d.free + 65536 }) d
    rebuildRings { s with dev := syncCkp (journalFrom c.jmark (emptyTrace { d with vs := { d.vs with resumed := true } })) }

/-- The tile RAM is copied to the base of the replay area (R218 step 1, R220). -/
def copyTram (s : State) : State :=
  let base := areaBase s.dev 4
  each s.dev.fab.tram (fun e s => putWord (base + 8 * e.1) e.2 s) (clearMem base (2 ^ 24) s)

/-- The tile RAM as its copy in the replay area gives it (R221). -/
def tramCopy (d : Dev) (m : Mem) : Store DWord :=
  let base := areaBase d 4
  let ws := ((sslice m base (2 ^ 24)).map (·.1 / 8)).foldr insertOnce []
  ws.foldl (fun st i => sset zero64 st i (hbmWord m (base + 8 * i))) []

/-- The tiles and the window of a device that holds a partition as the replay of `c` begins (R218 steps 2 to 4). -/
def openReplay (c : Ckpt) (d : Dev) : Dev :=
  let tram := tramStoreAt d c.k
  let d := { d with vs := { d.vs with rplEp := d.fab.ep, overlay := [], rplPend := [], rplQ := [], rplMask := maskTiles d VIS_RPL_TMASK
                                      rplFired := 0 } }
  let n := d.vs.rplMask.length * (4096 * b2n d.vs.rplState + 32 * b2n d.vs.rplProbes)
  let d := journalFrom c.jmark (restoreTiles c.q c.qpos tram c.k d)
  let d := set2 (setR (setF d VIS_RPL_RECLEN_BYTES (32 + n)) VIS_RPL_RECORDS 0) VIS_RPL_CUR_LO c.k
  let d := setF (setFlag (setFlag d VIS_RPL_STAT_ACTIVE true) VIS_RPL_STAT_DONE false) VIS_RPL_STAT_ERR 0
  clearStop (setFlag d VIS_RPL_STAT_CAPTURING (decide (d.vs.rplFrom ≤ c.k)))

/-- A device enters the replay of checkpoint `seq` of boundary `k` (R74, R218 steps 1 to 4): it is held until the manager releases the
system. A device that holds no partition takes no part but for the counts. -/
def enterReplay (seq k : Nat) (s : State) : State :=
  let d := s.dev
  let d := setFlag { d with vs := { d.vs with rplSeq := seq, rplK := k, rplS := trvCount d, rplEntrySeq := (latest d).1, rplEnding := false }
                            ck := { d.ck with rollEnd := true, doneK := k } } TRV_STATUS_HOLD true
  match d.ck.kept.find? fun c => c.seq == seq && holds d with
  | some c => onDev (openReplay c) (copyTram { s with dev := d })
  | none => { s with dev := restoreCounts k (clearStop d) }

/-- A replay ends and the state at its entry returns (R221): the overlay is discarded, the records stay. -/
def leaveReplay (s : State) : State :=
  let d := match s.dev.ck.kept.find? fun c => c.seq == s.dev.vs.rplEntrySeq && holds s.dev with
    | some c =>
      let d := restoreTiles c.q c.qpos (tramCopy s.dev s.mem) s.dev.vs.rplS (engineCheck (wordAddrs (areaBase s.dev 4) (2 ^ 24)) s.dev)
      { d with fab := { d.fab with ep := d.vs.rplEp } }
    | none => restoreCounts s.dev.vs.rplS s.dev
  let d := { d with vs := { d.vs with overlay := [], rplEnding := false, rplWait := false, rplFreeze := false, rplQ := [], rplEp := [] } }
  let d := setFlag (setFlag (setFlag d VIS_RPL_STAT_ACTIVE false) VIS_RPL_STAT_CAPTURING false) VIS_RPL_STAT_DONE true
  { s with dev := journalLive (clearStop (releaseHold d)) }

end Sys2Proof.Machine
end

