-- ==== Sys2Proof/Machine/Topo.lean ====
section
/-! DEFINITION. The partition map and the topology check (R16, R19, R20, R240, R299). -/

namespace Sys2Proof.Machine

/-- Put a partition's holder into the map (R240, R241). -/
def setMap (part pos : Nat) (held : Bool) (d : Dev) : Dev :=
  let changed := held && pmap d part != some pos
  let d := setFlag (setF d (RES_PMAP_POSITION part) pos) (RES_PMAP_HELD part) held
  if changed then { bumpF d RES_COUNT_ADOPTIONS with rs := { d.rs with mapChanged := true } } else d

/-- Clear a LOST bit: the module at the position has joined again after a reset (R267, R299). -/
def clearLost (pos : Nat) (d : Dev) : Dev := setFlag d (bitFld (RES_LOST (pos / 32)) (pos % 32)) false

/-- The partition a position holds, by the map. -/
def partOf (d : Dev) (pos : Nat) : Option Nat := (List.range (16 * parties d)).find? fun p => pmap d p == some pos

/-- The known role of a position, as it reported it (R20). -/
def roleOf (d : Dev) (pos : Nat) : Option Nat := (d.rs.topo.find? fun e => e.1 == pos).map (·.2.1)

/-- Note the role of a position. -/
def noteTopo (pos role cfg part : Nat) (d : Dev) : Dev :=
  { d with rs := { d.rs with topo := (pos, role, cfg, part) :: d.rs.topo.filter (·.1 != pos) } }

/-- The SYS_TOPOLOGY fields of the deputy. -/
def setDeputy (pos : Nat) (valid : Bool) (d : Dev) : Dev :=
  setFlag (if valid then setF d SYS_TOPOLOGY_DEP_POS pos else d) SYS_TOPOLOGY_DEP_VALID valid

/-- Tell every device of a position's role (R20, R21): a TOPO result. -/
def tellRole (pos role cfg part : Nat) (d : Dev) : Dev :=
  noteTopo pos role cfg part (broadcast 0x12 1 (sysctl d pos (role + cfg * 4 + b2n (part != 0) * 16 + (part - 1) * 32) 0) d)

/-- A role's report or result as SYSCTL VALUE (R243). -/
def topoValue (d : Dev) : Nat :=
  role d + getF d SYS_ROLE_CFG_ROLE * 4 + b2n (holds d) * 16 + (if holds d then myPart d else 0) * 32

/-- The manager's own entry among the roles. -/
def noteSelf (d : Dev) : Dev := noteTopo (myPos d) (role d) (getF d SYS_ROLE_CFG_ROLE) (if holds d then myPart d + 1 else 0) d

/-- The positions that break R19 among the roles reported, if any do: managers, deputies, spares of one party. -/
def rolesBroken (d : Dev) : Option (Nat × Nat) :=
  let of := fun r => (d.rs.topo.filter fun e => e.2.1 == r).map (·.1)
  let pair := fun (l : List Nat) => match l with
    | a :: b :: _ => some (a, b)
    | _ => none
  match pair (of 1), pair (of 2) with
  | some x, _ => some x
  | none, some x => some x
  | none, none =>
    match (of 2).find? fun p => decide (2 ≤ parties d) && p / 16 == myParty d with
    | some p => some (p, myPos d)
    | none => (List.range 64).findSome? fun q => pair ((of 3).filter fun p => p / 16 == q)

/-- The topology check fails (R20): a C4 fault that names the positions; at the end of BOOT the manager takes the system to
SAFE (R25). -/
def topoFails (a b : Nat) (d : Dev) : Dev :=
  raise 0x18 (a + b * 2 ^ 16) (if isMgr d && mode d == 0 then sendMode 7 false 0 0 d else d)

/-- Send every role the manager knows, its own last (R20, R299). R243 gives TOPO one direction, and R299 speaks of TOPO results without a
format: they are taken as TOPO messages in the report's layout, one for each position, the manager's own closing the check (DESIGN
CHOICE, assumptions row 95). -/
def sendResults (send : Nat → Dev → Dev) (d : Dev) : Dev :=
  let others := d.rs.topo.filter fun e => e.1 != myPos d
  let mine := d.rs.topo.filter fun e => e.1 == myPos d
  each (others ++ mine) (fun e d =>
    send (sysctl d e.1 (e.2.1 + e.2.2.1 * 4 + b2n (e.2.2.2 != 0) * 16 + (e.2.2.2 - 1) * 32) 0) d) d

/-- Every holder that reported is entered into the map (R240). -/
def fillMap (d : Dev) : Dev :=
  each d.rs.topo (fun e d =>
    if e.2.1 != 3 && e.2.2.2 != 0 then
      setFlag (setF d (RES_PMAP_POSITION (e.2.2.2 - 1)) e.1) (RES_PMAP_HELD (e.2.2.2 - 1)) true
    else d) d

/-- The deputy the roles name. -/
def fillDeputy (d : Dev) : Dev :=
  match d.rs.topo.find? fun e => e.2.1 == 2 with
  | some e => setDeputy e.1 true d
  | none => setDeputy 0 false d

/-- The manager completes the topology check (R20, R299): positions of its SYSTEM section that have not reported are LOST; where
R19 holds, the map is filled, every device is told, and STANDBY follows. -/
def topoCheck (d : Dev) : Dev :=
  let d := noteSelf d
  let missing := (systemSet d).filter fun p => !(d.rs.topo.any fun e => e.1 == p)
  let d := each missing (fun p d => setFlag d (bitFld (RES_LOST (p / 32)) (p % 32)) true) d
  match rolesBroken d with
  | some (a, b) => topoFails a b d
  | none =>
    let d := sendResults (broadcast 0x12 1) (fillDeputy (fillMap d))
    beginTrans 1 false true (setFlag { d with pw := { d.pw with bootWindow := false } } SYS_READY_TOPO true)

/-- The check runs once every position of the SYSTEM section has reported and the manager's own ropes are trained (R299). -/
def topoTry (d : Dev) : Dev :=
  if isMgr d && mode d == 0 && d.md.trans.isNone && flag d SYS_READY_LINK && !flag d SYS_READY_TOPO &&
      (systemSet d).all (fun p => p == myPos d || d.rs.topo.any fun e => e.1 == p) then topoCheck d
  else d

/-- Whether every holder the roles name is present: no early loss stands (R265). -/
def topoWhole (d : Dev) : Bool := d.rs.topo.all fun e => e.2.1 == 3 || !isLost d e.1

end Sys2Proof.Machine
end

