-- ==== Sys2Proof/Machine/Modes.lean ====
section
/-! DEFINITION. The mode machine: orders, transitions and what entering a mode does (R24-R31, R72-R74, R82, R161, R180,
R251, R253, R463). -/

namespace Sys2Proof.Machine

/-- Spares that hold no partition (R163). -/
def systemSpares (d : Dev) : List Nat :=
  ((d.rs.topo.filter fun e => e.2.1 == 3).map (·.1)).filter fun p => !isLost d p && !(holders d).contains p

/-- The parameters a MODE order of RUN carries (R159, R243): bytes 20-28. -/
def runParams (d : Dev) : Nat :=
  (max 1 (min (2 ^ 24) (getF d CKP_PERIOD_PERIOD))) + max 1000 (getR d CKP_WALLCAP).toNat * 2 ^ 32 +
    max 4 (getF d CKP_LEAD_LEAD) * 2 ^ 64

/-- Take the checkpoint parameters of a RUN order (R159). -/
def takeParams (p w l : Nat) (d : Dev) : Dev := { d with ck := { d.ck with period := p, wallcap := w, lead := l } }

/-- The manager orders RUN with its own checkpoint parameters, which hold for itself too (R159). -/
def orderRun (d : Dev) : Dev :=
  let p := runParams d
  takeParams (p % 2 ^ 32) (p / 2 ^ 32 % 2 ^ 32) (p / 2 ^ 64) (sendMode 3 false 0 p d)

/-- Tell every target that this device feeds it (R73, R74). -/
def sendFeeders (d : Dev) : Dev := each d.tv.targets (fun p d => sendPart 0x13 4 p 0 d) d

/-- FEEDER again to every target, once the map change of a recovery is in force (R74 step 3). -/
def resendFeeders (d : Dev) : Dev :=
  if d.rs.mapChanged then sendFeeders { d with rs := { d.rs with mapChanged := false } } else d

/-- Whether R25 gives a transition from one mode to another on an order. RECOVER exists in protected operation only (R26); out of SAFE
only a RESUME leads, whose restore comes first; the order of a failed topology check finds devices in BOOT too. -/
def allowed (d : Dev) (goal : Nat) (strand : Bool) : Bool :=
  let m := mode d
  if d.md.stranded then goal == 7 || (goal == 6 && isProtected d)
  else if strand then m == 3 || m == 4
  else if goal == 7 then m != 7
  else if goal == 1 then m == 2 || m == 4
  else if goal == 2 then m == 1 || m == 4
  else if goal == 3 then m == 4 || m == 6
  else if goal == 4 then m == 2 || m == 3 || m == 5 || m == 6 || (m == 7 && d.md.resumed)
  else if goal == 5 then m == 4
  else if goal == 6 then isProtected d && (m == 3 || m == 4)
  else false

/-- The bridges' side of LOAD and UNLOAD (R404, R434): EN is cleared, capture buffers are FREE and VID_C_FRAMES is 0, the clip
buffers are empty. -/
def dropBridges (d : Dev) : Dev :=
  let d := each (List.range 4) (fun p d =>
    let d := setR (setFlag d (VID_C_CFG_EN p) false) (VID_C_FRAMES p) 0
    setF (setF (setF d (VID_C_STAT_SHOWN p) 3) (VID_C_STAT_READY p) 3) (VID_C_STAT_FILLING p) 3) d
  let d := each (List.range 2) (fun p d =>
    setF (setFlag (setFlag d (AUD_P_CFG_EN p) false) (AUD_P_STAT_PLAYING p) false) (AUD_P_STAT_HELD p) 0) d
  { d with vid := { d.vid with num := [], age := [] }, aud := [] }

/-- Discard everything a design image put into the device (R25 to LOAD and STANDBY, R203): state, copies, checkpoints,
journal, rings, replay buffer. -/
def dropImage (d : Dev) : Dev :=
  let d := withdrawWaits (dropBridges d)
  let d := { d with
    fab := { d.fab with step := [], lds := [], q := [], dq := [], bus := [], slots := [], expect := [], route := [], tram := []
                        dirty := [], written := [], probe := [], capture := [], preg := [], pret := [], acc := [], ep := []
                        winBase := [], winSize := [], tiles := [], net := [], sends := [] }
    tv := { d.tv with fence := none, floors := [], targets := [], feeders := [], arrived := false, runStop := none
                      granules := [], waitWords := [], waitSteps := [], waitWrites := [] }
    lk := { d.lk with sig := [] }
    par := { d.par with queue := [], sent := [], log := [], got := [], marks := [], due := [], rebuilding := false, krSeq := 0
                        streamTo := none, wordReqs := []
                        pin := none, pageEnd := 0, rebuilt := [], pageGot := [], pageEnds := [], ends := [] }
    ck := { d.ck with full := 0, pends := [], kept := [], lastSeq := 0, lastBound := 0, requesting := false, freezeAt := none, commits := 0
                      replies := [], readys := [], jackEnd := 0, jdue := [], gone := [], streamed := false
                      restore := [], rollEnd := false }
    jr := { recs := [], wr := 0, acked := 0, since := 0, reading := false, rd := [] }
    qu := { d.qu with desc := [], rdesc := [], held := [], backlog := [], drops := [], acks := [], pubs := [], chunks := [] }
    vs := { d.vs with pend := [], ringT := [], lastRec := none, gap := false, resumed := false, evaluated := false
                      firedPrev := 0, rplPend := [], overlay := [], rplQ := [] }
    wk := []
    rs := { d.rs with noParity := [], adoptSeq := 0 }
    hs := { d.hs with imageHeld := false, image := [] } }
  let d := eccClearRange (eccKey 0 0) (6 * 2 ^ 40) d
  let d := clearStop (releaseHold (setCounts 0 d))
  let d := setF (setF d TRV_LENGTH_N 0) MEM_REGION_SIZE_GIB 0
  let d := setFlag d MEM_REGION_PARITY_VALID false
  let d := set2 (setR (setR (setR d VIS_TRACE_WRITE 0) VIS_TRACE_HELD 0) VIS_RPL_RECORDS 0) VIS_TRG_EVAL_LO 0
  let d := setFlag (setFlag (setFlag d VIS_RPL_STAT_DONE false) CKP_STATUS_EDITED false) CKP_STATUS_RESTORING false
  setF (setR (syncCkp d) MEM_PLOG_FILL 0) QUE_RCOUNT_COUNT 0

/-- Opcodes whose commands stop when the mode leaves those that permit them (R283, R295). -/
def barred (m : Nat) (stranded : Bool) : List Nat :=
  (if m == 4 && !stranded then [] else [0x31, 0x33]) ++ (if m == 2 || m == 4 || m == 5 || m == 7 then [] else [0x32]) ++
  (if m == 2 then [] else [0x11]) ++ (if stranded then [0x30, 0x32, 0x34] else [])

/-- Tags that wait for a mode end ABORTED in SAFE (R279). -/
def abortModes (d : Dev) : Dev :=
  let refs := d.tv.freezeRefs ++ d.tv.runRefs ++ d.tv.stepRefs ++ d.md.unloadRefs ++ d.vs.rplRef.toList ++ d.hs.loadRef.toList ++
    d.ck.replayWait.toList ++ d.rs.resuming.toList
  let d := each refs (fun r d => endCmd r 15 [] 0 d) d
  { d with tv := { d.tv with freezeRefs := [], runRefs := [], stepRefs := [], pendingRun := none }
           md := { d.md with unloadRefs := [] }, vs := { d.vs with rplRef := none, rplWait := false }
           hs := { d.hs with loadRef := none, loading := false }, ck := { d.ck with replayWait := none }
           rs := { d.rs with resuming := none, recovering := false, census := none, takeover := none } }

/-- Tags that complete when a mode is reached (R81-R83, R283). -/
def completeTags (m : Nat) (d : Dev) : Dev :=
  if m == 3 then
    let d := each d.tv.runRefs (fun r d => okCmd r [] d) d
    { d with tv := { d.tv with runRefs := [] } }
  else if m == 4 then
    let d := endCount (d.tv.freezeRefs ++ d.tv.stepRefs) 0 d
    let d := match d.rs.resuming with
      | some r => endCount [r] 0 { d with rs := { d.rs with resuming := none } }
      | none => d
    let d := match d.vs.rplRef with
      | some r => if mode d == 4 && flag d VIS_RPL_STAT_DONE then
          let e := getF d VIS_RPL_STAT_ERR
          endCmd r (if e == 6 || e == 7 then 15 else 0) [(getR d VIS_RPL_RECORDS).toNat] 0
            { d with vs := { d.vs with rplRef := none } } else d
      | none => d
    let d := match d.hs.loadRef with
      | some r => endCmd r 0 [travN d] (d.hs.accepted.length) { d with hs := { d.hs with loadRef := none, loading := false } }
      | none => d
    { d with tv := { d.tv with freezeRefs := [], stepRefs := [] } }
  else if m == 1 then
    let d := each d.md.unloadRefs (fun r d => okCmd r [] d) d
    { d with md := { d.md with unloadRefs := [] } }
  else d

/-- The relay table of the manager (R198): one descriptor per relayed queue, in order of partition and queue, rings after its
own. -/
def buildRelays (d : Dev) : Dev :=
  let own := ((d.qu.desc.filter fun e => e.2.bound).map fun e => ceilTo 4096 (slotBytes e.2 * slots e.2)).foldl (· + ·) 0
  let sorted := d.hs.relayQs.foldl (fun st e => sins st (8192 * e.1 + e.2.1) e.2.2) ([] : Store Nat)
  let r := sorted.foldl (fun (r : Nat × Nat × Store QDesc) e =>
    let w := e.2
    let x : QDesc := { desc0 0 with
      bound := true, fromDesign := bitOf w 1, blocking := bitOf w 2, notify := bitOf w 3, slotLog := bitsOf w 7 4
      countLog := bitsOf w 11 8, owner := bitsOf w 17 12 - 8, vector := bitsOf w 23 18, relay := true
      homeQ := e.1 % 8192, homePart := e.1 / 8192, base := r.2.1 }
    (r.1 + 1, r.2.1 + ceilTo 4096 (slotBytes x * slots x), sins r.2.2 r.1 x)) (0, areaBase d 1 + own, [])
  setF { d with qu := { d.qu with rdesc := r.2.2 } } QUE_RCOUNT_COUNT r.1

/-- The end of LOAD (R73, R74, R84, R134, R198, R205, R251): counts 0 and one more restore, run time 0, probe masks in force,
targets told, and the manager's relay table. -/
def loadEnds (d : Dev) : Dev :=
  let d := set2 (restoreCounts 0 d) TRV_RUNTIME_LO 0
  let d := match imageOf d.hs.image with
    | some im => if d.hs.imageHeld then putMasks im d else d
    | none => d
  let d := setFlag d RES_STATUS_PROTECTED (isProtected d && (spareOf d (myParty d)).isSome)
  let d := { d with hs := { d.hs with bulk := [], bulkEnds := [], relays := d.hs.relays.map fun r => { r with data := [] } } }
  sendFeeders (if isMgr d then buildRelays d else d)

/-- The manager's census of edits (R161, R217): kind 0 for RUN and STEP, 1 for REPLAY. -/
def askCensus (kind : Nat) (d : Dev) : Dev :=
  broadcast 0x12 6 (sysctl d (myPos d) 0 0) { d with rs := { d.rs with census := some ⟨kind, []⟩ } }

/-- What entering a mode does beside the mode registers. In FREEZE every tile of every device has the boundary's count (R71). -/
def enterMode (m : Nat) (strand : Bool) (d : Dev) : Dev :=
  let old := mode d
  let d := abortOps (barred m strand) 15 d
  if m == 1 then
    let d := if old == 4 || old == 2 then setFlag d SYS_READY_FABRIC false else d
    modeHold (if old == 4 || old == 2 then dropImage d else d)
  else if m == 2 then
    let d := dropImage d
    if role d == 3 && !holds d && isProtected d then setFlag d MEM_REGION_PARITY_VALID true else d
  else if m == 3 then
    let d := if old == 4 && d.vs.emptyNext then emptyTrace { d with vs := { d.vs with resumed := true } } else d
    let d := if old == 6 then
        let d := journalLive (clearStop d)
        match d.tv.runStop with
        | some s => putStop s d
        | none => d
      else match stopCount d with
        | some s => if upTo s (trvCount d) then clearStop d else d
        | none => d
    releaseHold { d with tv := { d.tv with arrived := false, highs := [] }
                         ck := { d.ck with floorTick := d.ticks }
                         md := { d.md with released := false, orderAt := none } }
  else if m == 4 then
    let d := if strand then d else freezeRelease { d with md := { d.md with c4Hold := false, silent := false } }
    let d := if old == 6 || old == 7 then journalLive d else d
    let d := if old == 2 then loadEnds d else d
    let d := match stopCount d with
      | some s => if holds d || strand then d else setCounts s d
      | none => d
    let at_ := if isMgr d && (isProtected d || old == 2) && !strand then some (trvCount d) else none
    let d := { d with ck := { d.ck with freezeAt := at_ } }
    let d := { d with md := { d.md with released := false, orderAt := none, keptFreeze := false }
                      tv := { d.tv with arrived := false, arriveds := [], highs := [], runStop := none } }
    if strand then d else releaseHold d
  else if m == 7 then
    abortModes (c4Pins { d with md := { d.md with c4Hold := true } })
  else d

/-- RUN_DONE precedes MODE_CHANGED (R82, R291). -/
def runDoneEvent (d : Dev) : Dev :=
  if d.md.runDone && isMgr d then
    hostEvent 2 ([0, 0] ++ lohi (trvCount d)) { d with md := { d.md with runDone := false } }
  else { d with md := { d.md with runDone := false } }

/-- Reach a mode: its effects, the mode registers and events, and the tags that waited for it. -/
def reachMode (m : Nat) (strand : Bool) (d : Dev) : Dev :=
  if m == 7 then setFlag (arriveMode 7 false (enterMode 7 false d)) CAIRN_STATUS_SAFE_DONE true
  else
    let d := enterMode m strand d
    let d := if m == 4 then runDoneEvent d else d
    completeTags m (arriveMode m strand d)

/-- Apply a mode order at a device (R24, R463): in RUN one that names a traverse the device is not past becomes a stop count, and is
applied on arrival; the mode the device already holds satisfies an order; in a transition it is kept, unless it is what the
transition waits for, or the recovery that a freeze in progress becomes (R81); otherwise R25 decides. -/
def orderMode (m : Nat) (strand : Bool) (value : Nat) (d : Dev) : Dev :=
  match d.md.trans with
  | some t =>
    if t.goal == m && t.strand == strand then { d with md := { d.md with trans := some { t with ready := true } } }
    else if m == 6 && freezing d && isProtected d then
      beginTrans 6 false true { d with md := { d.md with keptFreeze := true, recEntry := 3 } }
    else { d with md := { d.md with keptOrders := d.md.keptOrders ++ [(m, strand, value)] } }
  | none =>
    if mode d == 3 && value != 0 && upTo (floorOf d) value && !upTo value (highBegun d) then
      putStop value { d with md := { d.md with orderAt := some (m, strand, value) } }
    else if mode d == m && d.md.stranded == strand then d
    else if !allowed d m strand then d
    else if mode d == 3 && m == 4 then
      if strand then beginTrans 4 true true (holdFabric d)
      else if atStop d || !holds d then beginTrans 4 false true d
      else freezeTrans (holdFabric d)
    else if mode d == 6 && (m == 3 || m == 4) && !atStop d && !d.md.released then
      resendFeeders (releaseHold { d with md := { d.md with released := true } })
    else if m == 6 then beginTrans 6 false true { d with md := { d.md with recEntry := mode d } }
    else if m == 5 then beginTrans 5 false true (setFlag d TRV_STATUS_HOLD true)
    else if mode d == 5 && m == 4 then beginTrans 4 false true (setFlag d TRV_STATUS_HOLD true)
    else beginTrans m strand true d

/-- The manager orders a mode of every device and of itself. -/
def mgrMode (m : Nat) (d : Dev) : Dev := orderMode m false 0 (sendMode m false 0 (if m == 3 then runParams d else 0) d)

/-- The whole system goes to SAFE (R25, R265). -/
def systemSafe (d : Dev) : Dev :=
  let d := sendMode 7 false 0 0 d
  if mode d == 0 then d else orderMode 7 false 0 d

/-- A kept C4 or order of SAFE is applied (R27, R238): SAFE is entered, and the device's own C4 is announced. -/
def enterKeptSafe (d : Dev) : Dev :=
  let own := d.md.keptC4
  let r := d.md.c4Rec
  let d := { d with md := { d.md with keptC4 := false, keptC3 := false, keptC2 := false, keptOrders := [], keptFreeze := false, c4Rec := none } }
  let d := if mode d == 7 then d else reachMode 7 false d
  match r with
  | some r => announceSafe r d
  | none => if own then { d with md := { d.md with silent := true } } else d

/-- The transition in progress ends (R27): the mode is reached, then kept events are applied in the order C4, C3, C2,
freeze, orders. A transition that still waits for the manager ends in SAFE at once on a C4 or an order of SAFE, since what it waits
for need not come (R238; DEDUCED, assumptions row 99). -/
def endTransition (d : Dev) : Dev :=
  match d.md.trans with
  | none => d
  | some t =>
    let safe := d.md.keptC4 || d.md.keptOrders.any (·.1 == 7)
    if !t.ready then (if safe then enterKeptSafe d else d)
    else
      let d := reachMode t.goal t.strand d
      let md := d.md
      if safe then enterKeptSafe d else
      if md.keptC3 || md.keptC2 then
        let d := { d with md := { md with keptC3 := false, keptC2 := false } }
        toRecover md.keptC3 d
      else if md.keptFreeze && mode d == 3 then
        let d := { d with md := { md with keptFreeze := false } }
        if isMgr d then mgrFreeze d else belayHold 1 d
      else
        each md.keptOrders (fun o d => orderMode o.1 o.2.1 o.2.2 d) { d with md := { md with keptOrders := [] } }

/-- Whether a transition out of REPLAY is about to end in FREEZE. -/
def leaving (d : Dev) : Bool :=
  match d.md.trans with
  | some t => t.goal == 4 && t.ready && mode d == 5
  | none => false

/-- The end of a transition, with the state at its entry when a replay ends (R221), the parity a spare begins a load with, all 0 (R152), the mirrors of the queues that are no longer bound
(R185), and the mirror of the relay table (R198). -/
def endTransitionAt (s0 : State) : State :=
  let was := mode s0.dev
  let s := onDev endTransition (if leaving s0.dev then leaveReplay s0 else s0)
  let s := if s.dev.qu.desc.isEmpty then each s0.dev.qu.desc (fun e s => setDesc e.1 (desc0 e.1) s) s else s
  if mode s.dev == 2 && was != 2 && role s.dev == 3 && !holds s.dev then clearMem 0 (64 * 2 ^ 30) s
  else if mode s.dev == 4 && was == 2 then each s.dev.qu.rdesc (fun e s => setRdesc e.1 e.2 s) s
  else s

/-- Whether the device stands at the stop count in force: its tiles do, or it holds no partition and is released. -/
def standsAtStop (d : Dev) : Bool := if holds d then atStop d else (stopCount d).isSome && !flag d TRV_STATUS_HOLD

/-- This device's arrival at the stop count in force (R79 step 5); a mode order that waited for it is applied (R463). -/
def reportArrived (d : Dev) : Dev :=
  if standsAtStop d && !d.tv.arrived && d.md.trans.all (·.goal == 4) && (mode d == 3 || mode d == 6 || mode d == 5) then
    let s := (stopCount d).getD 0
    let d := { d with tv := { d.tv with arrived := true } }
    let d := if isMgr d then { d with tv := { d.tv with arriveds := (myPos d, s) :: d.tv.arriveds } } else sendMgr 0x13 3 (at8 8 s) d
    match d.md.orderAt with
    | some (m, strand, _) => orderMode m strand 0 { d with md := { d.md with orderAt := none } }
    | none => d
  else d

/-- Whether every device has reported its arrival at the manager's stop count (R79 step 5). -/
def allArrived (d : Dev) : Bool :=
  match stopCount d with
  | some s => (awaited d).all fun p => d.tv.arriveds.contains (p, s)
  | none => false

/-- The manager sets FREEZE system-wide once every device has arrived at the stop count (R79 step 5, R82). -/
def freezeIfArrived (d : Dev) : Dev :=
  if isMgr d && mode d == 3 && !flag d TRV_STATUS_HOLD && allArrived d && standsAtStop d then
    let d := { d with md := { d.md with runDone := stopCount d == d.tv.runStop && d.tv.runStop.isSome } }
    let d := sendMode 4 false 0 0 d
    match d.md.trans with
    | some t => if t.goal == 4 then { d with md := { d.md with trans := some { t with ready := true } } } else d
    | none => beginTrans 4 false true d
  else d

/-- Every tile enters a checkpoint taken at a boundary where the tiles stand (R161). -/
def captureAll (seq : Nat) (d : Dev) : Dev :=
  if holds d then
    syncCkp { d with ck := { d.ck with pends := d.ck.pends.map fun x =>
      if x.seq == seq then (List.range 256).foldl (fun c t => captureTile t d c) x else x } }
  else d

/-- The tiles that already stand at boundary `k` when its BOUNDARY arrives enter the checkpoint (R157, R161): the order of the
freeze arrives ahead of it, and the transition may still be under way. -/
def captureStanding (seq k : Nat) (d : Dev) : Dev :=
  let standing := (List.range 256).filter fun t => (tileOf d t).count == k && !(tileOf d t).inTrav
  let one := fun x : Ckpt => if x.seq == seq then standing.foldl (fun c t => captureTile t d c) x else x
  if holds d then syncCkp { d with ck := { d.ck with pends := d.ck.pends.map one } } else d

/-- The manager's checkpoint at the boundary where the system stands (R161, R162, R217): it follows a pending one that can
still commit, and replaces one that no tile has reached. -/
def boundaryCkpt (d : Dev) : Dev :=
  match d.ck.freezeAt with
  | none => d
  | some s =>
    if !isMgr d || mode d != 4 || d.md.stranded then d
    else
      match d.ck.pends with
      | [] =>
        let seq := nextSeq d.ck.lastSeq
        let d := takeCkpt seq s (broadcast 0x14 2 (ckpctl seq s 0) { d with ck := { d.ck with freezeAt := none, floorTick := d.ticks } })
        captureAll seq d
      | c :: r =>
        if s < c.k then
          let d := { d with ck := { d.ck with pends := r, freezeAt := none, floorTick := d.ticks } }
          captureAll c.seq (takeCkpt c.seq s (broadcast 0x14 2 (ckpctl c.seq s 0) d))
        else d

/-- The manager commits the pending checkpoint once every READY is in (R164); none commits between a C2 or C3 event and its rollback
(R162). -/
def mgrCommit (s : State) : State :=
  let d := s.dev
  match d.ck.pends with
  | c :: _ =>
    if isMgr d && !(d.rs.recovering && d.rs.phase == 0) && (liveHolders d ++ (if isProtected d then systemSpares d else [])).all d.ck.readys.contains then
      let d := broadcast 0x14 4 (ckpctl c.seq c.k 0) d
      let d := setF d CKP_COMMIT_TIME_TICKS (min (2 ^ 24 - 1) (d.ticks - d.ck.floorTick))
      applyCommit c.seq c.k { s with dev := d }
    else s
  | [] => s

/-- A RUN or STEP that waits for the census and its checkpoints starts (R82, R161). -/
def startRun (d : Dev) : Dev :=
  match if mode d != 4 then none else d.tv.pendingRun with
  | some n =>
    let edited := match d.rs.census with
      | some c => if c.kind == 0 then some (c.replies.any (·.2.2.2.2) || flag d CKP_STATUS_EDITED,
          ((liveHolders d).filter (· != myPos d)).all fun p => c.replies.any fun r => r.1 == p) else none
      | none => none
    match edited with
    | some (e, true) =>
      let d := { d with rs := { d.rs with census := none } }
      if e then { d with ck := { d.ck with freezeAt := some (trvCount d) } } else d
    | some (_, false) => d
    | none =>
      if d.ck.pends.isEmpty && d.ck.freezeAt.isNone then
        let d := { d with tv := { d.tv with pendingRun := none, arriveds := [] } }
        let s := (trvCount d + n) % 2 ^ 64
        let d := if n == 0 then clearStop { d with tv := { d.tv with runStop := none } }
          else putStop s (clearStop (broadcast 0x13 2 (at8 8 s) { d with tv := { d.tv with runStop := some s } }))
        orderMode 3 false 0 (orderRun d)
      else d
  | none => d

/-- A REPLAY that waits for its entry checkpoint starts (R217, R218): REPLAY is ordered, and ROLLBACK names the checkpoint to every device
(DESIGN CHOICE, assumptions row 100). -/
def startReplay (s : State) : State :=
  let d := s.dev
  match if mode d != 4 then none else d.ck.replayWait with
  | some _ =>
    let edited := match d.rs.census with
      | some c => if c.kind == 1 then some (c.replies.any (·.2.2.2.2) || flag d CKP_STATUS_EDITED,
          ((liveHolders d).filter (· != myPos d)).all fun p => c.replies.any fun r => r.1 == p) else none
      | none => none
    match edited with
    | some (e, true) =>
      let d := { d with rs := { d.rs with census := none } }
      { s with dev := if e || (latest d).2 != trvCount d then { d with ck := { d.ck with freezeAt := some (trvCount d) } } else d }
    | some (_, false) => s
    | none =>
      if d.ck.pends.isEmpty && d.ck.freezeAt.isNone then
        let d := { d with ck := { d.ck with replayWait := none }, vs := { d.vs with rplWait := true }, rs := { d.rs with dones := [] } }
        let d := orderMode 5 false 0 (sendMode 5 false 0 0 d)
        enterReplay d.vs.rplSeq d.vs.rplK { s with dev := broadcast 0x14 6 (ckpctl d.vs.rplSeq d.vs.rplK 0) d }
      else s
  | none => s

/-- The manager releases the system into the replay once every device has restored (R74): STOP carries END (DESIGN CHOICE, assumptions
row 100). -/
def releaseReplay (d : Dev) : Dev :=
  if isMgr d && d.vs.rplWait && mode d == 5 && d.md.trans.isNone && (awaited d).all d.rs.dones.contains then
    let d := broadcast 0x13 2 (at8 8 d.vs.rplEnd) { d with vs := { d.vs with rplWait := false }, tv := { d.tv with arriveds := [] } }
    releaseHold (putStop d.vs.rplEnd (clearStop d))
  else d

/-- Pages of the largest region of protected operation (R133). -/
def maxPages : Nat := 64 * 2 ^ 18

/-- Begin to stream this device's region as at boundary `k` to a position (R256, R257, R267). -/
def beginStream (pos seq k : Nat) (d : Dev) : Dev :=
  setR { d with par := { d.par with streamTo := some pos, served := [], streamNext := 0, streamEnd := maxPages, streamSeq := seq, pin := some k } }
    RES_REBUILD (BitVec.ofNat 32 maxPages)

/-- The adopting spare takes the partition in force (R251 step 5, R255): role WORKER, its copies, log and staging freed, its
parity becomes the region, and the rebuild begins. -/
def becomeHolder (part : Nat) (d : Dev) : Dev :=
  let d := setFlag (setF d SYS_PARTITION_NUMBER part) SYS_PARTITION_VALID true
  let d := setF d SYS_ROLE_ROLE 0
  let d := { d with wk := []
                    par := { d.par with log := [], got := [], marks := [], rebuilding := false, krSeq := 0 }
                    rs := { d.rs with adoptPart := none, adoptReady := false } }
  let d := if d.par.pageEnd == 0 then startRebuild d else d
  let left := getR d RES_REBUILD
  let d := if left == 0 then { d with par := { d.par with pageEnd := 0, rebuilt := [] } } else d
  let d := setR d MEM_PLOG_FILL 0
  let d := setFlag (setFlag d MEM_REGION_PARITY_VALID false) RES_STATUS_PROTECTED false
  let orphans := (d.qu.desc.filter fun e => e.2.bound && e.2.orphan).length
  let d := if orphans == 0 then d else hostEvent 9 [part, orphans, 0, 0] d
  setFlag (setFlag d RES_STATUS_ADOPTED true) RES_STATUS_REBUILD (left != 0)

/-- Change a role in force (R21, R22): the event goes to the ports of the manager and of the deputy. -/
def roleChanged (pos new old : Nat) (d : Dev) : Dev :=
  if isMgr d || role d == 2 then hostEvent 5 [pos + new * 2 ^ 10 + old * 2 ^ 12, 0, 0, 0] d else d

/-- A spare that a MAP makes a holder is a WORKER from then on (R251 step 5). -/
def spareHolds (part pos : Nat) (d : Dev) : Dev :=
  match d.rs.topo.find? fun e => e.1 == pos && e.2.1 == 3 with
  | some e => roleChanged pos 0 3 (noteTopo pos 0 e.2.2.1 (part + 1) d)
  | none => d

/-- A MAP at a device (R241, R251): the holder is entered, waiting flits are tried again, an adopting spare becomes the
holder, and after a change of holder FEEDER is due (R74). -/
def applyMap (part pos : Nat) (held : Bool) (d : Dev) : Dev :=
  let old := pmap d part
  let d := setMap part pos held d
  let d := if held then spareHolds part pos (clearLost pos d) else d
  let d := if pos == myPos d && held && d.rs.adoptPart == some part then becomeHolder part d
    else if held && old != some pos && pos / 16 == myParty d && holds d && mode d == 6 then
      beginStream pos (d.ck.kept.headD (newCkpt d 0 0)).seq (latest d).2 d
    else d
  retryWaiting d

/-- Advance UPDATE of the map's EPOCH (R241). -/
def bumpEpoch (d : Dev) : Dev :=
  let e := getF d RES_STATUS_EPOCH
  setF d RES_STATUS_EPOCH (e / 4096 * 4096 + (e % 4096 + 1) % 4096)

/-- The manager awaits the acknowledgements of a change (R241); with nobody to wait for it is in force at once. -/
def awaitAcks (sub what : Nat) (d : Dev) : Dev :=
  let left := (systemDevs d).filter fun p => getF d (bitFld (RES_UNREACH0 + 4 * (p / 16 / 32)) (p / 16 % 32)) == 0
  if left.isEmpty then (if sub == 2 then irqEvent 5 d else d)
  else { d with rs := { d.rs with acks := d.rs.acks ++ [⟨sub, what, left⟩] } }

/-- A device's copy of the target is unreadable (R181): the previous committed checkpoint becomes the target; without one, or with a worker
lost, no recovery is possible. -/
def fallBack (d : Dev) : Dev :=
  let lost := !(d.rs.toAdopt.isEmpty && d.rs.adopting.isEmpty && d.rs.mapping.isEmpty)
  match d.ck.kept with
  | a :: b :: _ =>
    if lost || a.seq != d.rs.rollSeq then systemSafe d
    else { d with rs := { d.rs with phase := 0, rollSeq := b.seq, rollK := b.k, dones := [] } }
  | _ => systemSafe d

/-- Go on with the manager's recovery sequence (R251, R253, R272) as far as the reports allow. -/
def driveRecovery (d : Dev) : Dev :=
  if !isMgr d || !d.rs.recovering || d.md.trans.isSome || flag d RES_STATUS_SPLIT then d
  else if d.rs.phase == 0 then
    let heard := d.rs.resuming.isSome || d.rs.noHighs || (awaited d).all (d.tv.highs.map (·.1)).contains
    if heard && !d.rs.toAdopt.isEmpty then
      each d.rs.toAdopt (fun a d => sendPos 0x12 8 a.2 (sysctl d a.1 d.rs.rollK d.rs.rollSeq) d)
        { d with rs := { d.rs with toAdopt := [], adopting := d.rs.adopting ++ d.rs.toAdopt } }
    else if heard && d.rs.adopting.isEmpty then
      let hs := (d.tv.highs.filter fun h => (liveHolders d).contains h.1).map (·.2)
      let hd := match hs with
        | [] => d.rs.hd
        | h :: r => some (latestOf h (h :: r ++ d.rs.hd.toList))
      let d := broadcast 0x14 6 (ckpctl d.rs.rollSeq d.rs.rollK 0) { d with rs := { d.rs with phase := 1, dones := [], hd := hd } }
      if (copyBad d).isSome then fallBack (rollbackTo d.rs.rollSeq d.rs.rollK d) else rollbackTo d.rs.rollSeq d.rs.rollK d
    else d
  else if d.rs.phase == 1 then
    if (myPos d :: systemDevs d).all d.rs.dones.contains then
      let d := { d with rs := { d.rs with phase := 2 } }
      let ms := d.rs.mapping
      each ms (fun m d =>
        let d := bumpEpoch (applyMap m.1 m.2 true d)
        awaitAcks 2 m.1 (broadcast 0x12 2 (sysctl d m.1 (m.2 + 2 ^ 15) 0) d))
        { d with rs := { d.rs with mapping := [], reattach := d.rs.reattach ++ ms.map (·.1)
                                   adoptSeq := if ms.isEmpty then d.rs.adoptSeq else d.rs.rollSeq } }
    else d
  else d

/-- Once the devices have switched to the adopter, the manager sends REATTACH with the relay PROD for each relayed from-design queue of the
adopted partitions (R254); one whose host must attach again is left to that (R200). -/
def reattachAdopted (d : Dev) : Dev :=
  let qs := d.qu.rdesc.filter fun e => d.rs.reattach.contains e.2.homePart && e.2.fromDesign && !e.2.orphan
  each qs (fun e d => queueToHome 4 e.2.homePart e.2.homeQ 0 false e.2.prod 0 d) { d with rs := { d.rs with reattach := [] } }

/-- The release of re-execution to the catch-up point, and the end of RECOVER (R251 step 6, R253). -/
def finishRecovery (d : Dev) : Dev :=
  if !isMgr d || !d.rs.recovering || d.md.trans.isSome || flag d RES_STATUS_SPLIT then d
  else if d.rs.phase == 2 && d.rs.acks.isEmpty then
    let d := reattachAdopted d
    let k := d.rs.rollK
    let c := match if d.md.recEntry == 3 && d.rs.resuming.isNone then d.rs.hd else none with
      | some h => later k (nextCount h)
      | none => k
    let d := { d with rs := { d.rs with phase := 3, catchup := c }, tv := { d.tv with arriveds := [], highs := [], arrived := false } }
    let d := resendFeeders (putStop c (clearStop (broadcast 0x13 2 (at8 8 c) d)))
    if c == k then d
    else
      let d := orderRun d
      releaseHold { d with md := { d.md with released := true } }
  else if d.rs.phase == 3 && (d.rs.catchup == d.rs.rollK || standsAtStop d && allArrived d) then
    let more := match d.tv.runStop with
      | some s => !upTo s d.rs.catchup
      | none => true
    let run := d.md.recEntry == 3 && d.rs.resuming.isNone && !d.md.keptFreeze && more
    let d := setF d RES_LAST_TICKS (min (2 ^ 24 - 1) (d.ticks - d.rs.startTick))
    let d := { d with rs := { d.rs with recovering := false, phase := 0, hd := none, mapChanged := false, noHighs := false }
                      md := { d.md with runDone := !more, keptFreeze := false } }
    if run then
      beginTrans 3 false true (orderRun d)
    else beginTrans 4 false true (sendMode 4 false 0 0 d)
  else d

/-- The floor has reached a pending checkpoint's boundary (R163, R174), and what waits on it. -/
def progressCkpt (d : Dev) : Dev := tryReady (closePending d)

/-- The load is aborted (R25, R287): every LOAD_PART and the LOAD tag end, the system goes to STANDBY. -/
def abortLoad (status : Nat) (result : List Nat) (d : Dev) : Dev :=
  if mode d != 2 || !isMgr d then d
  else
    let d := abortOps [0x11] 15 d
    let d := match d.hs.loadRef with
      | some r => endCmd r status result 0 d
      | none => d
    let d := { d with hs := { d.hs with loadRef := none, loading := false, accepted := [], refused := none } }
    mgrMode 1 d

/-- A C2 event of this device in LOAD (R224): the manager aborts the load; another device has reported it. -/
def loadFaults (d : Dev) : Dev :=
  if d.hs.loadFault then abortLoad 15 [] { d with hs := { d.hs with loadFault := false } } else d

/-- What an unlisted audio port holds. -/
def aud0 (_ : Nat) : AudPort where
  seq := 0
  gap := false
  frames := []
  absentIn := false
  absent := false
  clipIn := []
  clipOut := []
  play := []
  pipe := []

/-- Audio port `p` beside its registers. -/
def audOf (d : Dev) (p : Nat) : AudPort := sget aud0 d.aud p

/-- The device with audio port `p` replaced. -/
def setAud (d : Dev) (p : Nat) (x : AudPort) : Dev := { d with aud := sset aud0 d.aud p x }

/-- The oldest input block of an audio port is published once a slot is free and no publish runs (R432): the bridge writes the
slot as a producer does (R187, R194). -/
def audioPublish (p : Nat) (s : State) : State :=
  let d := s.dev
  let q := getF d (AUD_P_QUEUE_IN_QUEUE p)
  let x := qdesc d q
  match (audOf d p).clipIn with
  | [] => s
  | b :: rest =>
    if flag d (AUD_P_CFG_EN p) && flag d (AUD_P_CFG_IN_EN p) && x.bound && (mode d == 3 || mode d == 6) &&
        !flag d DBG_HALT_HALTED && !(d.qu.pubs.any fun u => !u.relay && u.q == q) && decide (x.prod < x.cons + slots x) then
      let s := putMem (slotAddr x x.prod) (bytesOf 8 b.length ++ bytesOf 8 x.prod ++ b) s
      startPublish .executor q 1 (onDev (fun d => setAud d p { audOf d p with clipIn := rest }) s)
    else s

/-- Everything that follows without another command once the reports it waits for are in: arrivals, checkpoints and
commits, BAR2 reads, a RUN or REPLAY that waits, the recovery sequence, publishes, and audio blocks that wait for a slot. -/
def settle (s : State) : State :=
  let s := retryReads s
  let s := onDev (fun d => progressCkpt (boundaryCkpt (freezeIfArrived (reportArrived (stopIfReported (loadFaults (topoTry d))))))) s
  let s := mgrCommit s
  let s := startReplay (onDev (fun d => startRun (progressCkpt (boundaryCkpt d))) s)
  let s := onDev (fun d => finishRecovery (driveRecovery (releaseReplay d))) s
  audioPublish 1 (audioPublish 0 (progressPubs s))

end Sys2Proof.Machine
end

