-- ==== Sys2Proof/Machine/TravRows.lean ====
section
/-! DEFINITION. The commands of the fabric: traverses, values, accesses, records, scrubbers and the measuring windows
(R46, R49, R62, R68, R70, R86-R89, R141, R148, R207, R219). -/

namespace Sys2Proof.Machine

/-- Supplies present and RESET_N high: the module works. -/
def alive (d : Dev) : Bool := d.pw.vauxGood && d.pw.resetN && !d.pw.criticalOff

/-- Working, and no debug halt withholds the handshakes (R442). -/
def granted (d : Dev) : Bool := alive d && !flag d DBG_HALT_HALTED

/-- A change that happens only while the module works. -/
def whenAlive (f : State → State) (s : State) : State := if alive s.dev then f s else s

/-- A change that happens only while no debug halt stands. -/
def whenGranted (f : State → State) (s : State) : State := if granted s.dev then f s else s

/-- The device floor has advanced to `f` (R73, R163, R166, R204): floor marks, the record of the finished traverse, and
the manager's abandonment of a checkpoint overtaken by the next boundary. -/
def floorReached (f : Nat) (d : Dev) : Dev :=
  let d := sendFloors (syncFloor d)
  let t := (f + 2 ^ 64 - 1) % 2 ^ 64
  let d := if mode d == 5 then captureReplay t d
    else if mode d == 3 || mode d == 6 then captureTraverse t d else d
  let d := if isMgr d && d.ck.pends.any fun c => c.k == f then { d with ck := { d.ck with floorTick := d.ticks } } else d
  match d.ck.pends with
  | _ :: c :: _ => if isMgr d && upTo c.k f then mgrAbandon true d else d
  | _ => d

/-- Tile `t` ends its traverse (R69, R70), with everything that follows from the new count and floor. Its send buffer drains for one
step time first (R67). -/
def endTraverse (t : Nat) (s0 : State) : State :=
  let s := onDev (drainSends t) s0
  let d := s.dev
  if mayEnd d t then
    let old := floorOf d
    let d := capturePoint t (nextCount (tileOf d t).count) (endTile t d)
    let d := if old != floorOf d then floorReached (floorOf d) d else d
    settle { s with dev := syncArea d }
  else
    let tl := tileOf d t
    match emptySlot d t tl.count with
    | some k => if tl.inTrav && tl.step == travN d && fabricRuns d then
        onDev (fun d => setTile d t { tl with wait := if flag d TRV_STATUS_HOLD then 10 else 8, detail := k % 512 }) s else s
    | none => s

/-- TRAVERSE_BEGIN. -/
def execTraverseBegin (tile : BitVec 8) (s : State) : Host.Outcome State Fault Refusal :=
  .next (whenGranted (onDev (beginTraverse tile.toNat)) s)

/-- TILE_STEP. -/
def execTileStep (tile : BitVec 8) (s : State) : Host.Outcome State Fault Refusal :=
  .next (whenGranted (fun s => settle (tileStep tile.toNat s)) s)

/-- The `i`-th value on the tile network lands (R49). -/
def netArrival (i : Nat) (d : Dev) : Dev :=
  match d.fab.net[i]? with
  | some v => placeValue v.slot v.parity v.value v.trav { d with fab := { d.fab with net := d.fab.net.eraseIdx i } }
  | none => d

/-- TILE_NETWORK_ARRIVAL. -/
def execTileNetworkArrival (index : Nat) (s : State) : Host.Outcome State Fault Refusal :=
  .next (whenGranted (onDev (netArrival index)) s)

/-- The outstanding access of a port completes when no earlier one of its tile to the same memory stands before it (R57,
R141, R143). -/
def completeAccess (port : Nat) (s : State) : State :=
  match readyAccess s.dev.fab.acc port with
  | some a => if a.tram then onDev (tramAccess a) s else hbmAccess a s
  | none => s

/-- PORT_ACCESS_COMPLETE. -/
def execPortAccessComplete (port : BitVec 10) (s : State) : Host.Outcome State Fault Refusal :=
  .next (whenGranted (fun s => if s.dev.md.c4Hold then s else settle (completeAccess port.toNat s)) s)

/-- TRAVERSE_END. -/
def execTraverseEnd (tile : BitVec 8) (s : State) : Host.Outcome State Fault Refusal :=
  .next (whenGranted (endTraverse tile.toNat) s)

/-- TRACE_RECORD_WRITE. -/
def execTraceRecordWrite (s : State) : Host.Outcome State Fault Refusal := .next (whenGranted writeTrace s)

/-- REPLAY_RECORD_WRITE. -/
def execReplayRecordWrite (s : State) : Host.Outcome State Fault Refusal := .next (whenGranted writeReplay s)

/-- A read of the step-memory scrubber (R62). -/
def stepScrub (e st : Nat) (d : Dev) : Dev :=
  if !flag d SYS_READY_FABRIC || !flag d TRV_SCRUB_ENABLE || travN d ≤ st then d
  else
    let i := 1024 * e + st
    let n := popcount (eccMask d (eccKey 0 i))
    let d := if n == 0 then d
      else if n == 1 then (readStep i (trvCount d) d).2
      else stepWordFault i (trvCount d) false d
    if e == 131071 && st + 1 == travN d then bumpF d TRV_SCRUB_STAT_PASSES else d

/-- STEP_MEMORY_SCRUB. -/
def execStepMemoryScrub (evaluator : BitVec 17) (step : BitVec 10) (s : State) : Host.Outcome State Fault Refusal :=
  .next (whenGranted (onDev (stepScrub evaluator.toNat step.toNat)) s)

/-- A read of the HBM patrol scrubber (R148); in BOOT and STANDBY an uncorrectable word is rewritten as 0 (R224). -/
def patrolRead (a : Nat) (s : State) : State :=
  let d := s.dev
  if !flag d SYS_READY_HBM || !flag d MEM_SCRUB_ENABLE || hbmSize ≤ a || d.tv.waitWords.contains (a / 8) then s
  else
    let (st, d) := checkHbm a d
    if st != 2 then { s with dev := d }
    else if mode d == 0 || mode d == 1 then
      putWord a 0 { s with dev := hbmFault a (trvCount d) d }
    else if a < regionBytes d && canRebuild d then { s with dev := awaitRebuild a (hbmFaultQuiet a d) }
    else { s with dev := hbmFault a (trvCount d) d }

/-- PATROL_SCRUB. -/
def execPatrolScrub (word : BitVec 37) (s : State) : Host.Outcome State Fault Refusal :=
  .next (whenGranted (patrolRead (8 * word.toNat)) s)

/-- The tile a stall record names (R88): the lowest that is neither ended nor gated, else the lowest at the floor. -/
def stalledTile (d : Dev) : Nat :=
  match (List.range 256).find? fun t => (tileOf d t).inTrav with
  | some t => t
  | none => ((List.range 256).find? fun t => (tileOf d t).count == floorOf d).getD 0

/-- Bits [24:0] of TRV_TILE_STAT for a tile. -/
def tileStat (d : Dev) (t : Nat) : Nat :=
  let x := tileOf d t
  x.step % 1024 + x.count % 2 * 2 ^ 10 + x.wait * 2 ^ 12 + x.detail * 2 ^ 16

/-- The stall window expires (R86-R88). -/
def stallFault (d : Dev) : Dev :=
  let m := mode d
  let exempt := flag d TRV_STATUS_HOLD || flag d DBG_HALT_HALTED || flag d TRV_STATUS_HOSTWAIT_SYS
  if !(m == 3 || m == 5 || m == 6) || !flag d TRV_STALL_ENABLE || exempt || !holds d then d
  else
    let t := stalledTile d
    let st := tileStat d t
    raise 0x09 (t + st % 2 ^ 16 * 2 ^ 16 + st / 2 ^ 16 * 2 ^ 32) (setFlag d TRV_STATUS_STALLED true)

/-- STALL. -/
def execStall (s : State) : Host.Outcome State Fault Refusal := .next (whenGranted (fun s => settle (onDev stallFault s)) s)

/-- A host wait outlasts its limit (R87): the one whose limit began first is reported, and its limit begins again. -/
def hostWaitReport (d : Dev) : Dev :=
  match d.tv.ownWaits with
  | q :: r => if getF d TRV_HOSTWAIT_LIMIT == 0 then d else raise 0x0B q { d with tv := { d.tv with ownWaits := r ++ [q] } }
  | [] => d

/-- HOSTWAIT_LIMIT. -/
def execHostwaitLimit (s : State) : Host.Outcome State Fault Refusal := .next (whenGranted (onDev hostWaitReport) s)

/-- The rate window ends (R89): TRV_RATE takes the floor's advance. -/
def rateEnd (d : Dev) : Dev :=
  let f := trvCount d
  setR { d with tv := { d.tv with winBase := f } } TRV_RATE (BitVec.ofNat 32 (f - d.tv.winBase))

/-- RATE_WINDOW. -/
def execRateWindow (s : State) : Host.Outcome State Fault Refusal := .next (whenAlive (onDev rateEnd) s)

/-- REPLAY_END: the window's end is reached, or an early end stands (R220, R221); the manager then orders FREEZE. -/
def replayEnds (d : Dev) : Dev :=
  if mode d != 5 || d.md.trans.isSome then d
  else if isMgr d then
    if d.vs.rplEnding || (allArrived d && atStop d) then mgrMode 4 d else d
  else if d.vs.rplEnding || standsAtStop d then beginTrans 4 false false (setFlag d TRV_STATUS_HOLD true) else d

/-- REPLAY_END. -/
def execReplayEnd (s : State) : Host.Outcome State Fault Refusal :=
  .next (whenGranted (fun s => settle (onDev replayEnds s)) s)

end Sys2Proof.Machine
end

