-- ==== Sys2Proof/Machine/Resil.lean ====
section
/-! DEFINITION. Losses, the partition map, detours, takeover, split and reunion, adoption and rebuild, as operations the
commands share (R115-R118, R240-R272, R460). -/

namespace Sys2Proof.Machine

/-- GENERATION of the map's EPOCH. -/
def generation (d : Dev) : Nat := getF d RES_STATUS_EPOCH / 4096

/-- A position known to stand in SAFE or fenced is not served by the run, but answers readout (R285). -/
def readable (d : Dev) (pos : Nat) : Bool := !isLost d pos || d.rs.safeLost.contains pos

/-- The relay's target is out of reach (R285): silent, or LOST for another reason than SAFE or a fence, or not in the
system. -/
def unreachable (d : Dev) (pos : Nat) : Bool :=
  (roleOf d pos).isNone || !readable d pos || (d.rs.silents.map (·.2.1)).contains pos

/-- HOST_RELAY.ACTIVE. -/
def syncRelay (d : Dev) : Dev := setF d HOST_RELAY_ACTIVE d.hs.relays.length

/-- The relays to a target that is lost end UNREACHABLE (R285). -/
def endRelays (pos : Nat) (d : Dev) : Dev :=
  let gone := d.hs.relays.filter fun r => r.target == pos
  let d := syncRelay { d with hs := { d.hs with relays := d.hs.relays.filter fun r => r.target != pos } }
  each gone (fun r d =>
    let ref := CmdRef.host (BitVec.ofNat 2 r.port) (BitVec.ofNat 16 r.tag)
    if r.live then endCmd ref 13 [] (((findCmd d ref).map (·.bytes)).getD 0) d else d) d

/-- Relays whose target has become silent or lost end (R285). -/
def sweepRelays (d : Dev) : Dev :=
  each ((d.hs.relays.map (·.target)).filter (unreachable d)) endRelays d

/-- Mark a position LOST (R240): the replay buffers that lead to it are discarded (R460), what waits for it alone is
dropped, and a lost deputy is no deputy. -/
def markLost (pos : Nat) (d : Dev) : Dev :=
  let d := setFlag d (bitFld (RES_LOST (pos / 32)) (pos % 32)) true
  let d := each (List.range 18) (fun k d =>
    if getF d (LINK_RP_STAT_PEER k) == pos && getF d (LINK_RP_STAT_STATE k) != 0 then
      setF (setRope d k { ropeOf d k with replay := [], kept := [] }) (LINK_RP_FLOW_UNACKED k) 0
    else d) d
  let stuck := fun f : Flit => if f.dkind then f.dest == pos else pmap d f.dest == some pos
  let d := each (d.lk.waitq.filter stuck) dropFlit d
  let d := { d with
    lk := { d.lk with waitq := d.lk.waitq.filter fun f => !stuck f }
    tv := { d.tv with hostWaits := d.tv.hostWaits.filter (·.1 != pos), highs := d.tv.highs.filter (·.1 != pos)
                      waitSteps := if spareOf d (myParty d) == some pos then [] else d.tv.waitSteps }
    rs := { d.rs with silents := d.rs.silents.filter (fun s => s.1 != pos && s.2.1 != pos)
                      acks := (d.rs.acks.map fun a => { a with left := a.left.filter (· != pos) }).filter (!·.left.isEmpty) } }
  let d := if flag d SYS_TOPOLOGY_DEP_VALID && getF d SYS_TOPOLOGY_DEP_POS == pos && isLost d pos then
      let d := setDeputy pos false d
      if isMgr d then hostEvent 7 [0, 0, 0, 0] d else d
    else d
  syncParent (sweepRelays (setFlag d TRV_STATUS_HOSTWAIT_SYS (!d.tv.ownWaits.isEmpty || !d.tv.hostWaits.isEmpty)))

/-- A loss in BOOT, STANDBY or LOAD (R265): no adoption, TOPO clears, and the manager aborts a load. -/
def earlyMode (d : Dev) : Bool := mode d == 0 || mode d == 1 || mode d == 2

/-- ACK of an applied change (R241). -/
def sendAck (sub : Nat) (d : Dev) : Dev := sendMgr 0x12 4 (sysctl d (myPos d) sub 0) d

/-- A device that receives a LOST for its own position is fenced (R242): source 0x21, C4, no announcement. -/
def fenced (d : Dev) : Dev := raiseWith 0x21 0 (trvCount d) false true false d

/-- LOST at a device (R241, R242): each LOST advances UPDATE and is acknowledged, also one for a position already marked. -/
def applyLost (pos : Nat) (d : Dev) : Dev :=
  let d := bumpEpoch (markLost pos d)
  if pos == myPos d then fenced d
  else sendAck 3 (if earlyMode d then setFlag d SYS_READY_TOPO false else d)

/-- Whether the manager's spare of a party can take over partition P (R265): protected operation with a committed
checkpoint, and a live spare that is not already adopting. A spare that reported its parity inconsistent, or joined in this run, sends
no message when it is consistent again (R155, R267): whether it is, is a free bit (assumptions row 104). -/
def adopter (d : Dev) (pos : Nat) : Option Nat :=
  if !canRecover d then none
  else match spareOf d (pos / 16) with
    | some sp =>
      let parity := !d.rs.noParity.contains sp || Config.freeBit d.free
      if sp != pos && parity && !((d.rs.adopting ++ d.rs.toAdopt).any fun a => a.2 == sp) then some sp else none
    | none => none

/-- The system goes to SAFE: the order to every device, then this device's own C4 (R225, R265). -/
def unabsorbed (src detail : Nat) (d : Dev) : Dev :=
  raiseWith src detail (trvCount d) false true true (sendMode 7 false 0 0 d)

/-- The manager declares a position lost (R244, R245, R251, R264, R265). `safe` says it stands in SAFE for readout. -/
def declareLost (safe : Bool) (pos : Nat) (d : Dev) : Dev :=
  if isLost d pos || pos == myPos d || !isMgr d then d
  else
    let part := partOf d pos
    let sp := adopter d pos
    let idleSpare := roleOf d pos == some 3 && part.isNone
    let early := earlyMode d
    let d := if safe then { d with rs := { d.rs with safeLost := pos :: d.rs.safeLost } } else d
    let d := if early then (record 0x17 3 3 0 (trvCount d) pos false d).2
      else if idleSpare then
        if d.rs.adopting.any fun a => a.2 == pos then unabsorbed 0x17 pos d else raise 0x0F 4 d
      else match part, sp with
        | some p, some sp =>
          raise 0x17 pos { d with rs := { d.rs with toAdopt := d.rs.toAdopt ++ [(p, sp)], mapping := d.rs.mapping ++ [(p, sp)] } }
        | some _, none => unabsorbed 0x17 pos d
        | none, _ => raise 0x17 pos d
    let d := bumpEpoch (markLost pos d)
    let d := awaitAcks 3 pos (sendPos 0x12 3 pos (sysctl d pos 0 0) (broadcast 0x12 3 (sysctl d pos 0 0) d))
    if early then abortLoad 15 [] (setFlag d SYS_READY_TOPO false) else d

/-- Send a command descriptor to a device (R286). -/
def sendCmd (pos rtag : Nat) (desc : List Word) (d : Dev) : Dev :=
  let bs := desc.flatMap fun w => bytesOf 4 w.toNat
  each [0, 1, 2] (fun k d =>
    sendPos 0x10 0 pos (at8 8 rtag + at8 10 k + at8 12 (natOf ((bs.drop (24 * k)).take 24))) d) d

/-- The relay tag of the manager's own traffic: the highest free one. -/
def ownTag (d : Dev) : Nat := ((List.range 256).reverse.find? fun r => !(d.hs.relays.any fun x => x.rtag == r)).getD 255

/-- The manager's own relayed register write (R33, R247): it takes a relay tag and awaits no record. -/
def writeOther (pos off v : Nat) (d : Dev) : Dev :=
  if pos == myPos d then (if 0x40040 ≤ off ∧ off < 0x40088 then detourWrite off (BitVec.ofNat 32 v) d else retryWaiting (setR d off (BitVec.ofNat 32 v)))
  else
    sendCmd pos (ownTag d) ([0x03, 0, off, v] |>.map (BitVec.ofNat 32)) d

/-- Fill LINK_PROUTE (R116); the entry of a party that SYS_EXTENT does not count is DIM 3 (DESIGN CHOICE, assumptions row 87). -/
def fillProute (d : Dev) : Dev :=
  each (List.range 64) (fun q d =>
    let e := if q < parties d then prouteEntry d (myParty d) (myMember d) q else (3, false)
    setR d (LINK_PROUTE q) (BitVec.ofNat 32 (e.1 + b2n e.2 * 4))) d

/-- The parties the manager's side reaches (R268): those whose anchor has a path to the manager's party. -/
def reached (d : Dev) : List Nat :=
  let l := distances d (myParty d) 12
  (List.range (parties d)).filter fun p => decide (l.getD p 64 < 64)

/-- A system partition at the manager (R269): with at least half of the parties it recovers its side and waits for
reunion; with less it strands with its side. -/
def split (gone : List Nat) (d : Dev) : Dev :=
  let side := (List.range (parties d)).filter fun p => !gone.contains p
  let n := side.length
  if flag d RES_STATUS_SPLIT then d
  else if parties d ≤ 2 * n then
    let d := each gone (fun p d => setFlag d (bitFld (RES_UNREACH0 + 4 * (p / 32)) (p % 32)) true) (setFlag d RES_STATUS_SPLIT true)
    hostEvent 8 [1, n, 0, 0] (raise 0x21 n d)
  else
    let d := (record 0x21 3 3 0 (trvCount d) n false d).2
    orderMode 4 true 0 (broadcast 0x12 0 (sysctl d (4 + 8) 0 0) d)

/-- Whether the manager knows the rope between two positions to be lost (R247). -/
def ropeGone (d : Dev) (a b : Nat) : Bool := d.rs.lostRopes.any fun r => (r.1 == a && r.2.1 == b) || (r.1 == b && r.2.1 == a)

/-- The end of a lost rope that R248 names is declared lost; the manager itself stops, and its deputy takes over. -/
def loseEnd (pos : Nat) (d : Dev) : Dev := if pos == myPos d then abdicate d else declareLost false pos d

/-- No detour exists for a lost rope (R248): in the party, the end with fewer usable ropes is declared lost; in the torus,
LINK_PROUTE is rewritten over the remaining links. -/
def noDetour (m k : Nat) (d : Dev) : Dev :=
  let n := peerOf d m k
  if k < 15 then
    let up := fun p => ((List.range 18).filter fun j =>
      let q := peerOf d p j
      q != p && (q == myPos d || d.rs.topo.any (·.1 == q)) && !isLost d q &&
        !ropeGone d p q).length
    loseEnd (if up m < up n then m else if up n < up m then n else max m n) d
  else
    let d := { d with rs := { d.rs with deadLinks := (m / 16, k - 15, decide (8 ≤ m % 16)) :: d.rs.deadLinks } }
    let side := reached d
    let gone := (List.range (parties d)).filter fun p => !side.contains p
    let devs := myPos d :: systemDevs d
    let d := each devs (fun x d => each (side.filter fun q => q != x / 16) (fun q d =>
      let e := prouteEntry d (x / 16) (x % 16) q
      writeOther x (LINK_PROUTE q) (e.1 + b2n e.2 * 4) d) d) d
    if gone.isEmpty then d else split gone d

/-- The manager learns of a lost rope (R247): it chooses VIA and writes LINK_DETOUR of each end. -/
def ropeReported (m k : Nat) (d : Dev) : Dev :=
  let n := peerOf d m k
  if !isMgr d || n == m || d.rs.lostRopes.any (fun r => r.1 == m && r.2.1 == n) then d
  else
    let d := { d with rs := { d.rs with lostRopes := (m, n, d.ticks) :: d.rs.lostRopes } }
    if isLost d m || (k < 15 && isLost d n) then d
    else
      let bad := fun (l : List (Nat × Nat)) a b => l.contains (a, b) || l.contains (b, a)
      let party := (List.range 16).map (m / 16 * 16 + ·) |>.filter fun v => v != m && v != n && !isLost d v && (d.rs.topo.any (·.1 == v) || v == myPos d)
      let ok := if k < 15 then party.filter fun v => !ropeGone d v m && !ropeGone d v n
        else party.filter fun v => decide (v % 16 < 8) == decide (m % 16 < 8) && !ropeGone d v m &&
          !ropeGone d v (peerOf d v k) && !isLost d (peerOf d v k)
      let best := ok.filter fun v => !bad d.rs.degraded v m && !bad d.rs.degraded v (if k < 15 then n else peerOf d v k)
      match if k < 15 then best ++ ok else best with
      | v :: _ =>
        let d := writeOther m (LINK_DETOUR k) (v % 16 + 2 ^ 31) d
        if k < 15 then writeOther n (LINK_DETOUR (14 - k)) (v % 16 + 2 ^ 31) d else d
      | [] => noDetour m k d

/-- The torus ropes that end at a lost position are lost too: their other ends get a detour (R247; DEDUCED, row 39). -/
def torusDetours (pos : Nat) (d : Dev) : Dev :=
  if !isLost d pos then d
  else each [15, 16, 17] (fun k d =>
    let m := peerOf d pos k
    if m == pos || !(m == myPos d || d.rs.topo.any (·.1 == m)) then d else ropeReported m k d) d

/-- The manager declares a position lost and chooses the detours that takes. -/
def loseDevice (safe : Bool) (pos : Nat) (d : Dev) : Dev :=
  let was := isLost d pos
  let d := declareLost safe pos d
  if was then d else torusDetours pos d

/-- The manager learns that a lost rope is back (R272): LINK_DETOUR of each end is cleared. -/
def ropeRestored (m k : Nat) (d : Dev) : Dev :=
  let n := peerOf d m k
  if !isMgr d || !ropeGone d m n then d
  else
    let d := { d with rs := { d.rs with lostRopes := d.rs.lostRopes.filter fun r => !((r.1 == m && r.2.1 == n) || (r.1 == n && r.2.1 == m)) } }
    let d := writeOther m (LINK_DETOUR k) 0 d
    if k < 15 then writeOther n (LINK_DETOUR (14 - k)) 0 d else d

/-- Local ticks at the start of a position's silence: its first report less DEV_TMO (R126, R253). -/
def silenceStart (d : Dev) (pos : Nat) : Nat :=
  let tmo := max 500 (min 10000 (getF d LINK_TIMEOUT_DEV_TMO))
  minList d.ticks ((d.rs.silents.filter fun s => s.2.1 == pos).map (·.2.2)) - tmo

/-- Whether R126 is met for a position: every other live party peer whose rope to it was up at the start of the silence has
reported it silent; peers that are themselves reported silent cannot report. -/
def silentMet (d : Dev) (pos : Nat) : Bool :=
  let hushed := d.rs.silents.map (·.2.1)
  let t0 := silenceStart d pos
  let down := fun m => d.rs.lostRopes.any fun r => decide (r.2.2 ≤ t0) && ((r.1 == m && r.2.1 == pos) || (r.1 == pos && r.2.1 == m))
  let peers := (List.range 16).map (pos / 16 * 16 + ·) |>.filter fun m =>
    m != pos && !isLost d m && (m == myPos d || d.rs.topo.any (·.1 == m)) && !hushed.contains m && !down m
  hushed.contains pos && peers.all fun m => d.rs.silents.any fun s => s.1 == m && s.2.1 == pos

/-- A CENSUS to every party, the silent manager passed over as a repeater (R119, R260). -/
def censusAround (mgr : Nat) (d : Dev) : Dev :=
  let f := bitFld (RES_LOST (mgr / 32)) (mgr % 32)
  setFlag (broadcast 0x12 6 (sysctl d (myPos d) 0 0) (setFlag d f true)) f (isLost d mgr)

/-- The deputy loses the manager (R244, R260): source 0x20, whose C3 action holds the system, then CENSUS. Before the first run there is
no takeover, as R21 permits one only in RECOVER (R265). -/
def managerGone (d : Dev) : Dev :=
  if earlyMode d then setFlag (record 0x20 3 3 0 (trvCount d) (mgrPos d) false d).2 SYS_READY_TOPO false
  else
    let d := raise 0x20 (mgrPos d) d
    if mode d == 7 then d
    else censusAround (mgrPos d) { d with rs := { d.rs with census := some ⟨2, []⟩ } }

/-- SILENT reports are classified when the settle window ends (R244, R260). -/
def classify (d : Dev) : Dev :=
  let set := ((d.rs.silents.map (·.2.1)).foldr insertOnce []).filter fun p => silentMet d p && !isLost d p
  let ps := (set.map (· / 16)).foldr insertOnce []
  let live := fun p => (List.range 16).map (16 * p + ·) |>.filter fun m => !isLost d m && (d.rs.topo.any (·.1 == m) || m == myPos d)
  let gone := ps.filter fun p => (live p).all set.contains
  let start := minList d.ticks (set.map (silenceStart d))
  let d := { d with rs := { d.rs with settling := false, silents := [], since := if set.isEmpty then d.rs.since else some start } }
  if isMgr d then
    if !gone.isEmpty then split gone d
    else if ps.all fun p => decide ((set.filter fun m => m / 16 == p).length ≤ 1) then each set (loseDevice false) d
    else match set with
      | m :: _ => unabsorbed 0x17 m (each set (fun x d => broadcast 0x12 3 (sysctl d x 0 0) (bumpEpoch (markLost x d))) d)
      | [] => d
  else if role d == 2 && set.contains (mgrPos d) then managerGone d
  else d

/-- A SILENT report is noted, and the settle window starts with the first (R244). -/
def noteSilent (reporter pos : Nat) (d : Dev) : Dev :=
  if !(isMgr d || role d == 2) || isLost d pos then d
  else
    let known := d.rs.silents.any fun s => s.1 == reporter && s.2.1 == pos
    let l := if known then d.rs.silents else (reporter, pos, d.ticks) :: d.rs.silents
    sweepRelays { d with rs := { d.rs with silents := l, settling := true } }

/-- A party's anchor (R260). -/
def anchor (d : Dev) (mgr p : Nat) : Option Nat :=
  let ms := (List.range 16).map (16 * p + ·) |>.filter fun m => (d.rs.topo.any (·.1 == m) || m == myPos d)
  match ms.find? fun m => m != mgr && !isLost d m with
  | some m => some m
  | none => if ms.contains mgr then some mgr else none

/-- A relayed queue of another partition as a new manager finds it: which ones the system has, and their bindings, no message tells
it, so partition, queue and descriptor bits are free values (R200; assumptions row 112). -/
def freeRelay (d : Dev) (n : Nat) : Nat × Nat × Nat :=
  let part := Config.freeChoice n % 1023
  let w := Config.freeChoice (n + 2) % 2 ^ 24
  (if some part == myPart d then 1023 else part, Config.freeChoice (n + 1) % 8192, w / 2 ^ 18 * 2 ^ 18 + (40 + w / 2 ^ 12 % 4) * 2 ^ 12 + w % 2 ^ 12)

/-- A deputy that takes over rebuilds the relay table with empty rings, whose hosts must attach again (R200). -/
def emptyRelays (d : Dev) : Dev :=
  let n := Config.freeChoice d.free % 8193
  let qs := (List.range n).map fun i => freeRelay d (d.free + 1 + 3 * i)
  let d := buildRelays { d with free := d.free + 1 + 3 * n, hs := { d.hs with relayQs := qs } }
  let d := set2 d QUE_RTAB_LO d.qu.rtab
  { d with qu := { d.qu with rdesc := d.qu.rdesc.map fun e => (e.1, { e.2 with orphan := true }) } }

/-- Whether a party has a path over usable links to more than half of the parties. -/
def majorityReach (d : Dev) (party : Nat) : Bool :=
  let l := distances d party 12
  decide (parties d < 2 * ((List.range (parties d)).filter fun p => decide (l.getD p 64 < 64)).length)

/-- The worker the new manager appoints as deputy (R21): the lowest-numbered live worker of the lowest-numbered other party that can
reach a majority of parties; in a single-party system none is in another party, and none is appointed. -/
def nextDeputy (d : Dev) : Option Nat :=
  ((liveHolders d).filter fun p => p / 16 != myParty d && roleOf d p == some 0 && majorityReach d (p / 16)).foldl (fun m p =>
    match m with
    | some q => some (min p q)
    | none => some p) none

/-- The deputy takes over, in RECOVER (R21, R261, R262, R293): TAKEOVER at the newest checkpoint reported as committed, the old manager LOST,
the partition of every LOST holder to its party's spare (R272), a new deputy, and the recovery from step 3. -/
def takeOver (replies : List (Nat × Nat × Nat × Nat × Bool)) (d : Dev) : Dev :=
  let old := mgrPos d
  let me := myPos d
  let own := (latest d).1
  let seq := replies.foldl (fun m r => max m r.2.2.1) own
  let k := (replies.find? fun r => r.2.2.1 == seq).map (·.2.1) |>.getD (latest d).2
  let k := if seq == own then (latest d).2 else k
  let g := (generation d + 1) % 16
  let cfg := getF d SYS_ROLE_CFG_ROLE
  let d := setF (markLost old d) RES_STATUS_EPOCH (g * 4096)
  let gone := (List.range (16 * parties d)).filterMap fun p => (pmap d p).bind fun h => if isLost d h then some (p, h) else none
  let d := bumpF (setF (setDeputy 0 false (setF d SYS_ROLE_ROLE 1)) SYS_TOPOLOGY_MGR_POS me) RES_COUNT_TAKEOVERS
  let d := broadcast 0x12 10 (sysctl d me k (seq + old * 2 ^ 32)) d
  let d := sendPos 0x12 10 old (sysctl d me k (seq + old * 2 ^ 32)) d
  let d := { d with ck := { d.ck with lastSeq := max d.ck.lastSeq (max seq d.rs.seqBase) }
                    tv := { d.tv with highs := [], arriveds := [] }
                    rs := { d.rs with census := none, takeover := none, silents := [], settling := false, acks := [] } }
  let d := torusDetours old (awaitAcks 10 old d)
  let d := hostEvent 6 [me + old * 2 ^ 16, 0, 0, 0] (hostEvent 5 [me + 1 * 2 ^ 10 + 2 * 2 ^ 12, 0, 0, 0] d)
  let d := noteTopo me 1 cfg (myPart d + 1) (emptyRelays d)
  let d := match nextDeputy d with
    | some p => tellRole p 2 ((d.rs.topo.find? fun e => e.1 == p).map (·.2.2.1) |>.getD 0) (((partOf d p).map (· + 1)).getD 0)
        (roleChanged p 2 0 (setDeputy p true (sendPos 0x12 12 p (sysctl d p 0 0) d)))
    | none => hostEvent 7 [0, 0, 0, 0] d
  let pairs := gone.filterMap fun e => (adopter { d with rs := { d.rs with adopting := [], toAdopt := [] } } e.2).map (e.1, ·)
  if pairs.length < gone.length || pairs.any (fun e => pairs.any fun x => x.1 != e.1 && x.2 == e.2) then unabsorbed 0x17 old d
  else
    let d := beginRecovery { d with rs := { d.rs with toAdopt := pairs, mapping := pairs, noHighs := true } }
    { d with rs := { d.rs with rollSeq := seq, rollK := k } }

/-- A takeover decided by the census takes place once RECOVER is reached (R21). -/
def takeoverTry (d : Dev) : Dev :=
  match d.rs.takeover with
  | some replies => if mode d == 6 && d.md.trans.isNone then takeOver replies d else d
  | none => d

/-- The same with the mirror of the relay table it rebuilds (R198, R200). -/
def takeoverAt (s0 : State) : State :=
  let s := onDev takeoverTry s0
  if isMgr s.dev && !isMgr s0.dev then each s.dev.qu.rdesc (fun e s => setRdesc e.1 e.2 s) s else s

/-- Whether the deputy counts more than half of the parties (R260). -/
def majority (d : Dev) (replies : List (Nat × Nat × Nat × Nat × Bool)) : Bool :=
  let counts := (List.range (parties d)).filter fun p =>
    match anchor d (mgrPos d) p with
    | some a => a == myPos d || replies.any fun r => r.1 == a
    | none => false
  decide (parties d < 2 * counts.length)

/-- This device strands (R28, R263, R270). -/
def strandNow (d : Dev) : Dev :=
  if d.md.stranded then d
  else match d.md.trans with
    | some _ => { d with md := { d.md with keptOrders := d.md.keptOrders ++ [(4, true, 0)] } }
    | none => orderMode 4 true 0 d

/-- A TAKEOVER is accepted (R261): the old manager is LOST before anything else, GENERATION advances and the sender is the
manager. -/
def applyTakeover (pos old k seq gen : Nat) (d : Dev) : Dev :=
  let d := setF (markLost old d) RES_STATUS_EPOCH (gen * 4096)
  if old == myPos d then fenced d
  else
    let d := bumpF (setDeputy 0 false (setF d SYS_TOPOLOGY_MGR_POS pos)) RES_COUNT_TAKEOVERS
    let d := { d with rs := { d.rs with census := none, takeover := none, silents := [], settling := false }, ck := { d.ck with requesting := false } }
    sendAck 10 (if d.ck.pends.any fun c => c.seq == seq && c.k == k then syncCkp d else d)

/-- Reunion (R25, R271): the split ends, and the system rolls back to the newest checkpoint every device holds; there is none in open
operation or from another mode than RUN, FREEZE and RECOVER. -/
def reunite (replies : List (Nat × Nat × Nat × Nat × Bool)) (d : Dev) : Dev :=
  if !isProtected d || !(mode d == 3 || mode d == 4 || mode d == 6) then { d with rs := { d.rs with census := none } } else
  let d := setFlag (setR (setR d RES_UNREACH0 0) RES_UNREACH1 0) RES_STATUS_SPLIT false
  let d := hostEvent 8 [0, parties d, 0, 0] d
  let own := latest d
  let t := replies.foldl (fun m r => if r.2.2.1 < m.1 then (r.2.2.1, r.2.1) else m) own
  let d := { d with rs := { d.rs with census := none, deadLinks := [], recovering := true, phase := 0, rollSeq := t.1, rollK := t.2, dones := [], noHighs := true } }
  let d := sendMode 6 false 0 0 d
  if mode d == 6 then d
  else match d.md.trans with
    | some _ => d
    | none => beginTrans 6 false true { d with md := { d.md with recEntry := mode d } }

/-- A peer's words of a page as at its pin, in PARITY flits, and the page's end flit (R256). -/
def sendPage (pos page : Nat) (s : State) : State :=
  let d := engineCheck (if 4096 * page < regionBytes s.dev then wordAddrs (4096 * page) 4096 else []) s.dev
  let k := d.par.pin.getD (latest d).2
  let seq := if d.par.pin.isSome then d.par.streamSeq else (latest d).1
  let cells := if 4096 * page < regionBytes d then pageAt d s.mem k page else []
  let ws := ((List.range 512).map fun i => (4096 * page / 8 + i, hbmWord cells (8 * i))).filter fun e => e.2 != 0#64
  let d := each (chunksOf 2 ws) (fun c d => sendParity pos seq c d) d
  { s with dev := sendPos 0x29 (4 * (seq % 256)) pos (at8 8 page + at8 12 ws.length) d }

/-- The next page of a stream leaves (R256, R267); at its end the pin is released (R257). -/
def streamNextPage (s : State) : State :=
  match s.dev.par.streamTo with
  | none => s
  | some pos =>
    let p := s.dev.par.streamNext
    let s := if s.dev.par.served.contains p then s else sendPage pos p s
    let d := s.dev
    if d.par.streamEnd ≤ p + 1 then
      { s with dev := setR { d with par := { d.par with streamTo := none, pin := none } } RES_REBUILD 0 }
    else { s with dev := setR { d with par := { d.par with streamNext := p + 1 } } RES_REBUILD (BitVec.ofNat 32 (d.par.streamEnd - p - 1)) }

end Sys2Proof.Machine
end

