-- ==== Sys2Proof/Machine/Ropes.lean ====
section
/-! DEFINITION. Training, retry, lane and rope loss, and time synchronisation of one rope (R92-R101, R109-R111, R122-R126,
R131, R132, R460). -/

namespace Sys2Proof.Machine

/-- Number of active lanes of a rope. -/
def laneCount (m : BitVec 8) : Nat := popcount m

/-- Lanes of a rope that may be used: not disabled for test (LINK_RP_TEST.LANE_DIS). -/
def enabledLanes (d : Dev) (k : Nat) : BitVec 8 := ~~~(BitVec.ofNat 8 (getF d (LINK_RP_TEST_LANE_DIS k)))

/-- SYS_READY.LINK is set once every wired rope is up, degraded, lost or mis-cabled (R94); the boot window runs, and the device
reports to the manager (R20, R299); the manager, which has no parent, has TSYNC (R298 step 9, R132). -/
def syncLink (d : Dev) : Dev :=
  if flag d SYS_READY_LINK || !flag d SYS_READY_CFG then d
  else if (List.range 18).all fun k => !(ropeOf d k).wired || decide (2 ≤ getF d (LINK_RP_STAT_STATE k)) then
    let d := syncParent (setFlag d SYS_READY_LINK true)
    sendMgr 0x12 1 (sysctl d (myPos d) (topoValue d) 0) { d with pw := { d.pw with bootWindow := true } }
  else d

/-- Put flits of a lost rope before the new ones of the rope each takes, in their order (R115-R118, R460). -/
def routeAhead (fs : List Flit) (d : Dev) : Dev :=
  let (fs, d) := sortFlits fs d
  let rope := fun (f : Flit) => usableRope d ((flitTarget d f).getD 0)
  let byRope := fun k => fs.filter fun f => rope f == some k
  let none_ := fs.filter fun f => (rope f).isNone
  let d := { d with lk := { d.lk with waitq := none_ ++ d.lk.waitq } }
  each (List.range 18) (fun k d =>
    let mine := byRope k
    if mine.isEmpty then d
    else let r := ropeOf d k; pumpAll k (setRope d k { r with outq := mine ++ r.outq })) d

/-- Declare a rope lost (R110, R122, R123, R460): its waiting flits are routed anew, its replay buffer is kept for the
exchange, the peer is told the last SEQ accepted, and the loss is reported. -/
def loseRope (k : Nat) (d : Dev) : Dev :=
  let r := ropeOf d k
  let peer := getF d (LINK_RP_STAT_PEER k)
  let d := setRope (setRopeState k 4 d) k { r with outq := [], retry := false, replay := [], kept := r.kept ++ [r.replay], lost := true }
  let d := setF d (LINK_RP_STAT_LANES k) 0
  let d := reroute r.outq d
  let d := if isLost d peer then d
    else sendPos 0x13 7 peer (at8 8 ((r.rxSeq + 4095) % 4096 + k * 2 ^ 12)) d
  let d := raise 0x12 (k + peer * 2 ^ 5) d
  if isMgr d then ropeReported (myPos d) k d else d

/-- Restripe over the lanes set in both ends' masks (R99, R122, R123): fewer than four lose the rope. -/
def restripe (k : Nat) (d : Dev) : Dev :=
  let r := ropeOf d k
  let m := r.rxLanes &&& r.txLanes
  if !ropeUp d k then d
  else if laneCount m < 4 then loseRope k d
  else
    let d := if getF d (LINK_RP_STAT_LANES k) == m.toNat then d else setRope d k { r with units := 0 }
    setRopeState k (if laneCount m == 8 then 2 else 3) (setF d (LINK_RP_STAT_LANES k) m.toNat)

/-- Resend from a SEQ (R110): every unacknowledged flit from it on leaves again in order; a resend episode is counted and
reported, and a SEQ sent 16 times loses the rope. -/
def resend (k seq : Nat) (d : Dev) : Dev :=
  let r := ropeOf d k
  let fs := r.replay.dropWhile fun f => f.seq != seq
  if fs.isEmpty || !ropeUp d k then d
  else
    let fs := fs.map fun f => { f with sends := f.sends + 1 }
    let d := setRope d k { r with replay := r.replay.takeWhile (fun f => f.seq != seq) ++ fs }
    let d := countF d (LINK_RP_RETRY_EPISODES k) 1
    let d := each fs (putFlit k) d
    let d := raise 0x11 k d
    if fs.any fun f => decide (16 ≤ f.sends) then loseRope k d else d

/-- Acknowledge flits up to ACKSEQ (R109, R111). -/
def ackFlits (k ack : Nat) (d : Dev) : Dev :=
  let r := ropeOf d k
  let left := r.replay.filter fun f => 2048 ≤ (ack + 4096 - f.seq) % 4096
  if left.length == r.replay.length then d
  else setF (setRope d k { r with replay := left }) (LINK_RP_FLOW_UNACKED k) left.length

/-- One attempt of the lanes at a rate (R92, R94): the enabled lanes whose training pattern names this rope take part; which they
are is what the wires hold, a free value (assumptions row 89). -/
def trainLanes (k : Nat) (d : Dev) : Dev :=
  let (i, d) := fresh d
  setRope d k { ropeOf d k with rxLanes := enabledLanes d k &&& Config.trainedLanes i }

/-- Begin to train a rope (R94): STATE 1, LC_TRAIN sent; auto mode begins at full rate. -/
def beginTraining (k : Nat) (d : Dev) : Dev :=
  let r := ropeOf d k
  let d := setRopeState k 1 d
  let d := setF d (LINK_RP_STAT_RATE k) (if r.rate == 2 then 1 else 0)
  let d := setF (trainLanes k d) (LINK_RP_STAT_LANES k) 0
  sendTrain k false d

/-- A rope comes into use with SEQ 0 in both directions, every buffer credited and an empty replay buffer (R114, R460). Enabled lanes
that did not train are reported as lost (R92). While a detour is in force traffic stays on it (R124). -/
def ropeComesUp (k : Nat) (lanes : BitVec 8) (d : Dev) : Dev :=
  let r := ropeOf d k
  let f := rope0 k
  let r' := { f with wired := r.wired, expPos := r.expPos, expRope := r.expRope, rate := r.rate, rxLanes := r.rxLanes, txLanes := lanes
                     lost := r.lost && flag d (LINK_DETOUR_VALID k)
                     hbPos := r.hbPos, hbMode := r.hbMode, hbRole := r.hbRole, hbStranded := r.hbStranded, outq := r.outq, kept := r.kept }
  let m := r.rxLanes &&& lanes
  let d := setF (setF (setRope d k r') (LINK_RP_FLOW_SHARED k) 1424) (LINK_RP_FLOW_UNACKED k) 0
  let d := setF (setRopeState k (if laneCount m == 8 then 2 else 3) d) (LINK_RP_STAT_LANES k) m.toNat
  let d := each ((List.range 8).filter fun i => (enabledLanes d k &&& ~~~r.rxLanes).getLsbD i) (fun i d => raise 0x10 (k + i * 2 ^ 5) d) d
  let d := if isMgr d then ropeRestored (myPos d) k d else d
  pumpAll k (retryWaiting d)

/-- LC_TRAIN from the peer while the rope trains (R92, R94): the lower rate both ends accept, and up once both are READY with four
lanes in common at that rate. -/
def trainFlit (k pos peerRope : Nat) (fallback : Bool) (lanes : BitVec 8) (ready : Bool) (d : Dev) : Dev :=
  let r := ropeOf d k
  if !r.wired || getF d (LINK_RP_STAT_STATE k) != 1 then d
  else
    let d := setF (setF d (LINK_RP_STAT_PEER k) pos) (LINK_RP_STAT_PEER_ROPE k) peerRope
    if pos != r.expPos || peerRope != r.expRope then
      syncLink (raise 0x13 (k + pos * 2 ^ 5) (setRopeState k 5 d))
    else
      let d := if fallback && r.rate == 0 then setF d (LINK_RP_STAT_RATE k) 1 else d
      let d := setRope d k { ropeOf d k with txLanes := lanes }
      let agreed := getF d (LINK_RP_STAT_RATE k) == b2n fallback && decide (4 ≤ laneCount (r.rxLanes &&& lanes))
      if ready && agreed then syncLink (ropeComesUp k lanes (sendTrain k true d)) else sendTrain k agreed d

/-- The training time at the present rate ends (R94): auto mode goes on at the fallback rate, else the rope is lost; the
loss is reported when it was not known before. -/
def trainingEnds (k : Nat) (d : Dev) : Dev :=
  let r := ropeOf d k
  if !r.wired || getF d (LINK_RP_STAT_STATE k) != 1 then d
  else if r.rate == 0 && getF d (LINK_RP_STAT_RATE k) == 0 then sendTrain k false (trainLanes k (setF d (LINK_RP_STAT_RATE k) 1))
  else
    let d := setRope (setRopeState k 4 d) k { r with retry := false, lost := true }
    let d := raise 0x12 (k + r.expPos * 2 ^ 5) d
    syncLink (if isMgr d then ropeReported (myPos d) k d else d)

/-- A lane of this receiver is lost (R122): it is reported, LC_NAK carries the reduced mask, and the rope restripes. -/
def loseLane (k lane : Nat) (d : Dev) : Dev :=
  let r := ropeOf d k
  if !ropeUp d k || !r.rxLanes.getLsbD lane then d
  else
    let d := setRope d k { r with rxLanes := r.rxLanes &&& ~~~(BitVec.ofNat 8 (2 ^ lane)), nakSent := false, changed := true }
    let d := raise 0x10 (k + lane * 2 ^ 5) (sendNak k d)
    restripe k d

/-- A retrained lane rejoins (R124). -/
def rejoinLane (k lane : Nat) (d : Dev) : Dev :=
  let r := ropeOf d k
  if !ropeUp d k || !(enabledLanes d k).getLsbD lane || r.rxLanes.getLsbD lane then d
  else restripe k (setRope d k { r with rxLanes := r.rxLanes ||| BitVec.ofNat 8 (2 ^ lane), changed := true })

/-- A new attempt to train a lost rope (R124). -/
def retrainRope (k : Nat) (d : Dev) : Dev :=
  if getF d (LINK_RP_STAT_STATE k) == 4 then
    beginTraining k (setRope d k { ropeOf d k with retry := true })
  else d

/-- LC_STATUS from the peer (R111, R114): acknowledgements, credits and the lanes the peer decodes. -/
def statusFlit (k : Nat) (p : Nat) (d : Dev) : Dev :=
  if !ropeUp d k then d
  else
    let r := ropeOf d k
    let sh := bitsOf p 31 16
    let newShared := (sh + 65536 - r.seenShared) % 65536
    let c0 := (List.range 16).map fun c => bitsOf p (32 + 3 * c + 2) (32 + 3 * c)
    let cv := (List.range 48).map fun i => bitsOf p (80 + 2 * i + 1) (80 + 2 * i)
    let r := (List.range 16).foldl (fun (r : Rope) c =>
      let n := (c0.getD c 0 + 8 - sget zeroAt r.seen0 c) % 8
      { r with seen0 := sset zeroAt r.seen0 c (c0.getD c 0), cr0 := sset credit0 r.cr0 c (sget credit0 r.cr0 c + n) }) r
    let r := (List.range 48).foldl (fun (r : Rope) i =>
      let n := (cv.getD i 0 + 4 - sget zeroAt r.seenv i) % 4
      { r with seenv := sset zeroAt r.seenv i (cv.getD i 0), crv := sset credit1 r.crv i (sget credit1 r.crv i + n) }) r
    let d := setRope d k { r with seenShared := sh, txLanes := BitVec.ofNat 8 (bitsOf p 183 176) }
    let d := setF d (LINK_RP_FLOW_SHARED k) (getF d (LINK_RP_FLOW_SHARED k) + newShared)
    let d := if bitOf p 12 then ackFlits k (p % 4096) d else d
    pumpAll k (restripe k d)

/-- Set the timebase, in 1/64 tick: SYS_TIME and the part below a tick (R131). STATUS signal 6 pulses when SYS_TIME passes a multiple
of 100,000,000 (R368). -/
def setTime (t : Nat) (d : Dev) : Dev :=
  let was := sysTime d
  let d := set2 { d with lk := { d.lk with frac := t % 64 } } TMR_SYSTIME_LO (t / 64 % 2 ^ 64)
  if was / 100000000 < sysTime d / 100000000 then pulseStatus 6 d else d

/-- The timebase in 1/64 tick. -/
def fineTime (d : Dev) : Nat := 64 * sysTime d + d.lk.frac

/-- Whether this device's parent has TSYNC (R132): the manager has; no message tells it of another device, so there it is a free
value (assumptions row 90). -/
def parentSynced (d : Dev) : Bool × Dev :=
  if getF d LINK_TSYNC_PARENT == mgrPos d then (true, d) else let (i, d) := fresh d; (Config.freeBit i, d)

/-- A TIME reply (R131, R132): the offset is recorded; beyond 1 µs the timebase steps, else it slews. Eight exchanges in a row
within 1.5 ns set TSYNC once the parent has it; eight beyond 4 ns clear it and are reported. An odd difference is halved downward
and OFFSET saturates at its field's ends (DESIGN CHOICE, assumptions row 91). -/
def timeOffset (t1 t2 t3 t4 : Nat) (d : Dev) : Dev :=
  let sub : Nat → Nat → Int := fun a b => (BitVec.ofNat 64 a - BitVec.ofNat 64 b).toInt
  let off : Int := (sub t2 t1 - sub t4 t3) / 2
  let d := setF d LINK_TSYNC_OFFSET ((BitVec.ofInt 16 (max (-32768) (min 32767 off))).toNat)
  let mag := off.natAbs
  -- 1/64 tick is 10/64 ns: 1.5 ns is 9.6 and 4 ns is 25.6 of them; 1 µs is 6,400
  let good := if mag * 10 ≤ 96 then d.lk.good + 1 else 0
  let bad := if 256 < mag * 10 then d.lk.bad + 1 else 0
  let d := { d with lk := { d.lk with good := min good 8, bad := min bad 8, adjusting := if 6400 < mag then 0 else off } }
  let d := if 6400 < mag then setTime ((fineTime d + off.toNat + 2 ^ 70 - (-off).toNat) % 2 ^ 70) d else d
  let d := if 8 ≤ good && !flag d SYS_READY_TSYNC then (let (up, d) := parentSynced d; setFlag d SYS_READY_TSYNC up) else d
  if 8 ≤ bad && flag d SYS_READY_TSYNC then
    raise 0x16 (getF d LINK_TSYNC_OFFSET) (setFlag { d with lk := { d.lk with bad := 0 } } SYS_READY_TSYNC false)
  else d

end Sys2Proof.Machine
end

