-- ==== Sys2Proof/Machine/Receive.lean ====
section
/-! DEFINITION. Receiving a data flit: acceptance in sequence, the receive buffer, discards, routing, repetition, and
delivery (R105, R109, R114-R119, R242), and the commands of run control, floors and values (R106-R108). -/

namespace Sys2Proof.Machine

/-- A data flit is accepted in sequence (R109): the next SEQ is expected. -/
def acceptSeq (k : Nat) (d : Dev) : Dev :=
  let r := ropeOf d k
  setRope d k { r with rxSeq := (r.rxSeq + 1) % 4096, rxAny := true, nakSent := false, changed := true }

/-- Flits a device takes from a position marked LOST (R242): PROBE, the TOPO report with which a module joins again (R267, R299), and
the replies of a device in SAFE to a command relayed for readout, which the manager takes from such a device only. -/
def fromLost (d : Dev) (pos ty sub : Nat) : Bool :=
  ((ty == 0x11 || ty == 0x32 || ty == 0x31) && (!isMgr d || d.rs.safeLost.contains pos)) || (ty == 0x12 && (sub == 15 || sub == 1))

/-- A received flit as it is sent on: it keeps its SRC, and no silence of this device holds it. -/
def passFlit (rx : Rx) (ty sub body : Nat) (dest : Nat) (dkind : Bool) (held : Option (Nat × Bool)) : Flit where
  ty := ty
  seq := 0
  hops := rx.hops.toNat + 1
  rsv := false
  dest := dest
  dkind := dkind
  pcast := rx.pcast && held.isSome
  src := rx.src.toNat
  sub := sub
  body := BitVec.ofNat 224 body
  held := held
  sends := 0

/-- The copies of a PCAST flit to the device's party (R119). They leave with the next HOPS, and none leave at HOPS 15, without a report
(DESIGN CHOICE, assumptions row 92). -/
def repeatFlit (rx : Rx) (ty sub body : Nat) (d : Dev) : Dev :=
  if !rx.pcast || rx.hops == 15#4 then d
  else each ((liveMembers d (myParty d)).filter (· != rx.src.toNat)) (fun p d =>
    route p (passFlit rx ty sub body p true none) d) d

/-- A data flit of a defined type reaches the device on a rope that is up: its SEQ was the next expected. It is discarded when
its originator is LOST, sent on when it is for another device, reported when it is misdelivered or has looped, and
delivered otherwise (R109, R114, R115, R117, R119, R242). -/
def receive (ty sub : Nat) (rx : Rx) (body : Nat) (effect : State → State) (s : State) : State :=
  let k := rx.rope.toNat
  if !granted s.dev || !ropeUp s.dev k then s
  else
    let d := acceptSeq k s.dev
    let vc := (vcOf ty).getD 0
    let dest := rx.dest.toNat
    let freed := fun d => pumpAll k (freeBuffer k vc rx.hops.toNat rx.rsv d)
    if isLost d rx.src.toNat && !fromLost s.dev rx.src.toNat ty sub then { s with dev := freed d }
    else
      match (if rx.dkind then some dest else pmap d dest) with
      | none => { s with dev := linkFault 0x15 k ty dest (freed d) }
      | some pos =>
        if pos == myPos d then
          if !rx.dkind && !(holds d && myPart d == dest) then { s with dev := linkFault 0x15 k ty dest (freed d) }
          else settle (effect { s with dev := repeatFlit rx ty sub body (freed d) })
        else if rx.hops == 15#4 then { s with dev := linkFault 0x15 k ty dest (freed d) }
        else { s with dev := route pos (passFlit rx ty sub body dest rx.dkind (some (k, rx.rsv))) d }

/-- HOLD (R79 step 1): a freeze begins at this device. -/
def holdIn (d : Dev) : Dev :=
  if isMgr d then d else if mode d == 5 then holdFabric d else freezeHold d

/-- HOLD. -/
def execHold (rx : Rx) (s : State) : Host.Outcome State Fault Refusal := .next (receive 0x13 0 rx 0 (onDev holdIn) s)

/-- HIGH (R79 step 2): the manager notes H_D of the sender. -/
def highIn (pos h : Nat) (d : Dev) : Dev :=
  if isMgr d then { d with tv := { d.tv with highs := (pos, h) :: d.tv.highs.filter (·.1 != pos) } } else d

/-- HIGH. -/
def execHigh (rx : Rx) (h : DWord) (s : State) : Host.Outcome State Fault Refusal :=
  .next (receive 0x13 1 rx (at8 8 h.toNat) (onDev (highIn rx.src.toNat h.toNat)) s)

/-- The window of a replay at a device other than the manager (R216, R218): END comes with the STOP that releases it; the rules give the
orders no field for FROM and SCOPE, which are free within their limits (assumptions row 100). -/
def openWindow (n : Nat) (d : Dev) : Dev :=
  if d.vs.rplEnd != 0 then d
  else
    let from_ := d.vs.rplK + Config.freeChoice d.free % max 1 (n - d.vs.rplK)
    let probes := Config.freeBit (d.free + 1)
    let state := !probes || Config.freeBit (d.free + 2)
    let d := { d with free := d.free + 3, vs := { d.vs with rplEnd := n, rplFrom := from_, rplState := state, rplProbes := probes } }
    let len := 32 + d.vs.rplMask.length * (4096 * b2n state + 32 * b2n probes)
    setFlag (setF d VIS_RPL_RECLEN_BYTES len) VIS_RPL_STAT_CAPTURING (holds d && decide (from_ ≤ d.vs.rplK))

/-- STOP (R78, R79 steps 3 and 4): the stop count of a freeze, of a RUN to come, of a recovery's catch-up, or of a replay. -/
def stopIn (n : Nat) (d : Dev) : Dev :=
  let replay := match d.md.trans with
    | some t => t.goal == 5
    | none => mode d == 5
  if isMgr d then d
  else if replay then releaseHold (putStop n (openWindow n d))
  else if mode d == 4 then
    let run := (n + 2 ^ 64 - trvCount d) % 2 ^ 48
    let d := set2 d TRV_RUNCNT_LO run
    putStop n (clearStop { d with tv := { d.tv with runStop := some n } })
  else if mode d == 6 then resendFeeders (putStop n (clearStop { d with tv := { d.tv with arrived := false } }))
  else if mode d == 3 then releaseHold (putStop n d)
  else d

/-- STOP. -/
def execStop (rx : Rx) (stop : DWord) (s : State) : Host.Outcome State Fault Refusal :=
  .next (receive 0x13 2 rx (at8 8 stop.toNat) (onDev (stopIn stop.toNat)) s)

/-- ARRIVED (R79 step 5): the manager notes an arrival at a stop count, which may precede its own entry into RUN (R82). -/
def arrivedIn (pos n : Nat) (d : Dev) : Dev :=
  if isMgr d then { d with tv := { d.tv with arriveds := (pos, n) :: d.tv.arriveds.filter (· != (pos, n)) } } else d

/-- ARRIVED. -/
def execArrived (rx : Rx) (stop : DWord) (s : State) : Host.Outcome State Fault Refusal :=
  .next (receive 0x13 3 rx (at8 8 stop.toNat) (onDev (arrivedIn rx.src.toNat stop.toNat)) s)

/-- FEEDER (R73): the sender's partition receives floor marks from now on. -/
def feederIn (pos : Nat) (d : Dev) : Dev :=
  match partOf d pos with
  | some p => { d with tv := { d.tv with feeders := p :: d.tv.feeders.filter (· != p) } }
  | none => d

/-- FEEDER. -/
def execFeeder (rx : Rx) (s : State) : Host.Outcome State Fault Refusal :=
  .next (receive 0x13 4 rx 0 (onDev (feederIn rx.src.toNat)) s)

/-- A host wait of another device begins or ends (R87). -/
def hostWaitIn (pos q : Nat) (on : Bool) (d : Dev) : Dev :=
  let rest := d.tv.hostWaits.filter (· != (pos, q))
  let d := { d with tv := { d.tv with hostWaits := if on then (pos, q) :: rest else rest } }
  setFlag d TRV_STATUS_HOSTWAIT_SYS (!d.tv.ownWaits.isEmpty || !d.tv.hostWaits.isEmpty)

/-- HOSTWAIT_ON. -/
def execHostwaitOn (rx : Rx) (endpoint : BitVec 13) (s : State) : Host.Outcome State Fault Refusal :=
  .next (receive 0x13 5 rx (at8 8 endpoint.toNat) (onDev (hostWaitIn rx.src.toNat endpoint.toNat true)) s)

/-- HOSTWAIT_OFF. -/
def execHostwaitOff (rx : Rx) (endpoint : BitVec 13) (s : State) : Host.Outcome State Fault Refusal :=
  .next (receive 0x13 6 rx (at8 8 endpoint.toNat) (onDev (hostWaitIn rx.src.toNat endpoint.toNat false)) s)

/-- The rope of this end that a ROPE_LOST names (R460): its PEER and PEER_ROPE match. A rope that never trained reads 0 there and matches
only where the rope map expects that peer. -/
def ropeToward (d : Dev) (pos rope : Nat) : Option Nat :=
  (List.range 18).find? fun k => getF d (LINK_RP_STAT_PEER k) == pos && getF d (LINK_RP_STAT_PEER_ROPE k) == rope
    && (ropeOf d k).expPos == pos && (ropeOf d k).expRope == rope

/-- ROPE_LOST (R460): of the replay buffer kept for that loss, flits the peer accepted are discarded, and the rest are routed anew
ahead of new flits. One that names a rope this end has up, with no loss of its own unanswered, declares the rope lost here too
(DESIGN CHOICE, assumptions row 93). -/
def ropeLostIn (pos last rope : Nat) (d : Dev) : Dev :=
  match ropeToward d pos rope with
  | some k =>
    let d := if ropeUp d k && (ropeOf d k).kept.isEmpty then loseRope k d else d
    let fs := ((ropeOf d k).kept.headD []).filter fun f => 2048 ≤ (last + 4096 - f.seq) % 4096
    let d := setRope d k { ropeOf d k with kept := (ropeOf d k).kept.drop 1 }
    routeAhead fs (if ropeUp d k then d else setF d (LINK_RP_FLOW_UNACKED k) 0)
  | none => d

/-- ROPE_LOST. -/
def execRopeLost (rx : Rx) (lastSeq : BitVec 12) (rope : BitVec 5) (s : State) : Host.Outcome State Fault Refusal :=
  .next (receive 0x13 7 rx (at8 8 (lastSeq.toNat + rope.toNat * 2 ^ 12))
    (onDev (ropeLostIn rx.src.toNat lastSeq.toNat rope.toNat)) s)

/-- FLOOR (R73, R74, R107): the stored floor of the source rises, unless the mark is from before a restore. -/
def floorIn (pos count restores : Nat) (d : Dev) : Dev :=
  if restores != getF d TRV_STATUS_RESTORES then d
  else match partOf d pos with
    | some p => { d with tv := { d.tv with floors := sset zeroAt d.tv.floors p (later (sget zeroAt d.tv.floors p) count) } }
    | none => d

/-- FLOOR. -/
def execFloor (rx : Rx) (count : DWord) (restores : BitVec 16) (s : State) : Host.Outcome State Fault Refusal :=
  .next (receive 0x21 0 rx (at8 8 count.toNat + at8 16 restores.toNat)
    (onDev (floorIn rx.src.toNat count.toNat restores.toNat)) s)

/-- The traverse a value of a parity belongs to at a tile (R49): the tile's own, or the one after it. -/
def valueTraverse (d : Dev) (t : Nat) (parity : Bool) : Nat :=
  let c := (tileOf d t).count
  if (c % 2 == 1) == parity then c else c + 1

/-- The entries of a SIGNAL flit as its body (R106). -/
def signalBody (vs : List SigEntry) : Nat :=
  vs.zipIdx.foldl (fun n e => n + (e.1.slot.toNat + e.1.tile.toNat * 2 ^ 9 + b2n e.1.value * 2 ^ 17) * 2 ^ (18 * e.2)) 0

/-- SIGNAL (R106): each value is placed in its slot bank; a COUNT outside 1 to 12 is no SIGNAL flit. -/
def execSignal (rx : Rx) (parity : Bool) (values : List SigEntry) (s : State) : Host.Outcome State Fault Refusal :=
  if values.isEmpty || 12 < values.length then .next s
  else .next (receive 0x20 (b2n parity + 2 * values.length) rx (signalBody values)
    (onDev (each values fun e d =>
      placeValue (512 * e.tile.toNat + e.slot.toNat) parity e.value (valueTraverse d e.tile.toNat parity) d)) s)

/-- SIGNAL_FLIT_CLOSE (R106): the open flit of a partition and parity leaves. -/
def execSignalFlitClose (partition : BitVec 10) (parity : Bool) (s : State) : Host.Outcome State Fault Refusal :=
  .next (whenGranted (onDev (closeSignals fun o => o.part == partition.toNat && o.parity == parity)) s)

end Sys2Proof.Machine
end

