-- ==== Sys2Proof/Machine/LinkRows.lean ====
section
/-! DEFINITION. The commands of the link layer, BELAY, heartbeats and time synchronisation (R98-R101, R109-R111, R122-R132). -/

namespace Sys2Proof.Machine

/-- Whether an agent's register access takes effect at all: the module works, and a debug halt stops the guide cores and the
command executor, while the debug port and the partner ports still complete theirs (R442). -/
def writable (d : Dev) (a : Agent) : Bool :=
  alive d && (!flag d DBG_HALT_HALTED || match a with
    | .dap | .port _ => true
    | .core _ | .executor => false)

/-- A change a register write makes. -/
def whenWritable (a : Agent) (f : State → State) (s : State) : State := if writable s.dev a then f s else s

/-- A change a write asks of an engine that a debug halt stops (R442): while the halt stands the request is not taken. -/
def whenServed (a : Agent) (f : State → State) (s : State) : State :=
  if writable s.dev a && !flag s.dev DBG_HALT_HALTED then f s else s

/-- An accepted BELAY (R80, R127, R128): not among the last 16 accepted within 10 µs, it holds this device and is repeated on every other
rope; a reserved REASON is reported. -/
def belayIn (k reason origin epoch : Nat) (d : Dev) : Dev :=
  if !ropeUp d k || knownBelay d origin epoch || isLost d origin then d
  else
    let d := floodBelay reason origin epoch (some k) (noteBelay reason origin epoch d)
    let d := belayHold reason d
    if reason == 1 || reason == 2 || reason == 0x10 || reason == 0x11 then d
    else raise 0x23 (reason + origin * 2 ^ 8) d

/-- BELAY. -/
def execBelay (rope : BitVec 5) (reason : BitVec 8) (origin : BitVec 10) (epoch : BitVec 8) (s : State) :
    Host.Outcome State Fault Refusal :=
  .next (whenAlive (fun s => settle (onDev (belayIn rope.toNat reason.toNat origin.toNat epoch.toNat) s)) s)

/-- A worker that hears a new SPARE of its party, holding no partition, streams its image sections to it (R267 step 1), in the
BULK form of R286. The stream reads every step word: a single error is corrected, an uncorrectable word is rewritten or recovered as a
read other than execution does it (R62). -/
def streamImage (pos : Nat) (d : Dev) : Dev :=
  let bad := (d.ecc.map (·.1)).filter fun k => decide (k < eccKey 1 0) && decide (k % 1024 < travN d)
  let d := each bad (fun k d =>
    if popcount (eccMask d k) == 1 then (readFabric 0 k (trvCount d) d).2 else stepWordFault k (trvCount d) false d) d
  let parts := chunksOf 24 d.hs.image
  let rt := if isMgr d then ownTag d else 0
  let d := each parts.zipIdx (fun c d => sendPos 0x32 (2 + 4 * rt) pos (at8 8 c.2 + at8 12 (natOf c.1)) d) d
  sendPos 0x32 (1 + 4 * rt) pos (at8 8 parts.length) d

/-- HEARTBEAT (R100, R125, R242): the peer shows position, mode and role; one from a LOST position is ignored. -/
def heartbeatIn (k pos m r : Nat) (stranded : Bool) (d : Dev) : Dev :=
  let x := ropeOf d k
  if !x.wired || isLost d pos then d
  else
    let fresh := r == 3 && !(x.hbRole == 3 && x.hbPos == pos)
    let d := setRope d k { x with hbPos := pos, hbMode := m, hbRole := r, hbStranded := stranded }
    if fresh && isProtected d && holds d && d.hs.imageHeld && !d.ck.kept.isEmpty && pos / 16 == myParty d && !(holders d).contains pos then
      streamImage pos { d with ck := { d.ck with full := 3 } }
    else d

/-- HEARTBEAT. -/
def execHeartbeat (rope : BitVec 5) (pos : BitVec 10) (mode : BitVec 3) (role : BitVec 2) (stranded : Bool) (s : State) :
    Host.Outcome State Fault Refusal :=
  .next (whenAlive (onDev (heartbeatIn rope.toNat pos.toNat mode.toNat role.toNat stranded)) s)

/-- A write of LINK_BELAY_RAISE (R127): any REASON but 0x01 and 0x02 is ignored. -/
def belayRaise (v : Word) (d : Dev) : Dev :=
  let reason := bitsOf v.toNat 15 8
  if bitOf v.toNat 0 && (reason == 1 || reason == 2) then raiseFreeze reason d else d

/-- LINK_BELAY_RAISE. -/
def execLinkBelayRaise (a : Agent) (v : Word) (s : State) : Host.Outcome State Fault Refusal :=
  .next (whenWritable a (fun s => settle (onDev (belayRaise v) s)) s)

/-- LC_TRAIN. -/
def execLcTrain (rope : BitVec 5) (pos : BitVec 10) (peerRope : BitVec 5) (fallback : Bool) (lanes : BitVec 8) (ready : Bool)
    (s : State) : Host.Outcome State Fault Refusal :=
  .next (whenAlive (fun s => settle (onDev (trainFlit rope.toNat pos.toNat peerRope.toNat fallback lanes ready) s)) s)

/-- LC_STATUS. -/
def execLcStatus (rope : BitVec 5) (payload : BitVec 184) (s : State) : Host.Outcome State Fault Refusal :=
  .next (whenAlive (onDev (statusFlit rope.toNat payload.toNat)) s)

/-- LC_NAK (R110, R122): what lies before EXPSEQ is acknowledged, the rope restripes over the reduced mask and resends from
EXPSEQ. -/
def nakFlit (k expSeq : Nat) (lanes : BitVec 8) (d : Dev) : Dev :=
  if !ropeUp d k then d
  else
    let d := ackFlits k ((expSeq + 4095) % 4096) d
    resend k expSeq (restripe k (setRope d k { ropeOf d k with txLanes := lanes }))

/-- LC_NAK. -/
def execLcNak (rope : BitVec 5) (expSeq : BitVec 12) (lanes : BitVec 8) (s : State) : Host.Outcome State Fault Refusal :=
  .next (whenAlive (fun s => settle (onDev (nakFlit rope.toNat expSeq.toNat lanes) s)) s)

/-- LC_STATUS_TIMER (R111). -/
def execLcStatusTimer (rope : BitVec 5) (s : State) : Host.Outcome State Fault Refusal :=
  .next (whenAlive (onDev fun d => if ropeUp d rope.toNat then sendStatus rope.toNat d else d) s)

/-- ROPE_TRAINING_TIMEOUT. -/
def execRopeTrainingTimeout (rope : BitVec 5) (s : State) : Host.Outcome State Fault Refusal :=
  .next (whenAlive (fun s => settle (onDev (trainingEnds rope.toNat) s)) s)

/-- No acknowledgement for 1 µs (R110): resend from the oldest unacknowledged flit. -/
def resendOldest (k : Nat) (d : Dev) : Dev :=
  match (ropeOf d k).replay with
  | f :: _ => resend k f.seq d
  | [] => d

/-- RESEND_TIMEOUT. -/
def execResendTimeout (rope : BitVec 5) (s : State) : Host.Outcome State Fault Refusal :=
  .next (whenAlive (fun s => settle (onDev (resendOldest rope.toNat) s)) s)

/-- No acknowledgement for 4 µs (R110, R123): the rope is lost. -/
def ackTimeout (k : Nat) (d : Dev) : Dev := if ropeUp d k && !(ropeOf d k).replay.isEmpty then loseRope k d else d

/-- ROPE_ACK_TIMEOUT. -/
def execRopeAckTimeout (rope : BitVec 5) (s : State) : Host.Outcome State Fault Refusal :=
  .next (whenAlive (fun s => settle (onDev (ackTimeout rope.toNat) s)) s)

/-- LANE_LOSS. -/
def execLaneLoss (rope : BitVec 5) (lane : BitVec 3) (s : State) : Host.Outcome State Fault Refusal :=
  .next (whenAlive (fun s => settle (onDev (loseLane rope.toNat lane.toNat) s)) s)

/-- A write of LANE_DIS (R122): each newly disabled lane is treated as lost. -/
def laneDisable (k : Nat) (v : Word) (d : Dev) : Dev :=
  let old := getF d (LINK_RP_TEST_LANE_DIS k)
  let d := setF d (LINK_RP_TEST_LANE_DIS k) v.toNat
  each ((List.range 8).filter fun i => bitOf v.toNat i && !bitOf old i) (fun i d => loseLane k i d) d

/-- LANE_DIS. -/
def execLaneDis (a : Agent) (rope : BitVec 5) (v : Word) (s : State) : Host.Outcome State Fault Refusal :=
  .next (whenWritable a (fun s => if rope.toNat < 18 then settle (onDev (laneDisable rope.toNat v) s) else s) s)

/-- The retrain period of a lane or rope ends (R124): a lost rope whose peer is not LOST trains again; a lane's attempt shows in
LANE_REJOIN. -/
def retrainPeriod (k : Nat) (lane : Option (BitVec 3)) (d : Dev) : Dev :=
  if getF d LINK_RETRAIN_PERIOD == 0 then d
  else match lane with
    | some _ => d
    | none => if isLost d (ropeOf d k).expPos then d else retrainRope k d

/-- RETRAIN_PERIOD. -/
def execRetrainPeriod (rope : BitVec 5) (lane : Option (BitVec 3)) (s : State) : Host.Outcome State Fault Refusal :=
  .next (whenAlive (onDev (retrainPeriod rope.toNat lane)) s)

/-- LANE_REJOIN. -/
def execLaneRejoin (rope : BitVec 5) (lane : BitVec 3) (s : State) : Host.Outcome State Fault Refusal :=
  .next (whenAlive (onDev (rejoinLane rope.toNat lane.toNat)) s)

/-- A write of LINK_RP_TEST with RETRAIN (R124): a rope in use is lost and trained at once, a lost one trained at once. -/
def retrainWrite (k : Nat) (v : Word) (d : Dev) : Dev :=
  let d := laneDisable k v d
  if bitOf v.toNat 8 then retrainRope k (if ropeUp d k then loseRope k d else d) else d

/-- RETRAIN. -/
def execRetrain (a : Agent) (rope : BitVec 5) (v : Word) (s : State) : Host.Outcome State Fault Refusal :=
  .next (whenWritable a (fun s => if rope.toNat < 18 then settle (onDev (retrainWrite rope.toNat v) s) else s) s)

/-- A party peer gives no sign of life for DEV_TMO (R126, R244): it is reported to the manager and to the deputy. -/
def deviceSilent (k : Nat) (d : Dev) : Dev :=
  let pos := (ropeOf d k).expPos
  if 15 ≤ k || !(ropeOf d k).wired || isLost d pos || pos == myPos d then d
  else
    let d := noteSilent (myPos d) pos d
    let d := if mgrPos d == pos then d else sendMgr 0x15 1 (at8 8 pos) d
    if flag d SYS_TOPOLOGY_DEP_VALID && getF d SYS_TOPOLOGY_DEP_POS != pos && role d != 2 then
      sendPos 0x15 1 (getF d SYS_TOPOLOGY_DEP_POS) (at8 8 pos) d else d

/-- DEVICE_SILENCE. -/
def execDeviceSilence (rope : BitVec 5) (s : State) : Host.Outcome State Fault Refusal :=
  .next (whenAlive (onDev (deviceSilent rope.toNat)) s)

/-- TIME_EXCHANGE_PERIOD (R131): a request to the parent over the rope to it, with T1 as the physical layer stamps it. -/
def timeAsk (t1 : Nat) (d : Dev) : Dev :=
  let d := syncParent d
  match timeParent d with
  | some (p, k) => if ropeUp d k then sendOn k (mkFlit d 0x16 0 p true (at8 8 t1)) d else d
  | none => d

/-- TIME_EXCHANGE_PERIOD. -/
def execTimeExchangePeriod (t1 : DWord) (s : State) : Host.Outcome State Fault Refusal :=
  .next (whenGranted (onDev (timeAsk t1.toNat)) s)

/-- A TIME flit is a sequenced VC0 data flit (R103) that is never forwarded (R131). -/
def timeFlit (k : Nat) (f : Dev → Dev) (d : Dev) : Dev :=
  if !ropeUp d k then d else f (freeBuffer k 0 0 true (acceptSeq k d))

/-- TIME_REQUEST: the parent echoes T1 with T2 and T3. -/
def execTimeRequest (rope : BitVec 5) (t1 t2 t3 : DWord) (s : State) : Host.Outcome State Fault Refusal :=
  .next (whenGranted (onDev (timeFlit rope.toNat fun d =>
    sendOn rope.toNat (mkFlit d 0x16 1 (getF d (LINK_RP_STAT_PEER rope.toNat)) true
      (at8 8 t1.toNat + at8 16 t2.toNat + at8 24 t3.toNat)) d)) s)

/-- TIME_REPLY. -/
def execTimeReply (rope : BitVec 5) (t1 t2 t3 t4 : DWord) (s : State) : Host.Outcome State Fault Refusal :=
  .next (whenGranted (fun s => settle (onDev (timeFlit rope.toNat fun d =>
    match timeParent d with
    | some (_, k) => if k == rope.toNat then timeOffset t1.toNat t2.toNat t3.toNat t4.toNat (syncParent d) else d
    | none => d) s)) s)

/-- A data flit is discarded by the link layer (R98, R101, R109): the counter of its cause, and LC_NAK once per gap. -/
def discardFlit (k : Nat) (cause : DiscardCause) (seq : Nat) (d : Dev) : Dev :=
  if !ropeUp d k then d
  else match cause with
    | .uncorrectable => sendNak k (countF d (LINK_RP_ERR_UNCORR k) 1)
    | .crc => sendNak k (countF d (LINK_RP_ERR_CRCFAIL k) 1)
    | .sequence => if seq == (ropeOf d k).rxSeq then d else sendNak k d

/-- FLIT_DISCARD. -/
def execFlitDiscard (rope : BitVec 5) (cause : DiscardCause) (seq : BitVec 12) (s : State) :
    Host.Outcome State Fault Refusal :=
  .next (whenAlive (onDev (discardFlit rope.toNat cause seq.toNat)) s)

/-- A flit with a reserved TYPE, or with the VC of another (R103): accepted, discarded and reported. Which receive buffer such a flit
was charged to no rule says; none is freed (DESIGN CHOICE, assumptions row 94). -/
def protocolFault (k ty : Nat) (d : Dev) : Dev := if ropeUp d k then linkFault 0x14 k ty 0 (acceptSeq k d) else d

/-- LINK_PROTOCOL_FAULT. -/
def execLinkProtocolFault (rope : BitVec 5) (type : BitVec 6) (s : State) : Host.Outcome State Fault Refusal :=
  .next (whenGranted (fun s => settle (onDev (protocolFault rope.toNat type.toNat) s)) s)

end Sys2Proof.Machine
end

