-- ==== Sys2Proof/Machine/ParRows.lean ====
section
/-! DEFINITION. The commands of the parity stream, the rebuild of a lost region, and step words from the spare (R151-R155,
R256-R259, R267). -/

namespace Sys2Proof.Machine

/-- The number with the given low part (modulo `m`) nearest to `base`. -/
def nearSeq (base low m : Nat) : Nat :=
  let c := base / m * m + low
  if c + m / 2 < base then c + m else if base + m / 2 < c && m ≤ c then c - m else c

/-- Whether this device is its party's spare and holds no partition. -/
def isSpare (d : Dev) : Bool := role d == 3 && !holds d

/-- The workers of the party, this device aside. -/
def partyWorkers (d : Dev) : List Nat := (holders d).filter fun p => p / 16 == myParty d && p != myPos d && !isLost d p

/-- Entries a parity log holds (R155): 16 bytes each. -/
def logRoom (d : Dev) : Nat := getF d MEM_PLOG_SIZE_MIB * 65536

/-- A full parity log (R155): parity is no longer consistent, the log empties, protection is degraded, and a rebuild begins. -/
def logFull (d : Dev) : Dev :=
  let d := { d with par := { d.par with log := [], rebuilding := true, krSeq := 0, ends := [] } }
  let d := setFlag (setFlag d MEM_REGION_PARITY_VALID false) RES_STATUS_PROTECTED false
  raise 0x0F 1 (setR d MEM_PLOG_FILL 0)

/-- One delta at the spare (R153, R155): counted toward its interval and kept in the log. During a rebuild the deltas of the intervals up
to that of K_r are counted and otherwise discarded, because the stream covers them. -/
def logDelta (src seq : Nat) (e : DeltaEntry) (d : Dev) : Dev :=
  let key := 2 ^ 32 * src + seq
  let keep := !(d.par.rebuilding && decide (seq ≤ if d.par.krSeq == 0 then d.ck.lastSeq else d.par.krSeq))
  let d := { d with par := { d.par with
    got := sset zeroAt d.par.got key (sget zeroAt d.par.got key + 1)
    log := if keep then d.par.log ++ [⟨src, seq, 8 * e.addr.toNat, e.delta⟩] else d.par.log } }
  let d := setR d MEM_PLOG_FILL (BitVec.ofNat 32 d.par.log.length)
  if logRoom d != 0 && logRoom d < d.par.log.length then logFull d else d

/-- XOR a word into HBM. -/
def xorWord (a : Nat) (v : DWord) (s : State) : State := putWord a (hbmWord s.mem a ^^^ v) (onDev (engineCheck [a / 8 * 8]) s)

/-- One word of a rebuild at a device whose region word waits for it (R146, R259): once every other worker of the party and
the spare have answered, the XOR of their words is the word. -/
def wordReply (src a : Nat) (v : DWord) (s : State) : State :=
  let d := s.dev
  if !d.tv.waitWords.contains (a / 8) then s
  else
    let (x, heard) := match d.par.wordReqs.find? fun r => r.1 == a with
      | some r => r.2
      | none => (0#64, [])
    if heard.contains src then s
    else
      let x := x ^^^ v
      let heard := src :: heard
      let rest := d.par.wordReqs.filter fun r => r.1 != a
      let all := partyWorkers d ++ (spareOf d (myParty d)).toList
      if all.all heard.contains then
        let mine := d.tv.waitWrites.filter fun x => x.1 == a
        let s := putWord a x { s with dev := { d with
          par := { d.par with wordReqs := rest }
          tv := { d.tv with waitWords := d.tv.waitWords.filter (· != a / 8)
                            waitWrites := d.tv.waitWrites.filter fun x => x.1 != a } } }
        each mine (fun w s => writeRegionWord w.2.1 w.2.2.1 w.2.2.2 s) s
      else { s with dev := { d with par := { d.par with wordReqs := (a, x, heard) :: rest } } }

/-- A page of an adopted region is rebuilt once every peer's end flit is in and the counts match (R256). -/
def tryPage (page : Nat) (d : Dev) : Dev :=
  let ends := d.par.pageEnds.filter fun e => e.1 == page
  let sum := (ends.map fun e => e.2.2).foldl (· + ·) 0
  if page < d.par.pageEnd && !sget noBit d.par.rebuilt page && (partyWorkers d).all (fun p => ends.any fun e => e.2.1 == p)
      && sget zeroAt d.par.pageGot page == sum then
    let left := (getR d RES_REBUILD).toNat - 1
    let d := { d with par := { d.par with
      rebuilt := sset noBit d.par.rebuilt page true
      pageEnds := d.par.pageEnds.filter fun e => e.1 != page
      pageGot := sset zeroAt d.par.pageGot page 0 } }
    let d := setR d RES_REBUILD (BitVec.ofNat 32 left)
    if left == 0 && d.rs.adoptPart.isNone then setFlag { d with par := { d.par with pageEnd := 0, rebuilt := [] } } RES_STATUS_REBUILD false else d
  else d

/-- Words of a rebuild (R256, R259, R267): XORed into the page at an adopter, into parity at a spare that rebuilds it, into
the waiting word elsewhere; a spare takes only those of the stream from the K_r in force (R155). -/
def rebuildIn (src seq8 : Nat) (ws : List DeltaEntry) (s : State) : State :=
  each ws (fun e s =>
    let a := 8 * e.addr.toNat
    let page := a / 4096
    if unbuilt s.dev page then
      let s := xorWord a e.delta s
      onDev (fun d => tryPage page { d with par := { d.par with
        pageGot := sset zeroAt d.par.pageGot page (sget zeroAt d.par.pageGot page + 1) } }) s
    else if isSpare s.dev then
      if s.dev.par.rebuilding && s.dev.par.krSeq != 0 && s.dev.par.krSeq % 256 == seq8 then xorWord a e.delta s else s
    else wordReply src a e.delta s) s

/-- Initial deltas of LOAD (R152): the spare counts them toward the first interval and applies them at once, so that what it has taken
it has applied (DEDUCED, row 108). -/
def loadDeltas (src seq8 : Nat) (es : List DeltaEntry) (s : State) : State :=
  each es (fun e s =>
    let key := 2 ^ 32 * src + nearSeq (s.dev.ck.lastSeq + 1) seq8 256
    xorWord (8 * e.addr.toNat) e.delta (onDev (fun d => { d with par := { d.par with
      got := sset zeroAt d.par.got key (sget zeroAt d.par.got key + 1) } }) s)) s

/-- Whether a spare has restored the partition it adopts and so takes PARITY flits as the words of its rebuild, before its own MAP too
(R256). -/
def rebuildsRegion (d : Dev) : Bool := d.rs.adoptPart.isSome && d.par.pageEnd != 0

/-- Deltas at the spare, or the words of a rebuild elsewhere (R153, R256). -/
def parityIn (src seq8 : Nat) (es : List DeltaEntry) (s : State) : State :=
  let d := s.dev
  if isSpare d && !rebuildsRegion d && !(d.par.rebuilding && d.par.krSeq != 0 && d.par.krSeq % 256 == seq8) then
    if mode d == 2 then loadDeltas src seq8 es s
    else onDev (each es fun e d => logDelta src (nearSeq (d.ck.lastSeq + 1) seq8 256) e d) s
  else rebuildIn src seq8 es s

/-- The body of a PARITY flit of one or two entries (R153). -/
def parityBody (es : List DeltaEntry) : Nat :=
  (es.zip [8, 21]).foldl (fun n e => n + at8 e.2 e.1.addr.toNat + at8 (e.2 + 5) e.1.delta.toNat) 0

/-- PARITY. COUNT 3 is reserved: the flit is discarded and reported as a link protocol fault (R153). -/
def execParity (rx : Rx) (seq8 : BitVec 8) (deltas : List DeltaEntry) (s : State) : Host.Outcome State Fault Refusal :=
  if deltas.length == 3 then .next (whenGranted (fun s => settle (onDev (protocolFault rx.rope.toNat 0x29) s)) s)
  else if deltas.isEmpty || 2 < deltas.length then .next s
  else .next (receive 0x29 (deltas.length + 4 * seq8.toNat) rx (parityBody deltas)
    (parityIn rx.src.toNat seq8.toNat deltas) s)

/-- MARK of an interval at the spare (R153). -/
def markIn (src seq count : Nat) (d : Dev) : Dev :=
  if isSpare d then { d with par := { d.par with marks := (src, seq, count) :: d.par.marks.filter fun m => !(m.1 == src && m.2.1 == seq) } }
  else d

/-- PARITY_MARK. -/
def execParityMark (rx : Rx) (ckpSeq : Word) (count : DWord) (s : State) : Host.Outcome State Fault Refusal :=
  .next (receive 0x29 (4 * (ckpSeq.toNat % 256)) rx (at8 8 ckpSeq.toNat + at8 12 count.toNat)
    (onDev (markIn rx.src.toNat ckpSeq.toNat count.toNat)) s)

/-- PARITY_FLIT_CLOSE. -/
def execParityFlitClose (s : State) : Host.Outcome State Fault Refusal := .next (whenGranted (onDev closeParity) s)

/-- REBUILD_WORDS. -/
def execRebuildWords (rx : Rx) (seq8 : BitVec 8) (words : List DeltaEntry) (s : State) : Host.Outcome State Fault Refusal :=
  if words.isEmpty || 2 < words.length then .next s
  else .next (receive 0x29 (words.length + 4 * seq8.toNat) rx (parityBody words) (rebuildIn rx.src.toNat seq8.toNat words) s)

/-- A peer's end of a page (R256); at a spare that rebuilds parity, the end of a worker's last page ends its stream (R267). -/
def pageEndIn (src page count : Nat) (d : Dev) : Dev :=
  if unbuilt d page then
    tryPage page { d with par := { d.par with pageEnds := (page, src, count) :: d.par.pageEnds.filter fun e => !(e.1 == page && e.2.1 == src) } }
  else if isSpare d && d.par.rebuilding && page + 1 == maxPages then
    { d with par := { d.par with ends := src :: d.par.ends.filter (· != src) } }
  else d

/-- REBUILD_PAGE_END. -/
def execRebuildPageEnd (rx : Rx) (page : Word) (count : DWord) (s : State) : Host.Outcome State Fault Refusal :=
  .next (receive 0x29 (4 * ((latest s.dev).1 % 256)) rx (at8 8 page.toNat + at8 12 count.toNat)
    (onDev (pageEndIn rx.src.toNat page.toNat count.toNat)) s)

/-- A REBUILD_REQ (R258, R259, R267): the spare answers a word with parity, a worker with its word as at its pin or latest
checkpoint; a page goes ahead of the background order; a request of the party's spare names K_r, begins the stream for new parity and,
where the spare has joined, has the next checkpoint streamed whole. -/
def rebuildReqIn (src a : Nat) (oneWord : Bool) (s : State) : State :=
  let d := s.dev
  let a := a / 8 * 8
  let k := d.par.pin.getD (latest d).2
  if src / 16 != myParty d then s
  else if oneWord then
    let s := onDev (engineCheck [a]) s
    let w := if isSpare d then hbmWord s.mem a else if a < regionBytes d then regionAt d s.mem k a else 0#64
    if isSpare d || holds d then onDev (sendParity src (latest d).1 [(a / 8, w)]) s else s
  else if !holds d then s
  else if spareOf d (myParty d) == some src then 
    onDev (fun d => if d.par.streamTo.isSome && d.par.streamTo != some src then d
      else beginStream src (latest d).1 k { d with ck := { d.ck with full := if d.ck.full == 3 then 1 else d.ck.full } }) s
  else
    let page := a / 4096
    if d.par.streamTo != some src || page < d.par.streamNext || d.par.served.contains page then s
    else onDev (fun d => { d with par := { d.par with served := page :: d.par.served } }) (sendPage src page s)

/-- A SYSCTL flit (R241, R243): its payload, and its effect only when its GENERATION is this device's. -/
def sysctlIn (sub : Nat) (rx : Rx) (epoch : BitVec 16) (arg value extra : Nat) (f : State → State) (s : State) : State :=
  receive 0x12 sub rx (at8 8 epoch.toNat + at8 10 arg + at8 12 value + at8 20 extra)
    (fun s => if epoch.toNat / 4096 == generation s.dev then f s else s) s

/-- REBUILD_REQ. -/
def execRebuildReq (rx : Rx) (epoch : BitVec 16) (partition : BitVec 10) (addr : BitVec 37) (oneWord : Bool) (s : State) :
    Host.Outcome State Fault Refusal :=
  .next (sysctlIn 13 rx epoch partition.toNat (addr.toNat + b2n oneWord * 2 ^ 63) 0
    (rebuildReqIn rx.src.toNat addr.toNat oneWord) s)

/-- A STEPWORD request at the spare, answered from its image copy, or the reply at the worker, which rewrites the word (R60,
R259). -/
def stepwordIn (src part t e st : Nat) (isReply : Bool) (word : BitVec 80) (d : Dev) : Dev :=
  if isReply then
    if holds d && myPart d == part then
      let i := 1024 * (512 * t + e) + st
      eccClear (eccKey 0 i)
        { d with fab := { d.fab with step := sset idleWord d.fab.step i word }
                 tv := { d.tv with waitSteps := d.tv.waitSteps.filter (· != i) } }
    else d
  else if !isSpare d then d
  else
    match (d.wk.find? fun x => x.1 == src).bind fun x => imageOf x.2.image with
    | some im =>
      let v := t + e * 2 ^ 8 + st * 2 ^ 17 + 2 ^ 63
      sendPos 0x12 14 src (sysctl d part v (imgStep im t e st).toNat) d
    | none => d

/-- STEPWORD. -/
def execStepword (rx : Rx) (epoch : BitVec 16) (partition : BitVec 10) (tile : BitVec 8) (evaluator : BitVec 9)
    (step : BitVec 10) (isReply : Bool) (word : BitVec 80) (s : State) : Host.Outcome State Fault Refusal :=
  .next (sysctlIn 14 rx epoch partition.toNat
    (tile.toNat + evaluator.toNat * 2 ^ 8 + step.toNat * 2 ^ 17 + b2n isReply * 2 ^ 63) word.toNat
    (onDev (stepwordIn rx.src.toNat partition.toNat tile.toNat evaluator.toNat step.toNat isReply word)) s)

end Sys2Proof.Machine
end

