-- ==== Sys2Proof/Machine/CkpRows.lean ====
section
/-! DEFINITION. The commands of checkpoints, commits, rollbacks and the stream to the spare (R156-R182). -/

namespace Sys2Proof.Machine

/-- PAGE_RESTORE (R182). -/
def execPageRestore (page : BitVec 25) (s : State) : Host.Outcome State Fault Refusal :=
  .next (whenGranted (restorePage page.toNat) s)

/-- The wall cap expires (R160): an unscheduled checkpoint, unless one is pending, requested or due (R162). -/
def wallCap (d : Dev) : Dev :=
  if isMgr d && isProtected d && decide (floorOf d < d.ck.lastBound + d.ck.period) then startRequest d else d

/-- WALL_CAP_EXPIRY. -/
def execWallCapExpiry (s : State) : Host.Outcome State Fault Refusal :=
  .next (whenGranted (fun s => settle (onDev (fun d => boundaryIfReplied (wallCap d)) s)) s)

/-- REQUEST (R160 step 2): the fence, and REPLY with it. -/
def requestIn (d : Dev) : Dev :=
  if isMgr d || !holds d then d
  else
    let f := highBegun d + max 4 d.ck.lead
    sendMgr 0x14 1 (ckpctl 0 f 0) { d with tv := { d.tv with fence := some f } }

/-- REQUEST. -/
def execRequest (rx : Rx) (s : State) : Host.Outcome State Fault Refusal := .next (receive 0x14 0 rx 0 (onDev requestIn) s)

/-- REPLY (R160 step 3). -/
def replyIn (pos f : Nat) (d : Dev) : Dev :=
  if isMgr d && d.ck.requesting then
    boundaryIfReplied { d with ck := { d.ck with replies := (pos, f) :: d.ck.replies.filter (·.1 != pos) } }
  else d

/-- REPLY. -/
def execReply (rx : Rx) (fence : DWord) (s : State) : Host.Outcome State Fault Refusal :=
  .next (receive 0x14 1 rx (ckpctl 0 fence.toNat 0) (onDev (replyIn rx.src.toNat fence.toNat)) s)

/-- BOUNDARY (R160 step 4, R161, R162): the fence goes; a checkpoint is taken at K, at once where the tiles stand at it; one
with the number of a pending checkpoint replaces it. CKP_SEQ 0 takes none. -/
def boundaryIn (seq k : Nat) (d : Dev) : Dev :=
  let d := clearFence d
  if isMgr d || seq == 0 || (d.ck.pends.any fun c => c.seq == seq && c.k == k) then d
  else
    let d := { d with ck := { d.ck with pends := d.ck.pends.filter (·.seq != seq) } }
    let d := takeCkpt seq k d
    if mode d != 3 && mode d != 5 && mode d != 6 then captureAll seq d else captureStanding seq k d

/-- BOUNDARY. -/
def execBoundary (rx : Rx) (seq : Word) (k : DWord) (s : State) : Host.Outcome State Fault Refusal :=
  .next (receive 0x14 2 rx (ckpctl seq.toNat k.toNat 0) (onDev (boundaryIn seq.toNat k.toNat)) s)

/-- READY at the manager (R160, R164, R165): a report for the pending checkpoint, or a request for one. -/
def readyIn (pos seq k : Nat) (asks : Bool) (d : Dev) : Dev :=
  if !isMgr d then d
  else
    let d := match d.ck.pends with
      | c :: _ => if seq != 0 && c.seq == seq && c.k == k then
          { d with ck := { d.ck with readys := pos :: d.ck.readys.filter (· != pos) } } else d
      | [] => d
    if asks && isProtected d then boundaryIfReplied (startRequest d) else d

/-- READY. -/
def execReady (rx : Rx) (seq : Word) (k : DWord) (fromSpare asks : Bool) (s : State) : Host.Outcome State Fault Refusal :=
  .next (receive 0x14 3 rx (ckpctl seq.toNat k.toNat (b2n fromSpare + b2n asks * 2))
    (onDev (readyIn rx.src.toNat seq.toNat k.toNat asks)) s)

/-- A checkpoint is named as committed (R164): a device that holds no partition takes it with the commit. -/
def commitIn (seq k : Nat) (s : State) : State :=
  let s := if !holds s.dev && !(s.dev.ck.pends.any fun c => c.seq == seq && c.k == k) && seq != (latest s.dev).1 then
      onDev (fun d => takeCkpt seq k { d with ck := { d.ck with pends := d.ck.pends.filter (·.seq != seq) } }) s
    else s
  applyCommit seq k s

/-- COMMIT. -/
def execCommit (rx : Rx) (seq : Word) (k : DWord) (s : State) : Host.Outcome State Fault Refusal :=
  .next (receive 0x14 4 rx (ckpctl seq.toNat k.toNat 0) (fun s => if isMgr s.dev then s else commitIn seq.toNat k.toNat s) s)

/-- The staging a spare holds of checkpoint `seq` is emptied (R166, R170). -/
def dropStage (seq : Nat) (d : Dev) : Dev :=
  { d with wk := d.wk.map fun e =>
      if e.2.endSeq == seq || e.2.stage.any (fun x => x.2.1 == seq % 128) then
        (e.1, { e.2 with stage := [], flits := 0, endSeq := 0, endK := 0, endFlits := 0 }) else e }

/-- ABANDON (R166). -/
def abandonIn (seq : Nat) (d : Dev) : Dev :=
  if isMgr d then d
  else
    abandonSeq seq true (if isSpare d then dropStage seq d else d)

/-- ABANDON. -/
def execAbandon (rx : Rx) (seq : Word) (k : DWord) (s : State) : Host.Outcome State Fault Refusal :=
  .next (receive 0x14 5 rx (ckpctl seq.toNat k.toNat 0) (onDev (abandonIn seq.toNat)) s)

/-- ROLLBACK (R180, R181, R251 step 4): in RECOVER, on the way into it, or in SAFE for a RESUME. A checkpoint it names that is
still pending here is committed (R164); an adopting spare restores its partition from its copies. In REPLAY, or on the way into it, it
names the checkpoint to replay from (assumptions row 100). -/
def rollbackIn (seq k : Nat) (s : State) : State :=
  let d := s.dev
  let entering := match d.md.trans with
    | some t => t.goal == 6
    | none => false
  let replaying := match d.md.trans with
    | some t => t.goal == 5
    | none => mode d == 5
  if !isMgr d && replaying then enterReplay seq k (onDev (fun d => { d with vs := { d.vs with rplEnd := 0 } }) s)
  else if isMgr d || !(mode d == 6 || mode d == 7 || entering) then s
  else
    let s := onDev (fun d => if mode d == 7 then { d with md := { d.md with silent := false } } else d) (commitIn seq k s)
    match s.dev.rs.adoptPart, s.dev.rs.mapOld with
    | some _, some old => if s.dev.rs.adoptReady then adoptRestore old seq k s else onDev (rollbackTo seq k) s
    | _, _ => onDev (rollbackTo seq k) s

/-- ROLLBACK. -/
def execRollback (rx : Rx) (seq : Word) (k : DWord) (s : State) : Host.Outcome State Fault Refusal :=
  .next (receive 0x14 6 rx (ckpctl seq.toNat k.toNat 0) (rollbackIn seq.toNat k.toNat) s)

/-- A restore is complete and reported with DONE (R180 step 5, R253); the manager notes its own. -/
def restoreDone (d : Dev) : Dev :=
  if !d.ck.rollEnd then d
  else
    let d := { d with ck := { d.ck with rollEnd := false } }
    if isMgr d then { d with rs := { d.rs with dones := myPos d :: d.rs.dones.filter (· != myPos d) } }
    else sendMgr 0x12 11 (sysctl d (myPos d) d.ck.doneK (d.rs.hd.getD ((d.ck.doneK + 2 ^ 64 - 1) % 2 ^ 64)))
      { d with rs := { d.rs with hd := none } }

/-- RESTORE_COMPLETE. -/
def execRestoreComplete (s : State) : Host.Outcome State Fault Refusal :=
  .next (whenGranted (fun s => settle (onDev restoreDone s)) s)

/-- JACK (R163, R176): the journal offset the spare has stored, and a stored stream. -/
def jackIn (seq off : Nat) (stored : Bool) (d : Dev) : Dev :=
  { d with jr := { d.jr with acked := max d.jr.acked off }, ck := { d.ck with jackEnd := if stored then seq else d.ck.jackEnd } }

/-- JACK. -/
def execJack (rx : Rx) (seq : Word) (offset : DWord) (stored : Bool) (s : State) : Host.Outcome State Fault Refusal :=
  .next (receive 0x14 7 rx (ckpctl seq.toNat offset.toNat (b2n stored)) (onDev (jackIn seq.toNat offset.toNat stored)) s)

/-- Nothing held of a worker. -/
def worker0 (_ : Nat) : WorkerCopy where
  state := []
  tram := []
  qpos := []
  jrnl := []
  stage := []
  flits := 0
  endSeq := 0
  endK := 0
  endFlits := 0
  image := []
  jackOff := 0
  fails := 0

/-- The copy of a worker. -/
def workerOf (d : Dev) (pos : Nat) : WorkerCopy := sget worker0 d.wk pos

/-- Replace the copy of a worker. -/
def setWorker (pos : Nat) (w : WorkerCopy) (d : Dev) : Dev := { d with wk := sset worker0 d.wk pos w }

/-- JACK to a worker: what of its journal is stored, and its stream once END and every flit it counts are (R163, R176). -/
def sendJack (pos : Nat) (d : Dev) : Dev :=
  let w := workerOf d pos
  let stored := w.endSeq != 0 && decide (w.endFlits ≤ w.flits)
  sendPos 0x14 7 pos (ckpctl (if stored then w.endSeq else 0) w.jackOff (b2n stored)) d

/-- Words of a worker's pending checkpoint are staged (R169, R170). -/
def stageIn (kind pos seq7 off : Nat) (ws : List DWord) (d : Dev) : Dev :=
  if !isSpare d then d
  else
    let w := workerOf d pos
    let w := if w.stage.any fun x => x.2.1 != seq7 then { w with stage := [], flits := 0, endSeq := 0, endFlits := 0 } else w
    let w := { w with stage := w.stage ++ ws.zipIdx.map (fun x => (kind, seq7, off + x.2, x.1)), flits := w.flits + 1 }
    let d := setWorker pos w d
    if w.endSeq != 0 && w.endFlits ≤ w.flits then sendJack pos d else d

/-- The body of a CKPDATA flit (R169). -/
def ckpBody (off : Nat) (ws : List DWord) : Nat :=
  at8 8 (off + ws.length * 2 ^ 24) + (ws.zip [12, 20, 28]).foldl (fun n w => n + at8 w.2 w.1.toNat) 0

/-- A CKPDATA flit of words: NWORDS is 1 to 3. -/
def ckpWords (kind : Nat) (rx : Rx) (seq7 off : Nat) (ws : List DWord) (f : State → State) (s : State) :
    Host.Outcome State Fault Refusal :=
  if ws.isEmpty || 3 < ws.length then .next s
  else .next (receive 0x28 (kind + 8 * seq7) rx (ckpBody off ws) f s)

/-- CKPDATA_STATE. -/
def execCkpdataState (rx : Rx) (seq7 : BitVec 7) (offset : BitVec 24) (words : List DWord) (s : State) :
    Host.Outcome State Fault Refusal :=
  ckpWords 0 rx seq7.toNat offset.toNat words (onDev (stageIn 0 rx.src.toNat seq7.toNat offset.toNat words)) s

/-- CKPDATA_TRAM. -/
def execCkpdataTram (rx : Rx) (seq7 : BitVec 7) (offset : BitVec 24) (words : List DWord) (s : State) :
    Host.Outcome State Fault Refusal :=
  ckpWords 1 rx seq7.toNat offset.toNat words (onDev (stageIn 1 rx.src.toNat seq7.toNat offset.toNat words)) s

/-- CKPDATA_QPOS. -/
def execCkpdataQpos (rx : Rx) (seq7 : BitVec 7) (offset : BitVec 24) (words : List DWord) (s : State) :
    Host.Outcome State Fault Refusal :=
  ckpWords 2 rx seq7.toNat offset.toNat words (onDev (stageIn 2 rx.src.toNat seq7.toNat offset.toNat words)) s

/-- The first offset from `off` on that a mirror does not hold, at most `n` on. -/
def firstGap (l : List (Nat × Nat × DWord)) : Nat → Nat → Nat
  | 0, off => off
  | n + 1, off => if l.any fun x => x.2.1 == off then firstGap l n (off + 1) else off

/-- Mirrored journal words (R169, R176): stored at their offset, whose low 24 bits the flit carries, and acknowledged. -/
def mirrorIn (pos seq7 off24 : Nat) (ws : List DWord) (d : Dev) : Dev :=
  if !isSpare d then d
  else
    let w := workerOf d pos
    let off := if w.jrnl.isEmpty && w.jackOff == 0 then off24 else nearSeq w.jackOff off24 (2 ^ 24)
    let new := ws.zipIdx.map fun x => (seq7, off + x.2, x.1)
    let l := (w.jrnl.filter fun x => !(new.any fun y => y.2.1 == x.2.1)) ++ new
    let start := if w.jrnl.isEmpty && w.jackOff == 0 then off else w.jackOff
    sendJack pos (setWorker pos { w with jrnl := l, jackOff := firstGap l l.length start } d)

/-- CKPDATA_JRNL. -/
def execCkpdataJrnl (rx : Rx) (seq7 : BitVec 7) (offset : BitVec 24) (words : List DWord) (s : State) :
    Host.Outcome State Fault Refusal :=
  ckpWords 3 rx seq7.toNat offset.toNat words (onDev (mirrorIn rx.src.toNat seq7.toNat offset.toNat words)) s

/-- END of a worker's stream (R163, R169): the spare takes the checkpoint as pending and answers once every flit is in. -/
def endIn (pos seq k n : Nat) (d : Dev) : Dev :=
  if !isSpare d then d
  else
    let d := if (d.ck.pends.any fun c => c.seq == seq && c.k == k) || (latest d).1 == seq then d
      else takeCkpt seq k { d with ck := { d.ck with pends := d.ck.pends.filter fun c => c.seq != seq && decide (k ≤ c.k) } }
    let d := setWorker pos { workerOf d pos with endSeq := seq, endK := k, endFlits := n } d
    if n ≤ (workerOf d pos).flits then sendJack pos d else d

/-- CKPDATA_END. -/
def execCkpdataEnd (rx : Rx) (seq : Word) (k : DWord) (flits : Word) (s : State) : Host.Outcome State Fault Refusal :=
  .next (receive 0x28 (4 + 8 * (seq.toNat % 128)) rx (at8 8 seq.toNat + at8 12 k.toNat + at8 20 flits.toNat)
    (onDev (endIn rx.src.toNat seq.toNat k.toNat flits.toNat)) s)

end Sys2Proof.Machine
end

