-- ==== Sys2Proof/Machine/QueueRows.lean ====
section
/-! DEFINITION. The commands of queues: publishing, releasing and the relay's flits (R193-R200). -/

namespace Sys2Proof.Machine

/-- QUE_PUBLISH (R194, R196-R198): the request checks, then the entries one by one; over the relay they go to their home. -/
def publish (a : Agent) (v : Word) (s : State) : State :=
  let q := v.toNat % 8192
  let n := bitsOf v.toNat 20 13 + 1
  let relay := bitOf v.toNat 31
  let code := requestCode s.dev a relay true q
  if code != 0 then onDev (queueError a relay true q code) s
  else if relay then
    let p := (rdesc s.dev q).prod
    let (m, s) := sendRelayEntries q a n p p s
    if m == 0 then s
    else onDev (fun d => { d with qu := { d.qu with pubs := d.qu.pubs ++ [⟨true, q, a, p, m, 0, false⟩] } }) s
  else startPublish a q n s

/-- QUE_PUBLISH. -/
def execQuePublish (a : Agent) (v : Word) (s : State) : Host.Outcome State Fault Refusal :=
  .next (whenServed a (fun s => settle (publish a v s)) s)

/-- QUE_RELEASE (R193, R197, R198): CONS advances by the count; a relay release goes to the home device as CONS. -/
def release (a : Agent) (v : Word) (s : State) : State :=
  let q := v.toNat % 8192
  let n := bitsOf v.toNat 20 13 + 1
  let relay := bitOf v.toNat 31
  let code := requestCode s.dev a relay false q
  let x := if relay then rdesc s.dev q else qdesc s.dev q
  let code := if code == 0 && decide (x.prod - x.cons < n) then 7 else code
  if code != 0 then onDev (queueError a relay false q code) s
  else if relay then
    onDev (queueToHome 2 x.homePart x.homeQ 0 false (x.cons + n) 0) (setRdesc q { x with cons := x.cons + n } s)
  else releaseSlots q n s

/-- QUE_RELEASE. -/
def execQueRelease (a : Agent) (v : Word) (s : State) : Host.Outcome State Fault Refusal :=
  .next (whenServed a (fun s => settle (release a v s)) s)

/-- The whole entry, once every chunk up to LAST is here (R199). -/
def entryWhole (cs : List Chunk) (key index : Nat) : Option (List Byte) :=
  let mine := cs.filter fun c => c.q == key && c.index == index
  match mine.find? (·.last) with
  | none => none
  | some l =>
    let parts := (List.range (l.chunk + 1)).map fun i => mine.find? fun c => c.chunk == i
    if parts.all (·.isSome) then some (parts.flatMap fun p => match p with
      | some c => bytesOf 16 c.data.toNat
      | none => [])
    else none

/-- A chunk is placed, and an entry's chunks are dropped once it is taken. -/
def placeChunk (c : Chunk) (d : Dev) : Dev :=
  { d with qu := { d.qu with chunks := c :: d.qu.chunks.filter fun x =>
      !(x.q == c.q && x.index == c.index && x.chunk == c.chunk) } }

/-- The chunks of an entry are dropped. -/
def dropChunks (key index : Nat) (d : Dev) : Dev :=
  { d with qu := { d.qu with chunks := d.qu.chunks.filter fun c => !(c.q == key && c.index == index) } }

/-- The number the next relayed entry takes at the home device: PROD, and what a publish in progress still adds. -/
def nextNumber (d : Dev) (q : Nat) : Nat :=
  match d.qu.pubs.find? fun p => !p.relay && p.q == q with
  | some p => p.first + p.left
  | none => (qdesc d q).prod

/-- The home device takes complete entries in turn (R198): each is checked, written into its slot and published under R194; at
most `n` of them. -/
def takeEntries (q : Nat) : Nat → State → State
  | 0, s => s
  | n + 1, s =>
    let x := qdesc s.dev q
    let i := nextNumber s.dev q
    match entryWhole s.dev.qu.chunks q i with
    | none => s
    | some bs =>
      let s := onDev (dropChunks q i) s
      let code := entryCode x i (u32 bs 0) (u32 bs 4) (u64 bs 8)
      if code != 0 then onDev (queueToMgr 3 q 0 false i code) s
      else
        let s := putMem (slotAddr x i) (bs.take (slotBytes x)) s
        let ps := s.dev.qu.pubs
        let ps := if ps.any fun p => !p.relay && p.q == q then
            ps.map fun p => if !p.relay && p.q == q then { p with left := p.left + 1 } else p
          else ps ++ [⟨false, q, .executor, i, 1, 0, false⟩]
        takeEntries q n (progressPubs (onDev (fun d => { d with qu := { d.qu with pubs := ps } }) s))

/-- ENTRY at the home device (R194, R198): an entry already published is skipped and PROD answered. -/
def entryHome (c : Chunk) (s : State) : State :=
  let x := qdesc s.dev c.q
  if !x.bound || x.fromDesign || !relayed x then s
  else
    let s := onDev (placeChunk c) s
    if c.index < nextNumber s.dev c.q then
      match entryWhole s.dev.qu.chunks c.q c.index with
      | some _ => onDev (fun d => queueToMgr 1 c.q 0 false x.prod 0 (dropChunks c.q c.index d)) s
      | none => s
    else takeEntries c.q (s.dev.qu.chunks.length + 1) s

/-- The manager writes complete entries of a from-design queue into the relay ring in turn (R198); at most `n` of them. -/
def takeRelayed (r : Nat) : Nat → State → State
  | 0, s => s
  | n + 1, s =>
    let x := rdesc s.dev r
    match entryWhole s.dev.qu.chunks (8192 + r) x.prod with
    | none => s
    | some bs =>
      let s := onDev (dropChunks (8192 + r) x.prod) (putMem (slotAddr x x.prod) (bs.take (slotBytes x)) s)
      takeRelayed r n (onDev (notifyQueue true r x) (setRdesc r { x with prod := x.prod + 1 } s))

/-- ENTRY at the manager: an entry below the relay PROD stands already. -/
def entryMgr (pos : Nat) (c : Chunk) (s : State) : State :=
  match (partOf s.dev pos).bind fun p => relayOf s.dev p c.q with
  | some r =>
    let x := rdesc s.dev r
    if !x.fromDesign || c.index < x.prod then s
    else takeRelayed r (s.dev.qu.chunks.length + 1) (onDev (placeChunk { c with q := 8192 + r }) s)
  | none => s

/-- The body of a QUEUE flit (R199). -/
def queueBody (q chunk : Nat) (last : Bool) (index data : Nat) : Nat :=
  at8 8 (q + chunk * 2 ^ 13 + b2n last * 2 ^ 25) + at8 12 index + at8 20 data

/-- ENTRY. -/
def execEntry (rx : Rx) (queue : BitVec 13) (chunk : BitVec 12) (last : Bool) (index : DWord) (data : BitVec 128)
    (s : State) : Host.Outcome State Fault Refusal :=
  let c : Chunk := ⟨queue.toNat, index.toNat, chunk.toNat, last, data⟩
  .next (receive 0x30 0 rx (queueBody queue.toNat chunk.toNat last index.toNat data.toNat)
    (fun s => if rx.dkind then (if isMgr s.dev then entryMgr rx.src.toNat c s else s) else entryHome c s) s)

/-- Change the relay descriptor of a sender's home queue at the manager. -/
def onRelay (pos q : Nat) (f : Nat → QDesc → State → State) (s : State) : State :=
  if !isMgr s.dev then s
  else match (partOf s.dev pos).bind fun p => relayOf s.dev p q with
    | some r => f r (rdesc s.dev r) s
    | none => s

/-- PROD (R198): the relay PROD follows the home's; a publish whose entries are all in ends. -/
def prodIn (v r : Nat) (x : QDesc) (s : State) : State :=
  if x.fromDesign || v ≤ x.prod then s
  else onDev (fun d => { d with qu := { d.qu with pubs := d.qu.pubs.filter fun p =>
    !(p.relay && p.q == r && decide (p.first + p.left ≤ v)) } }) (setRdesc r { x with prod := v } s)

/-- PROD. -/
def execProd (rx : Rx) (queue : BitVec 13) (value : DWord) (s : State) : Host.Outcome State Fault Refusal :=
  .next (receive 0x30 1 rx (queueBody queue.toNat 0 false value.toNat 0)
    (onRelay rx.src.toNat queue.toNat (prodIn value.toNat)) s)

/-- CONS at the manager (R198): the relay CONS follows the home's, and the owner is signalled. -/
def consMgr (v r : Nat) (x : QDesc) (s : State) : State :=
  if x.fromDesign || v ≤ x.cons then s else onDev (notifyQueue true r x) (setRdesc r { x with cons := v } s)

/-- CONS at the home device (R198): the slots the host released at the manager are free. -/
def consHome (q v : Nat) (s : State) : State :=
  let x := qdesc s.dev q
  if !x.bound || !x.fromDesign || !relayed x || v ≤ x.cons || x.prod < v then s else releaseSlots q (v - x.cons) s

/-- CONS. -/
def execCons (rx : Rx) (queue : BitVec 13) (value : DWord) (s : State) : Host.Outcome State Fault Refusal :=
  .next (receive 0x30 2 rx (queueBody queue.toNat 0 false value.toNat 0)
    (fun s => if rx.dkind then onRelay rx.src.toNat queue.toNat (consMgr value.toNat) s
      else consHome queue.toNat value.toNat s) s)

/-- REFUSE (R197-R199): the publish ends, and its source reads the home's code in QUE_ERR. -/
def refuseIn (code r : Nat) (_ : QDesc) (s : State) : State :=
  match s.dev.qu.pubs.find? fun p => p.relay && p.q == r with
  | some p => onDev (fun d => queueError p.src true true r code
      { d with qu := { d.qu with pubs := d.qu.pubs.filter fun p => !(p.relay && p.q == r) } }) s
  | none => s

/-- REFUSE. -/
def execRefuse (rx : Rx) (queue : BitVec 13) (entry : DWord) (code : BitVec 8) (s : State) :
    Host.Outcome State Fault Refusal :=
  .next (receive 0x30 3 rx (queueBody queue.toNat 0 false entry.toNat code.toNat)
    (onRelay rx.src.toNat queue.toNat (refuseIn code.toNat)) s)

/-- REATTACH (R200): the home device sends every released entry again from the resume index. -/
def reattachIn (q resume : Nat) (s : State) : State :=
  let x := qdesc s.dev q
  if !x.bound || !x.fromDesign || !relayed x then s
  else
    let from_ := max resume x.cons
    each ((List.range (x.prod - from_)).map (from_ + ·)) (fun i s => sendEntryMgr q x i s) s

/-- REATTACH. -/
def execReattach (rx : Rx) (queue : BitVec 13) (resume : DWord) (s : State) : Host.Outcome State Fault Refusal :=
  .next (receive 0x30 4 rx (queueBody queue.toNat 0 false resume.toNat 0)
    (reattachIn queue.toNat resume.toNat) s)

end Sys2Proof.Machine
end

