-- ==== Sys2Proof/Machine/VisRows.lean ====
section
/-! DEFINITION. The commands of triggers and trace masks (R205, R214, R215). -/

namespace Sys2Proof.Machine

/-- The manager learns from a TRIG flit that a unit of another device fired: its own partner ports get the trigger event where that unit has
IRQ, which the flit does not say and is free (R213; assumptions row 116). -/
def mgrTrigger (pos t unit : Nat) (d : Dev) : Dev :=
  if !isMgr d then d
  else
    let irq := Config.freeBit d.free
    let d := { d with free := d.free + 1 }
    if irq then hostEvent 3 ([unit + pos * 2 ^ 16, 0] ++ lohi t) d else d

/-- TRIG_LINE (R214). -/
def execTrigLine (rx : Rx) (line : BitVec 6) (t : DWord) (unit : BitVec 6) (s : State) : Host.Outcome State Fault Refusal :=
  .next (receive 0x17 line.toNat rx (at8 8 t.toNat + at8 16 unit.toNat)
    (onDev fun d => mgrTrigger rx.src.toNat t.toNat unit.toNat (lineIn line.toNat d)) s)

/-- A trigger's FREEZE request at the manager (R213, R214): S exceeds the traverse after the trigger's; any other device discards it. -/
def trigFreezeIn (pos t unit : Nat) (d : Dev) : Dev :=
  if !isMgr d then d
  else
    let d := if freezing d then d else { d with tv := { d.tv with trigT := some (nextCount t) } }
    mgrFreeze (mgrTrigger pos t unit d)

/-- TRIG_FREEZE. -/
def execTrigFreeze (rx : Rx) (t : DWord) (unit : BitVec 6) (s : State) : Host.Outcome State Fault Refusal :=
  .next (receive 0x17 64 rx (at8 8 t.toNat + at8 16 unit.toNat) (onDev (trigFreezeIn rx.src.toNat t.toNat unit.toNat)) s)

/-- A write to a register of a trigger unit (R215): cnt and v' are cleared, a unit with ARM_EN is disarmed, and one that ONESHOT
disarmed is rewritten. -/
def writeUnit (u reg : Nat) (v : Word) (d : Dev) : Dev :=
  let d := plainWrite (VIS_TRG_CTRL u + 4 * reg) v d
  { d with vs := { d.vs with units := sset unit0 d.vs.units u (unit0 u) } }

/-- TRIGGER_UNIT_WRITE. -/
def execTriggerUnitWrite (a : Agent) (unit : BitVec 6) (reg : BitVec 3) (v : Word) (s : State) :
    Host.Outcome State Fault Refusal :=
  .next (whenWritable a (onDev (writeUnit unit.toNat reg.toNat v)) s)

/-- A write of VIS_TRACE_TMASK_n (R205): ignored but in FREEZE, STANDBY and LOAD; a change in FREEZE empties the ring when the
next RUN begins. -/
def writeTraceMask (n : Nat) (v : Word) (d : Dev) : Dev :=
  let m := mode d
  if !(m == 1 || m == 2 || m == 4) then d
  else
    let changed := getR d (VIS_TRACE_TMASK n) != v
    let d := setR d (VIS_TRACE_TMASK n) v
    if m == 4 then { d with vs := { d.vs with emptyNext := d.vs.emptyNext || changed } } else sizeTrace d

/-- TRACE_MASK_WRITE. -/
def execTraceMaskWrite (a : Agent) (n : BitVec 3) (v : Word) (s : State) : Host.Outcome State Fault Refusal :=
  .next (whenWritable a (onDev (writeTraceMask n.toNat v)) s)

end Sys2Proof.Machine
end

