-- ==== Sys2Proof/Machine/CairnRows.lean ====
section
/-! DEFINITION. The commands of the Cairn: events, acknowledgement, latches, classes, injection, and the FAULT flits
(R223-R239, R244, R245). -/

namespace Sys2Proof.Machine

/-- A fault report of a unit (R223-R233); a lost timebase clears TSYNC (R132), a lockup of core 0 in BOOT or STANDBY clears
BASECAMP (R224). A code R226 does not use is no source. -/
def faultEvent (src detail trav : Nat) (d : Dev) : Dev :=
  if src == 0 || 0x24 < src then d
  else
    let d := if src == 0x16 then setFlag d SYS_READY_TSYNC false else d
    let d := if src == 0x19 && detail % 32 == 0 && (mode d == 0 || mode d == 1) then setFlag d SYS_READY_BASECAMP false else d
    raiseAt src detail trav false d

/-- CAIRN_EVENT. -/
def execCairnEvent (source : BitVec 8) (detail traverse : DWord) (s : State) : Host.Outcome State Fault Refusal :=
  .next (whenAlive (fun s => settle (onDev (faultEvent source.toNat detail.toNat traverse.toNat) s)) s)

/-- Whether the acknowledge windows count (R231). -/
def windowsCount (d : Dev) : Bool := !flag d DBG_HALT_HALTED && (coreOf d 0).monitor.isNone

/-- ACK_WINDOW_EXPIRY (R231): a window of 0 never runs. -/
def execAckWindowExpiry (n : BitVec 2) (s : State) : Host.Outcome State Fault Refusal :=
  .next (whenAlive (fun s =>
    if windowsCount s.dev && getR s.dev (CAIRN_WIN_C n.toNat) != 0#32 then settle (onDev (windowExpiry n.toNat) s) else s) s)

/-- CAIRN_ACK (R229). -/
def execCairnAck (a : Agent) (n : BitVec 3) (v : Word) (s : State) : Host.Outcome State Fault Refusal :=
  .next (whenWritable a (onDev fun d => if n.toNat < 5 then acknowledge n.toNat v.toNat d else d) s)

/-- A write of CAIRN_STATUS (R236): a latch clears only when no record of its class is unacknowledged; OVERRUN clears. -/
def clearLatches (v : Word) (d : Dev) : Dev :=
  let free := fun n => !(d.cn.unack.any fun u => u.cls == n)
  let d := if bitOf v.toNat 8 && free 3 then setFlag d CAIRN_STATUS_LATCH_C3 false else d
  let d := if bitOf v.toNat 9 && free 4 then setFlag d CAIRN_STATUS_LATCH_C4 false else d
  syncFlt (if bitOf v.toNat 10 then setFlag d CAIRN_STATUS_OVERRUN false else d)

/-- LATCH_CLEAR. -/
def execLatchClear (a : Agent) (v : Word) (s : State) : Host.Outcome State Fault Refusal :=
  .next (whenWritable a (onDev (clearLatches v)) s)

/-- FLT_N_PULSE_END (R236). -/
def execFltNPulseEnd (s : State) : Host.Outcome State Fault Refusal :=
  .next (whenAlive (onDev fun d => syncFlt { d with cn := { d.cn with pulse := false } }) s)

/-- A write of CAIRN_SRC_s (R227): a class below FLOOR sets FLOOR, one above 4 sets 4. -/
def writeSrc (n : Nat) (v : Word) (d : Dev) : Dev :=
  if n == 0 || 0x24 < n then d
  else
    let c := max (getF d (CAIRN_SRC_FLOOR n)) (min 4 (v.toNat % 8))
    setF (plainWrite (CAIRN_SRC n) v d) (CAIRN_SRC_CLASS n) c

/-- CAIRN_SRC_WRITE. -/
def execCairnSrcWrite (a : Agent) (source : BitVec 8) (v : Word) (s : State) : Host.Outcome State Fault Refusal :=
  .next (whenWritable a (onDev (writeSrc source.toNat v)) s)

/-- The protected word CAIRN_INJ_ADDR names for targets 1 and 2 (R226, R239); none for a bad address. -/
def injectKey (target addr : Nat) : Option Nat :=
  if target == 2 then (if addr % 8 == 0 && decide (addr < hbmSize) then some (eccKey 6 (addr / 8)) else none)
  else
    let t := addr % 256
    let e := bitsOf addr 16 8
    let i := bitsOf addr 29 17
    let store := bitsOf addr 32 30
    if 2 ^ 33 ≤ addr then none
    else if store == 0 then (if i < 1024 then some (eccKey 0 (1024 * (512 * t + e) + i)) else none)
    else if store == 1 then (if i < 16 then some (eccKey 1 (16 * (512 * t + e) + i)) else none)
    else if store == 2 || store == 3 then (if i == 0 then some (eccKey store (512 * t + e)) else none)
    else if store == 5 then some (eccKey 5 (8192 * t + i))
    else none

/-- The injection's outcome (R239): DONE, or ERR. -/
def injectEnd (err : Nat) (d : Dev) : Dev := setF (setFlag d CAIRN_INJ_CTRL_DONE (err == 0)) CAIRN_INJ_CTRL_ERR err

/-- An injection (R239). -/
def inject (d : Dev) : Dev :=
  let target := getF d CAIRN_INJ_CTRL_TARGET
  let mask := BitVec.ofNat 8 (getF d CAIRN_INJ_CTRL_MASK)
  let addr := get2 d CAIRN_INJ_ADDR_LO
  if !flag d CAIRN_CTRL_INJ_EN || mode d == 7 then injectEnd 1 d
  else if target == 0 || 3 < target then injectEnd 3 d
  else if target == 3 then
    let k := addr % 32
    if 18 ≤ k then injectEnd 3 d
    else
      let m := sget (fun _ => 0#8) d.cn.crcMask k ^^^ mask
      injectEnd 0 { d with cn := { d.cn with crcMask := sset (fun _ => 0#8) d.cn.crcMask k m } }
  else if popcount mask == 0 || 2 < popcount mask then injectEnd 2 d
  else match injectKey target addr with
    | none => injectEnd 3 d
    | some key =>
      injectEnd 0 { d with ecc := sset (fun _ => 0#8) d.ecc key (eccMask d key ^^^ mask)
                           cn := { d.cn with injected := (key :: d.cn.injected.filter (· != key)).take 16 } }

/-- A write of CAIRN_INJ_CTRL (R239). -/
def writeInject (v : Word) (d : Dev) : Dev :=
  let d := plainWrite CAIRN_INJ_CTRL v d
  if bitOf v.toNat 12 then inject d else d

/-- INJECT. -/
def execInject (a : Agent) (v : Word) (s : State) : Host.Outcome State Fault Refusal :=
  .next (whenWritable a (onDev (writeInject v)) s)

/-- A REPORT at the manager (R223, R224, R235, R245, R247): the copy in its ring, the FAULT event, and what the class and the
source ask of the manager. A joined event asks for nothing more (R230). -/
def reportIn (pos : Nat) (rec : Nat) (d : Dev) : Dev :=
  if !isMgr d then d
  else
    let w1 := rec % 2 ^ 32
    let src := w1 % 256
    let cls := bitsOf w1 10 8
    let detail := rec / 2 ^ 160
    let w1 := if bitOf w1 18 then w1 else w1 + 2 ^ 18
    let (seq, d) := ringWrite w1 (rec / 2 ^ 32 % 2 ^ 64) (rec / 2 ^ 96 % 2 ^ 64) detail d
    let d := if 2 ≤ cls then hostEvent 4 [seq, w1, 0, 0] d else d
    let k := detail % 32
    let d := if src == 0x12 then ropeReported pos k d
      else if src == 0x10 then
        { d with rs := { d.rs with degraded := (pos, peerOf d pos k) :: d.rs.degraded.filter (· != (pos, peerOf d pos k)) } }
      else if src == 0x0F && detail == 1 then { d with rs := { d.rs with noParity := insertOnce pos d.rs.noParity } }
      else d
    if bitsOf w1 16 14 == 5 then d
    else if cls == 3 then (if src == 0x17 || src == 0x20 || src == 0x21 then d else loseDevice false pos d)
    else if cls == 2 then
      if mode d == 2 then abortLoad 15 [] d
      else if mode d == 5 then endReplay 7 d
      else if src == 0x06 && d.rs.recovering && decide (d.rs.phase ≤ 1) && inArea d 6 detail then fallBack d
      else if mode d == 3 || mode d == 4 || mode d == 6 then toRecover false d
      else d
    else d

/-- REPORT. -/
def execReport (rx : Rx) (rec : BitVec 224) (s : State) : Host.Outcome State Fault Refusal :=
  .next (receive 0x15 0 rx rec.toNat (onDev (reportIn rx.src.toNat rec.toNat)) s)

/-- SILENT (R126, R244). -/
def execSilent (rx : Rx) (pos : BitVec 10) (s : State) : Host.Outcome State Fault Refusal :=
  .next (receive 0x15 1 rx (at8 8 pos.toNat) (onDev (noteSilent rx.src.toNat pos.toNat)) s)

/-- SAFE (R29, R245): the manager treats the sender as lost; it stays readable. The deputy takes the manager's for the manager's loss
(assumptions row 97). -/
def safeIn (src : Nat) (d : Dev) : Dev :=
  if isMgr d then loseDevice true src d
  else if role d == 2 && src == mgrPos d && !isLost d src then managerGone d
  else d

/-- SAFE. -/
def execSafe (rx : Rx) (seq : Word) (rec : BitVec 192) (s : State) : Host.Outcome State Fault Refusal :=
  .next (receive 0x15 2 rx (at8 8 seq.toNat + at8 12 rec.toNat) (onDev (safeIn rx.src.toNat)) s)

end Sys2Proof.Machine
end

