-- ==== Sys2Proof/Machine/ResilRows.lean ====
section
/-! DEFINITION. The commands of modes, topology, the map, losses, recovery and takeover (R20-R31, R240-R272). -/

namespace Sys2Proof.Machine

/-- SETTLE_EXPIRY (R244). -/
def execSettleExpiry (s : State) : Host.Outcome State Fault Refusal :=
  .next (whenAlive (fun s => if s.dev.rs.settling then settle (onDev classify s) else s) s)

/-- TRANSITION_END: the transition ends, and a takeover that waited for RECOVER takes place (R21). -/
def execTransitionEnd (s : State) : Host.Outcome State Fault Refusal :=
  .next (whenGranted (fun s => settle (takeoverAt (endTransitionAt s))) s)

/-- MODE at a device other than the manager (R24, R159, R463): the parameters of an order of RUN are kept; then the order is
applied. -/
def modeIn (arg value p w l : Nat) (d : Dev) : Dev :=
  if isMgr d then d
  else
    let m := arg % 8
    let d := if m == 3 then takeParams p w l d else d
    let d := if m == 2 && mode d != 2 then
        { d with free := d.free + 1, hs := { d.hs with noCheck := Config.freeBit d.free, accepted := [] } } else d
    orderMode m (bitOf arg 3) value d

/-- MODE. -/
def execMode (rx : Rx) (epoch : BitVec 16) (arg : BitVec 10) (value : DWord) (period wallcap : Word) (lead : BitVec 8)
    (s : State) : Host.Outcome State Fault Refusal :=
  .next (sysctlIn 0 rx epoch arg.toNat value.toNat (period.toNat + wallcap.toNat * 2 ^ 32 + lead.toNat * 2 ^ 64)
    (onDev (modeIn arg.toNat value.toNat period.toNat wallcap.toNat lead.toNat)) s)

/-- The role a module gets that reports after the topology check (R21): a position whose partition another device holds
becomes the SPARE of a party that has none, else stays a WORKER without a partition. -/
def joinRole (d : Dev) (pos role part : Nat) : Nat × Nat :=
  if role == 3 then (3, 0)
  else match pmap d (part - 1) with
    | some h => if h == pos || isLost d h then (role, part) else if (spareOf d (pos / 16)).isNone then (3, 0) else (0, 0)
    | none => (role, part)

/-- A report after the check (R21, R267, R299): the check of R19 is repeated, a partition nobody holds is added by MAP, and
the newcomer and every other device are told the roles. -/
def joinIn (pos role cfg part : Nat) (d : Dev) : Dev :=
  let (r, p) := joinRole d pos role part
  let d := noteTopo pos r cfg p (clearLost pos d)
  match rolesBroken d with
  | some (a, b) => topoFails a b d
  | none =>
    let d := sendResults (sendPos 0x12 1 pos) (if r != role then roleChanged pos r role d else d)
    let d := tellRole pos r cfg p d
    let d := if r == 3 && !earlyMode d then { d with rs := { d.rs with noParity := insertOnce pos d.rs.noParity } } else d
    let d := if p != 0 && pmap d (p - 1) != some pos then
        let d := bumpEpoch (setMap (p - 1) pos true d)
        awaitAcks 2 (p - 1) (broadcast 0x12 2 (sysctl d (p - 1) (pos + 2 ^ 15) 0) d)
      else d
    if mode d == 1 && topoWhole d then setFlag d SYS_READY_TOPO true else d

/-- A TOPO report at the manager (R20, R299): two devices that report one position fail the check. -/
def topoReport (pos v : Nat) (d : Dev) : Dev :=
  let role := v % 4
  let cfg := v / 4 % 4
  let part := if bitOf v 4 then bitsOf v 14 5 + 1 else 0
  if mode d == 0 && !flag d SYS_READY_TOPO then
    if pos == myPos d || d.rs.topo.any fun e => e.1 == pos then topoFails pos pos d
    else topoTry (noteTopo pos role cfg part d)
  else joinIn pos role cfg part d

/-- The manager's results at a device (R20, R21, R299): roles are noted; in BOOT the manager's own, sent last, ends the check,
and the positions that did not report, of those the SYSTEM section or else the wired ropes show, are LOST (assumptions row 20). -/
def topoResult (src pos v : Nat) (d : Dev) : Dev :=
  let role' := v % 4
  let part := bitsOf v 14 5
  if mode d == 0 && src != mgrPos d then topoFails src (mgrPos d) d
  else if src != mgrPos d then d
  else
    let old := (roleOf d pos).getD role'
    let d := noteTopo pos role' (v / 4 % 4) (if bitOf v 4 then part + 1 else 0) (clearLost pos d)
    let d := if role' == 2 then setDeputy pos true d else d
    let d := if mode d != 0 && old != role' then roleChanged pos role' old d else d
    let d := if pos == myPos d then
        let d := setFlag (setF d SYS_ROLE_ROLE role') SYS_PARTITION_VALID (bitOf v 4)
        let d := if bitOf v 4 then setF d SYS_PARTITION_NUMBER part else setF d SYS_PARTITION_NUMBER 0
        if role' == 3 && getF d SYS_ROLE_CFG_ROLE != 3 then
          setFlag { d with par := { d.par with rebuilding := true, krSeq := 0 }, rs := { d.rs with joinRestores := true } }
            RES_STATUS_RESTORING true
        else d
      else d
    if mode d != 0 || pos != mgrPos d || flag d SYS_READY_TOPO || !flag d SYS_READY_LINK then d
    else
      let wired := ((List.range 18).filter fun k => (ropeOf d k).wired).map fun k => (ropeOf d k).expPos
      let all := if (sectionOf (applied d) 3).isSome then systemSet d else wired
      let d := each (all.filter fun p => p != myPos d && !(d.rs.topo.any fun e => e.1 == p)) (fun p d =>
        setFlag d (bitFld (RES_LOST (p / 32)) (p % 32)) true) d
      beginTrans 1 false true (setFlag { fillMap d with pw := { d.pw with bootWindow := false } } SYS_READY_TOPO true)

/-- TOPO: a device's report to the manager, or the manager's result. -/
def topoIn (src pos v : Nat) (d : Dev) : Dev :=
  if isMgr d then (if src == pos then topoReport pos v d else d) else topoResult src pos v d

/-- TOPO. -/
def execTopo (rx : Rx) (epoch : BitVec 16) (pos : BitVec 10) (value : DWord) (s : State) : Host.Outcome State Fault Refusal :=
  .next (sysctlIn 1 rx epoch pos.toNat value.toNat 0 (onDev (topoIn rx.src.toNat pos.toNat value.toNat)) s)

/-- MAP (R241): applied and acknowledged; in STANDBY the return of the last lost holder restores TOPO (R265). -/
def mapIn (part v : Nat) (d : Dev) : Dev :=
  if isMgr d then d
  else
    let d := sendAck 2 (bumpEpoch (applyMap part (v % 1024) (bitOf v 15) d))
    if mode d == 1 && topoWhole d then setFlag d SYS_READY_TOPO true else d

/-- A waiting flit that a MAP has made this device's own is delivered, and its receive buffer is free (R114, R115); when the device
does not hold the partition it is reported (R117). -/
def deliverOwn (f : Flit) (s : State) : State :=
  let s := onDev (dropFlit f) s
  let b := f.body.toNat
  if !(holds s.dev && myPart s.dev == f.dest) then onDev (linkFault 0x15 ((f.held.map (·.1)).getD 0) f.ty f.dest) s
  else if f.ty == 0x20 then
    onDev (each (List.range (f.sub / 2 % 16)) fun i d =>
      let e := b / 2 ^ (18 * i)
      let parity := f.sub % 2 == 1
      placeValue (512 * (e / 512 % 256) + e % 512) parity (bitOf e 17) (valueTraverse d (e / 512 % 256) parity) d) s
  else if f.ty == 0x21 then onDev (floorIn f.src (bitsOf b 63 0) (bitsOf b 79 64)) s
  else if f.ty == 0x13 then onDev (feederIn f.src) s
  else if f.ty == 0x30 && f.sub == 0 then
    entryHome ⟨bitsOf b 12 0, bitsOf b 95 32, bitsOf b 24 13, bitOf b 25, BitVec.ofNat 128 (b / 2 ^ 96)⟩ s
  else if f.ty == 0x30 && f.sub == 2 then consHome (bitsOf b 12 0) (bitsOf b 95 32) s
  else if f.ty == 0x30 && f.sub == 4 then reattachIn (bitsOf b 12 0) (bitsOf b 95 32) s
  else s

/-- Every flit kept for this device itself is delivered. -/
def deliverWaiting (s : State) : State :=
  each s.dev.lk.own deliverOwn (onDev (fun d => { d with lk := { d.lk with own := [] } }) s)

/-- MAP. -/
def execMap (rx : Rx) (epoch : BitVec 16) (partition : BitVec 10) (value : DWord) (s : State) :
    Host.Outcome State Fault Refusal :=
  .next (sysctlIn 2 rx epoch partition.toNat value.toNat 0 (fun s => deliverWaiting (onDev (mapIn partition.toNat value.toNat) s)) s)

/-- LOST (R242): the position named is fenced; the others mark it and acknowledge. -/
def lostIn (pos : Nat) (d : Dev) : Dev :=
  if pos == myPos d then applyLost pos d
  else if isMgr d then d
  else if isLost d pos then sendAck 3 (bumpEpoch d)
  else applyLost pos d

/-- LOST. -/
def execLost (rx : Rx) (epoch : BitVec 16) (pos : BitVec 10) (s : State) : Host.Outcome State Fault Refusal :=
  .next (sysctlIn 3 rx epoch pos.toNat 0 0 (onDev (lostIn pos.toNat)) s)

/-- The acknowledgement of one change by one device. -/
def ackOne (sub pos : Nat) : List AckWait → List AckWait
  | [] => []
  | a :: r => if a.sub == sub && a.left.contains pos then { a with left := a.left.filter (· != pos) } :: r else a :: ackOne sub pos r

/-- A holder that took its container on its own port reports to the manager (R25, R287): VALUE [15:8] is the refusal's reason, 0
for acceptance, [31:16] the violation count and [63:32] the first violation. -/
def loadReport (pos v : Nat) (d : Dev) : Dev :=
  match partOf d pos with
  | none => d
  | some p =>
    let code := bitsOf v 15 8
    if mode d != 2 then d
    else if code == 0 then
      if d.hs.accepted.contains p then d else { d with hs := { d.hs with accepted := d.hs.accepted ++ [p] } }
    else
      let entry := if code == 5 || code == 6 then Config.freeChoice d.free % 4096 else 0
      let d := if code == 5 || code == 6 then { d with free := d.free + 1 } else d
      abortLoad 10 [code + bitsOf v 31 16 * 2 ^ 16, v / 2 ^ 32, entry + p * 2 ^ 16, 0] d

/-- ACK (R241): a change is in force once every acknowledgement is in. -/
def ackIn (pos v : Nat) (d : Dev) : Dev :=
  if !isMgr d then d
  else if v % 256 == 0 then loadReport pos v d
  else
    let l := ackOne (v % 256) pos d.rs.acks
    let mapDone := l.any fun a => a.left.isEmpty && a.sub == 2
    let d := { d with rs := { d.rs with acks := l.filter fun a => !a.left.isEmpty } }
    if mapDone then irqEvent 5 d else d

/-- ACK. -/
def execAck (rx : Rx) (epoch : BitVec 16) (pos : BitVec 10) (value : DWord) (s : State) : Host.Outcome State Fault Refusal :=
  .next (sysctlIn 4 rx epoch pos.toNat value.toNat 0 (onDev (ackIn pos.toNat value.toNat)) s)

/-- BEAT (R74, R243, R263, R299): the manager lives; its checkpoint is committed here too; a joining device takes RESTORES; a
hold for want of BEAT ends. One from another position than MGR_POS in BOOT is a configuration fault. -/
def beatIn (src k seq restores : Nat) (s : State) : State :=
  let d := s.dev
  if isMgr d then s
  else if mode d == 0 && src != mgrPos d then onDev (topoFails src (mgrPos d)) s
  else if src != mgrPos d then s
  else
    let d := { d with pw := { d.pw with heardMgr := true } }
    let d := if d.rs.joinRestores then setF { d with rs := { d.rs with joinRestores := false } } TRV_STATUS_RESTORES restores else d
    let d := if d.rs.mgrHold then
        let d := { d with rs := { d.rs with mgrHold := false } }
        if d.md.trans.isNone && mode d != 6 then releaseHold d else d
      else d
    let d := { d with rs := { d.rs with seqBase := max d.rs.seqBase seq } }
    if seq == 0 then { s with dev := d } else commitIn seq k { s with dev := d }

/-- BEAT. -/
def execBeat (rx : Rx) (epoch : BitVec 16) (pos : BitVec 10) (bound : DWord) (seq : Word) (restores : BitVec 16)
    (s : State) : Host.Outcome State Fault Refusal :=
  .next (sysctlIn 5 rx epoch pos.toNat bound.toNat (seq.toNat + restores.toNat * 2 ^ 32)
    (beatIn rx.src.toNat bound.toNat seq.toNat restores.toNat) s)

/-- BEAT_PERIOD (R243): every mode but SAFE. -/
def beat (d : Dev) : Dev :=
  if !isMgr d || mode d == 7 then d
  else broadcast 0x12 5 (sysctl d (myPos d) (latest d).2 ((latest d).1 + getF d TRV_STATUS_RESTORES * 2 ^ 32)) d

/-- BEAT_PERIOD. -/
def execBeatPeriod (s : State) : Host.Outcome State Fault Refusal := .next (whenGranted (onDev beat) s)

/-- CENSUS (R161, R243, R260). -/
def censusIn (src : Nat) (d : Dev) : Dev :=
  sendPos 0x12 7 src (sysctl d (myPos d) (latest d).2
    ((latest d).1 + role d * 2 ^ 32 + b2n (flag d CKP_STATUS_EDITED) * 2 ^ 40)) d

/-- CENSUS. -/
def execCensus (rx : Rx) (epoch : BitVec 16) (pos : BitVec 10) (s : State) : Host.Outcome State Fault Refusal :=
  .next (sysctlIn 6 rx epoch pos.toNat 0 0 (onDev (censusIn rx.src.toNat)) s)

/-- The devices of a party that have not answered a census. -/
def unanswered (d : Dev) (c : Census) : List Nat :=
  let gone := (List.range 64).filter fun q => getF d (bitFld (RES_UNREACH0 + 4 * (q / 32)) (q % 32)) == 1
  ((d.rs.topo.map (·.1)).filter fun p => gone.contains (p / 16) && !isLost d p && p != myPos d).filter fun p =>
    !(c.replies.any fun r => r.1 == p)

/-- CENSUS_REPLY (R161, R260, R271): a reunion goes on once every device of the parties has answered. -/
def censusReplyIn (pos k seq role' : Nat) (edited : Bool) (d : Dev) : Dev :=
  match d.rs.census with
  | none => d
  | some c =>
    let c := { c with replies := (pos, k, seq, role', edited) :: c.replies.filter (·.1 != pos) }
    let d := { d with rs := { d.rs with census := some c, seqBase := max d.rs.seqBase seq } }
    if c.kind == 3 && (unanswered d c).isEmpty then reunite c.replies d else d

/-- CENSUS_REPLY. -/
def execCensusReply (rx : Rx) (epoch : BitVec 16) (pos : BitVec 10) (bound : DWord) (seq : Word) (role : BitVec 2)
    (edited : Bool) (s : State) : Host.Outcome State Fault Refusal :=
  .next (sysctlIn 7 rx epoch pos.toNat bound.toNat (seq.toNat + role.toNat * 2 ^ 32 + b2n edited * 2 ^ 40)
    (onDev (censusReplyIn pos.toNat bound.toNat seq.toNat role.toNat edited)) s)

/-- CENSUS_CLOSE (R260, R261, R271): the deputy takes over with a majority of the parties, else it strands; a reunion's devices
that stay silent are lost. -/
def censusEnds (d : Dev) : Dev :=
  match d.rs.census with
  | none => d
  | some c =>
    if c.kind == 2 then
      let d := { d with rs := { d.rs with census := none } }
      if role d != 2 then d
      else if majority d c.replies then takeoverTry { d with rs := { d.rs with takeover := some c.replies } }
      else strandNow d
    else if c.kind == 3 && isMgr d then reunite c.replies (each (unanswered d c) (loseDevice false) d)
    else d

/-- CENSUS_CLOSE. -/
def execCensusClose (s : State) : Host.Outcome State Fault Refusal :=
  .next (whenGranted (fun s => settle (onDev censusEnds s)) s)

/-- ADOPT (R250, R251, R265): the spare takes partition and target. Without consistent parity no adoption is possible, and the manager
orders none: such an ADOPT changes nothing. -/
def adoptIn (part k seq : Nat) (d : Dev) : Dev :=
  if !isSpare d || !flag d MEM_REGION_PARITY_VALID then d
  else { d with rs := { d.rs with adoptPart := some part, adoptReady := false, target := some (k, seq)
                                  mapOld := some ((pmap d part).getD part) } }

/-- ADOPT. -/
def execAdopt (rx : Rx) (epoch : BitVec 16) (partition : BitVec 10) (k : DWord) (seq : Word) (s : State) :
    Host.Outcome State Fault Refusal :=
  .next (sysctlIn 8 rx epoch partition.toNat k.toNat seq.toNat (onDev (adoptIn partition.toNat k.toNat seq.toNat)) s)

/-- ADOPT_IMAGE_LOADED (R249-R251): step memories, tables, bindings and probe masks come from the image copy; ADOPTED is
sent. -/
def adoptLoaded (s : State) : State :=
  match s.dev.rs.adoptPart with
  | none => s
  | some part =>
    let c := (workerOf s.dev (s.dev.rs.mapOld.getD part)).image
    match imageOf c with
    | none => s
    | some im =>
      if s.dev.rs.adoptReady then s
      else
        let s := bindQueues im (onDev (fun d => layArea (loadTables im d)) s)
        onDev (fun d =>
          let d := putMasks im d
          let d := { d with tv := { d.tv with targets := (targetSet im).filter (· != part) }
                            hs := { d.hs with image := c, imageHeld := true }, pw := { d.pw with held := true }, rs := { d.rs with adoptReady := true } }
          let d := setFlag d SYS_READY_FABRIC true
          sendMgr 0x12 9 (sysctl d part 0 0) d) s

/-- ADOPT_IMAGE_LOADED. -/
def execAdoptImageLoaded (s : State) : Host.Outcome State Fault Refusal :=
  .next (whenGranted (fun s => settle (adoptLoaded s)) s)

/-- ADOPTED (R251): the restore begins once every adoption is ready. -/
def adoptedIn (src part : Nat) (d : Dev) : Dev :=
  if isMgr d then { d with rs := { d.rs with adopting := d.rs.adopting.filter (· != (part, src)) } } else d

/-- ADOPTED. -/
def execAdopted (rx : Rx) (epoch : BitVec 16) (partition : BitVec 10) (s : State) : Host.Outcome State Fault Refusal :=
  .next (sysctlIn 9 rx epoch partition.toNat 0 0 (onDev (adoptedIn rx.src.toNat partition.toNat)) s)

/-- TAKEOVER (R241, R261): accepted with the GENERATION after this device's. -/
def takeoverIn (gen pos old k seq : Nat) (d : Dev) : Dev :=
  if gen == (generation d + 1) % 16 then applyTakeover pos old k seq gen d else d

/-- TAKEOVER. -/
def execTakeover (rx : Rx) (epoch : BitVec 16) (pos : BitVec 10) (k : DWord) (seq : Word) (oldMgr : BitVec 10) (s : State) :
    Host.Outcome State Fault Refusal :=
  .next (receive 0x12 10 rx
    (at8 8 epoch.toNat + at8 10 pos.toNat + at8 12 k.toNat + at8 20 (seq.toNat + oldMgr.toNat * 2 ^ 32))
    (onDev (takeoverIn (epoch.toNat / 4096) pos.toNat oldMgr.toNat k.toNat seq.toNat)) s)

/-- DONE (R253): the manager notes a completed restore and its H_D. -/
def doneIn (src k h : Nat) (d : Dev) : Dev :=
  if isMgr d && ((d.rs.recovering && k == d.rs.rollK) || (d.vs.rplWait && k == d.vs.rplK)) then
    { d with rs := { d.rs with dones := src :: d.rs.dones.filter (· != src), hd := if (liveHolders d).contains src then some ((d.rs.hd.map (later h)).getD h) else d.rs.hd } }
  else d

/-- DONE. -/
def execDone (rx : Rx) (epoch : BitVec 16) (pos : BitVec 10) (bound h : DWord) (s : State) : Host.Outcome State Fault Refusal :=
  .next (sysctlIn 11 rx epoch pos.toNat bound.toNat h.toNat (onDev (doneIn rx.src.toNat bound.toNat h.toNat)) s)

/-- APPOINT (R21, R22): the worker named becomes the deputy; the result that follows brings no second event. -/
def appointIn (pos : Nat) (d : Dev) : Dev :=
  if pos == myPos d && role d == 0 then
    let d := setDeputy pos true (setF d SYS_ROLE_ROLE 2)
    roleChanged pos 2 0 (noteTopo pos 2 (getF d SYS_ROLE_CFG_ROLE) (if holds d then myPart d + 1 else 0) d)
  else d

/-- APPOINT. -/
def execAppoint (rx : Rx) (epoch : BitVec 16) (pos : BitVec 10) (s : State) : Host.Outcome State Fault Refusal :=
  .next (sysctlIn 12 rx epoch pos.toNat 0 0 (onDev (appointIn pos.toNat)) s)

/-- PROBE (R270, R271): at the manager a PROBE of an unreachable party begins the census of reunion, one of a LOST position is
answered with LOST under the GENERATION it carries; another device sends the PROBE on to the manager. -/
def probeIn (rx : Rx) (pos body gen : Nat) (d : Dev) : Dev :=
  if !isMgr d then
    (if d.md.stranded then d else route (mgrPos d) (passFlit rx 0x12 15 body (mgrPos d) true none) d)
  else if isLost d pos then sendPos 0x12 3 pos (at8 8 (gen * 4096) + at8 10 pos) d
  else if getF d (bitFld (RES_UNREACH0 + 4 * (pos / 16 / 32)) (pos / 16 % 32)) == 1 && d.rs.census.isNone then
    broadcast 0x12 6 (sysctl d (myPos d) 0 0) { d with rs := { d.rs with census := some ⟨3, []⟩ } }
  else d

/-- PROBE. -/
def execProbe (rx : Rx) (epoch : BitVec 16) (pos : BitVec 10) (count : DWord) (mapEpoch : BitVec 16) (s : State) :
    Host.Outcome State Fault Refusal :=
  let body := at8 8 epoch.toNat + at8 10 pos.toNat + at8 12 count.toNat + at8 20 mapEpoch.toNat
  .next (receive 0x12 15 rx body (onDev (probeIn rx pos.toNat body (mapEpoch.toNat / 4096))) s)

/-- PROBE_PERIOD (R270). -/
def probe (d : Dev) : Dev :=
  if !d.md.stranded then d
  else each (upRopes d) (fun k d =>
    let peer := getF d (LINK_RP_STAT_PEER k)
    sendOn k (mkFlit d 0x12 15 peer true (sysctl d (myPos d) (trvCount d) (getF d RES_STATUS_EPOCH))) d) d

/-- PROBE_PERIOD. -/
def execProbePeriod (s : State) : Host.Outcome State Fault Refusal := .next (whenGranted (onDev probe) s)

/-- MANAGER_TIMEOUT (R263): without BEAT or TAKEOVER a device that runs holds. -/
def managerSilent (d : Dev) : Dev :=
  if isMgr d || !(mode d == 3 || mode d == 5 || mode d == 6) || flag d TRV_STATUS_HOLD then d
  else setFlag { d with rs := { d.rs with mgrHold := true } } TRV_STATUS_HOLD true

/-- MANAGER_TIMEOUT. -/
def execManagerTimeout (s : State) : Host.Outcome State Fault Refusal := .next (whenGranted (onDev managerSilent) s)

/-- STRAND (R28, R263): no BEAT for twice MGR_TMO. -/
def execStrand (s : State) : Host.Outcome State Fault Refusal :=
  .next (whenGranted (fun s => settle (onDev (fun d => if isMgr d then d else strandNow d) s)) s)

/-- The number of parties this device's side can reach over usable links (R226). -/
def sideParties (d : Dev) : Nat :=
  let l := distances d (myParty d) 12
  ((List.range (parties d)).filter fun p => decide (l.getD p 64 < 64) &&
    getF d (bitFld (RES_UNREACH0 + 4 * (p / 32)) (p % 32)) == 0).length

/-- STRAND_TIMEOUT (R28, R270): a stranded device, and the manager of a split side, record source 0x21 as C4, with the number of parties
their side can reach (R226). -/
def strandEnds (d : Dev) : Dev :=
  if d.md.stranded || flag d RES_STATUS_SPLIT then raiseWith 0x21 (sideParties d + 2 ^ 31) (trvCount d) false true true d else d

/-- STRAND_TIMEOUT. -/
def execStrandTimeout (s : State) : Host.Outcome State Fault Refusal :=
  .next (whenGranted (fun s => settle (onDev strandEnds s)) s)

end Sys2Proof.Machine
end

