-- ==== Sys2Proof/Machine/Host.lean ====
section
/-! DEFINITION. Commands as operations: acceptance, privileges, relays, transfers, loading (R277-R295, R310, R311). -/

namespace Sys2Proof.Machine

/-- The opcodes of R283. -/
def opcodes : List Nat :=
  [0x01, 0x02, 0x03, 0x04, 0x10, 0x11, 0x12, 0x13, 0x20, 0x21, 0x22, 0x23, 0x24, 0x25, 0x30, 0x31, 0x32, 0x33, 0x34, 0x40]

/-- The mode commands (R284). -/
def modeCommand (op : Nat) : Bool := [0x10, 0x12, 0x13, 0x20, 0x21, 0x22, 0x23, 0x24, 0x25].contains op

/-- The privileges an opcode needs (R292): LOAD, LOAD_ABORT and UNLOAD stand under two bits and need both. -/
def privileges (op : Nat) : List Nat :=
  (if modeCommand op || op == 0x04 then [0] else []) ++ (if op == 0x03 || op == 0x31 || op == 0x33 then [1] else []) ++
    (if op == 0x10 || op == 0x11 || op == 0x12 || op == 0x13 then [2] else [])

/-- The bits P0-P13 may use (R283). -/
def paramMasks (op : Nat) : List Nat :=
  let all := 2 ^ 32 - 1
  let h := all - 3
  if op == 0x01 then [2 ^ 17 - 1] else if op == 0x02 then [2 ^ 24 - 1, 3] else if op == 0x03 then [2 ^ 24 - 1, all]
  else if op == 0x10 then [1] else if op == 0x11 then [h, all, all, 255, 1023]
  else if op == 0x20 then [all, 65535] else if op == 0x21 then [65535]
  else if op == 0x24 then [all, all, all, all, all, 3]
  else if op == 0x30 || op == 0x31 then [h, all, all, 255, all - 7, 31]
  else if op == 0x32 || op == 0x33 then [h, all, all, 255, 7, all]
  else if op == 0x34 then [h, all, all, 255, 1, all, all]
  else if op == 0x40 then [2 ^ 31 + 8191, all, all]
  else []

/-- Whether a number uses no bit outside a mask. -/
def within (v m : Nat) : Bool := v &&& m == v

/-- The length of a transfer (R283). -/
def lengthOf (c : List Word) : Nat := param c 2 + param c 3 % 256 * 2 ^ 32

/-- The host address of a transfer. -/
def hostAddr (c : List Word) : Nat := param2 c 0

/-- Bytes of an item of a fabric space (R283). -/
def itemBytes (space : Nat) : Nat := if space == 2 then 128 else if space == 4 then 10 else 8

/-- Items of a fabric space. -/
def itemCount (space : Nat) : Nat := if space == 3 then 2 ^ 21 else if space == 4 then 2 ^ 27 else 2 ^ 17

/-- Partitions whose LOAD_PART is accepted or in progress at this device (R287, R295). -/
def loadingParts (d : Dev) : List Nat :=
  d.hs.accepted ++ ((allCmds d).filter fun c => opcodeOf c.desc == 0x11).map fun c => param c.desc 4 % 1024

/-- Check 5 of R284: the parameters and reserved fields. -/
def paramsOk (d : Dev) (c : List Word) : Bool :=
  let op := opcodeOf c
  let ms := paramMasks op
  let relay := bitOf (descWord c 1) 10
  bitsOf (descWord c 0) 15 10 == 0 && bitsOf (descWord c 1) 31 11 == 0 &&
  ((List.range 14).all fun i => within (param c i) (ms.getD i 0)) &&
  !(relay && (modeCommand op || op == 0x04 || !isMgr d)) &&
  (if op == 0x21 then param c 0 != 0
   else if op == 0x30 || op == 0x31 then lengthOf c % 8 == 0
   else if op == 0x32 || op == 0x33 then
     decide (param c 4 ≤ 4) && (op == 0x32 || param c 4 == 0 || param c 4 == 3) && lengthOf c % itemBytes (param c 4) == 0
   else if op == 0x11 then (pmap d (param c 4)).isSome && !(loadingParts d).contains (param c 4)
   else true)

/-- Check 3 of R284: the role matches the Where column. -/
def whereOk (d : Dev) (c : List Word) : Bool :=
  let op := opcodeOf c
  if op == 0x01 then true
  else if role d == 2 then false
  else if op == 0x11 then isMgr d || (holds d && myPart d == param c 4)
  else if modeCommand op then isMgr d
  else true

/-- Whether a FREEZE in a transition is one that R27 keeps: into RUN, into RECOVER, or the entry into FREEZE from RUN. -/
def freezeKept (d : Dev) : Bool :=
  match d.md.trans with
  | some t => t.goal == 3 || t.goal == 6 || (t.goal == 4 && mode d == 3)
  | none => true

/-- Check 7 of R284: the modes of R283. -/
def modeOk (d : Dev) (op : Nat) : Bool :=
  let m := mode d
  if d.md.stranded then op == 0x01 || op == 0x02
  else if op == 0x04 then m == 3
  else if op == 0x10 then m == 1 || m == 4
  else if op == 0x11 || op == 0x12 then m == 2
  else if op == 0x13 || op == 0x20 || op == 0x21 || op == 0x24 || op == 0x31 || op == 0x33 then m == 4
  else if op == 0x22 then m == 3 || m == 6 || m == 4
  else if op == 0x23 then m == 7
  else if op == 0x25 then m == 5
  else if op == 0x30 || op == 0x34 then m != 0
  else if op == 0x32 then m == 2 || m == 4 || m == 5 || m == 7
  else if op == 0x40 then m == 4 || m == 3 || m == 6 || m == 5
  else true

/-- Check 8 of R284: the readiness bits of R283, and no split for a mode command. -/
def needsOk (d : Dev) (op : Nat) : Bool :=
  let needs : List Fld :=
    if op == 0x10 then [SYS_READY_CFG, SYS_READY_HBM, SYS_READY_LINK, SYS_READY_TOPO]
    else if op == 0x11 then [SYS_READY_HBM, SYS_READY_LINK]
    else if op == 0x20 || op == 0x21 then [SYS_READY_TSYNC, SYS_READY_CKP]
    else if op == 0x23 then [SYS_READY_CKP, SYS_READY_TOPO]
    else if op == 0x24 then [SYS_READY_VIS, SYS_READY_CKP]
    else if op == 0x30 || op == 0x31 then [SYS_READY_HBM]
    else if op == 0x32 || op == 0x33 then [SYS_READY_FABRIC]
    else if op == 0x34 then [SYS_READY_VIS]
    else if op == 0x40 then [SYS_READY_QUE]
    else []
  needs.all (flag d) && !(modeCommand op && flag d RES_STATUS_SPLIT)

/-- Check 3 for a command that the manager's relay brings (R283, R287): a LOAD_PART is for the holder, a deputy too
(DEDUCED, assumptions row 37). -/
def relayWhereOk (d : Dev) (c : List Word) : Bool :=
  whereOk d c || (opcodeOf c == 0x11 && holds d && myPart d == param c 4)

/-- Checks 6 to 8 of R284, in order; 0 when all pass. -/
def laterChecks (d : Dev) (c : List Word) : Nat :=
  let op := opcodeOf c
  if modeCommand op && flag d SYS_MODE_TRANSIT && !(op == 0x22 && freezeKept d) then 3
  else if !modeOk d op then 2
  else if !needsOk d op then 1
  else 0

/-- Checks 3 and 6 to 8 of R284, in order; 0 when all pass. -/
def ownChecks (d : Dev) (c : List Word) : Nat := if !whereOk d c then 7 else laterChecks d c

/-- A free relay tag. -/
def freeTag (d : Dev) : Option Nat := (List.range 256).find? fun r => !(d.hs.relays.any fun x => x.rtag == r)

/-- Allocate a relay and send the descriptor to its target (R285, R286). -/
def startRelay (p tag rt target : Nat) (c : List Word) (d : Dev) : Dev :=
  let r : Relay := ⟨rt, p, tag, target, opcodeOf c, none, none, 0, [], true⟩
  sendCmd target rt c (syncRelay { d with hs := { d.hs with relays := d.hs.relays ++ [r] } })

/-- Whether a command is forwarded to another device's executor: RELAY = 1 with a target other than this device. -/
def forwards (d : Dev) (c : List Word) : Bool := bitOf (descWord c 1) 10 && isMgr d && descWord c 1 % 1024 != myPos d

/-- The status acceptance ends with (R284, R285); 0 when the command is accepted. -/
def acceptStatus (d : Dev) (p : Nat) (c : List Word) : Nat :=
  let op := opcodeOf c
  let tag := descWord c 0 / 65536
  let priv := getF d (HOST_PP_CTRL_PRIV p)
  if !opcodes.contains op then 5
  else if tag == 0xFFFF then 4
  else if (portOf d p).active.any fun x => descWord x.desc 0 / 65536 == tag then 6
  else if !forwards d c && !whereOk d c then 7
  else if !(privileges op).all fun b => bitOf priv b then 8
  else if !paramsOk d c then 4
  else if forwards d c then
    if unreachable d (descWord c 1 % 1024) then 13 else if (freeTag d).isNone || 64 ≤ (portOf d p).active.length then 9 else 0
  else
    let own := ownChecks d c
    if own != 0 then own else if 64 ≤ (portOf d p).active.length then 9 else 0

/-- A port accepts a descriptor, or ends it with the first check's status (R280, R284). -/
def accept (p : Nat) (c : List Word) (d : Dev) : Dev :=
  let tag := descWord c 0 / 65536
  let st := acceptStatus d p c
  if st != 0 then putRecord p false (bitOf (descWord c 0) 8) (mkRecord d tag st true false (opcodeOf c) 0 []) d
  else
    let x := portOf d p
    let act := x.active ++ [⟨.host (BitVec.ofNat 2 p) (BitVec.ofNat 16 tag), c, 0, 0, 0⟩]
    let d := setF (setPort d p { x with active := act }) (HOST_PP_ACTIVE_COUNT p) act.length
    if forwards d c then
      match freeTag d with
      | some rt => startRelay p tag rt (descWord c 1 % 1024) c d
      | none => d
    else d

/-- Whether a port fetches no new command: its ring or FIFO is full (R282). -/
def portBusy (d : Dev) (p : Nat) : Bool := recordsFull d p || !(portOf d p).waiting.isEmpty

/-- The command of a reference, when it is for the opcode given and this device's executor runs it. -/
def cmdFor (d : Dev) (r : CmdRef) (op : Nat) : Option Cmd :=
  match findCmd d r with
  | some c => if opcodeOf c.desc == op && (match r with
      | .host _ _ => !forwards d c.desc
      | .relay _ _ => true) then some c else none
  | none => none

/-- Run a command's effect when the executor has it. -/
def runCmd (r : CmdRef) (op : Nat) (f : Cmd → State → State) (s : State) : State :=
  match cmdFor s.dev r op with
  | some c => settle (f c s)
  | none => s

/-- Data of a transfer leaves: to host memory, or toward the manager in BULK or TRACE flits (R209, R286). `at_` is the byte
offset in the requested range. -/
def deliver (r : CmdRef) (c : Cmd) (at_ : Nat) (bs : List Byte) (d : Dev) : Dev :=
  match r with
  | .host p _ => emit (.hostWrite p.toNat (hostAddr c.desc + at_) bs) d
  | .relay pos rt =>
    let trace := opcodeOf c.desc == 0x34
    let ty := if trace then 0x31 else 0x32
    let kind := if trace then param c.desc 4 else 0
    each (chunksOf 24 bs).zipIdx (fun x d =>
      sendPos ty (kind + 4 * rt.toNat) pos.toNat (at8 8 (at_ / 24 + x.2) + at8 12 (natOf x.1)) d) d

/-- The END of relayed data (R209, R286). -/
def deliverEnd (r : CmdRef) (c : Cmd) (bytes status : Nat) (d : Dev) : Dev :=
  match r with
  | .host _ _ => d
  | .relay pos rt =>
    if opcodeOf c.desc == 0x34 then
      sendPos 0x31 (2 + 4 * rt.toNat) pos.toNat (at8 8 ((bytes + 23) / 24) + at8 12 status) d
    else sendPos 0x32 (1 + 4 * rt.toNat) pos.toNat (at8 8 ((bytes + 23) / 24)) d

/-- The bytes of a slice (R288): at most 64 KiB; toward a relay a whole number of flits. -/
def sliceBytes (r : CmdRef) (item left : Nat) : Nat :=
  let unit := match r with
    | .host _ _ => item
    | .relay _ _ => 24 * item
  min left (65536 / unit * unit)

/-- The outcome of one slice of a read: the bytes read, and whether an uncorrectable word stopped it. -/
structure Slice where
  bytes : List Byte
  stopped : Bool
  waits : Bool
deriving DecidableEq, Repr

/-- A slice of a read has been taken (R283, R288, R289): its bytes leave, and the command ends when all have, or with
TRANSFER_FAULT. A slice that waits for a rebuild comes again. -/
def readSlice (r : CmdRef) (c : Cmd) (total : Nat) (x : Slice) (d : Dev) : Dev :=
  if x.waits then d
  else
    let done := c.bytes + x.bytes.length
    let d := deliver r c c.bytes x.bytes d
    if x.stopped then endCmd r 14 [] done (deliverEnd r c done 0 d)
    else if total ≤ done then endCmd r 0 [] done (deliverEnd r c done 0 d)
    else onCmd r (fun c => { c with bytes := done, moved := c.moved + 1 }) d

/-- A range beyond the space, or a length of 0, ends with RANGE (R283). -/
def rangeEnd (r : CmdRef) (c : Cmd) (d : Dev) : Dev :=
  let d := match r with
    | .relay _ _ => if opcodeOf c.desc == 0x34 then deliverEnd r c 0 1 d else d
    | .host _ _ => d
  endCmd r 16 [] c.bytes d

/-- A slice of HBM from an address. -/
def hbmSlice (a n : Nat) (s : State) : Slice × State :=
  match hbmRead a n s with
  | (.data bs, s) => (⟨bs, false, false⟩, s)
  | (.wait, s) => (⟨[], false, true⟩, s)
  | (.fault f, s) => (⟨hbmBytes s.mem a (f - a), true, false⟩, s)

/-- MEM_READ: the next slice. -/
def memReadSlice (r : CmdRef) (c : Cmd) (s : State) : State :=
  let len := lengthOf c.desc
  let a := param2 c.desc 4 % 2 ^ 37
  if len == 0 || hbmSize < a + len then onDev (rangeEnd r c) s
  else
    let (x, s) := hbmSlice (a + c.bytes) (sliceBytes r 1 (len - c.bytes)) s
    onDev (readSlice r c len x) s

/-- TRACE_READ: the next slice of the trace ring or the replay buffer. -/
def traceReadSlice (r : CmdRef) (c : Cmd) (s : State) : State :=
  let d := s.dev
  let len := lengthOf c.desc
  let off := param2 c.desc 5
  let replay := param c.desc 4 == 1
  let base := if replay then get2 d VIS_RPL_BASE_LO else get2 d VIS_TRACE_BASE_LO
  let size := if replay then getF d VIS_RPL_AREA_SIZE_GIB * 2 ^ 30 - 2 ^ 24 else getF d VIS_TRACE_AREA_SIZE_GIB * 2 ^ 30
  if len == 0 || size < off + len then onDev (rangeEnd r c) s
  else
    let (x, s) := hbmSlice (base + off + c.bytes) (sliceBytes r 1 (len - c.bytes)) s
    onDev (readSlice r c len x) s

/-- One item of a fabric space as bytes, with the errors its read finds (R283): none where a word is uncorrectable. -/
def fabricItem (space i : Nat) (d : Dev) : Option (List Byte) × Dev :=
  let word := fun (esp : Nat) (st : Store DWord) (d : Dev) =>
    let (bad, d) := readFabric esp i (trvCount d) d
    (if bad then none else some (bytesOf 8 (sget zero64 st i).toNat), d)
  if space == 0 then word 2 d.fab.q d
  else if space == 1 then word 3 d.fab.dq d
  else if space == 3 then word 5 d.fab.tram d
  else if space == 2 then
    (List.range 16).foldl (fun r g =>
      let (bad, d) := readFabric 1 (16 * i + g) (trvCount r.2) r.2
      (match r.1 with
       | some bs => if bad then none else some (bs ++ bytesOf 8 (sget zero64 d.fab.lds (16 * i + g)).toNat)
       | none => none, d)) (some [], d)
  else if travN d ≤ i % 1024 then (some (0x07#8 :: List.replicate 9 0#8), d)
  else
    let n := popcount (eccMask d (eccKey 0 i))
    let d := if n == 0 then d else if n == 1 then (readFabric 0 i (trvCount d) d).2 else stepWordFault i (trvCount d) false d
    (if 2 ≤ n then none else some (bytesOf 10 (sget idleWord d.fab.step i).toNat), d)

/-- Items from `i` on, at most `n`, up to an uncorrectable one. -/
def fabricItems (space : Nat) : Nat → Nat → Dev → List Byte × Bool × Dev
  | 0, _, d => ([], false, d)
  | n + 1, i, d =>
    match fabricItem space i d with
    | (none, d) => ([], true, d)
    | (some bs, d) =>
      let (r, stop, d) := fabricItems space n (i + 1) d
      (bs ++ r, stop, d)

/-- Whether a fabric range stands in its space. -/
def fabricRange (c : List Word) : Bool :=
  let sp := param c 4
  lengthOf c != 0 && decide (param c 5 + lengthOf c / itemBytes sp ≤ itemCount sp)

/-- FABRIC_READ: the next slice. A step word that the spare gives back is waited for (R62). -/
def fabricReadSlice (r : CmdRef) (c : Cmd) (d : Dev) : Dev :=
  let sp := param c.desc 4
  let len := lengthOf c.desc
  if !fabricRange c.desc then rangeEnd r c d
  else
    let ib := itemBytes sp
    let n := sliceBytes r ib (len - c.bytes) / ib
    let (bs, stop, d) := fabricItems sp n (param c.desc 5 + c.bytes / ib) d
    readSlice r c len ⟨bs, stop, stop && sp == 4 && hasSpare d && (mode d == 2 || mode d == 4 || mode d == 5)⟩ d

/-- The BULK data of a stream toward this device, once END and every flit are in (R286). -/
def bulkWhole (d : Dev) (src rt : Nat) : Option (List Byte) :=
  match d.hs.bulkEnds.find? fun e => e.1 == src && e.2.1 == rt with
  | none => none
  | some e =>
    let parts := (List.range e.2.2).map fun i => d.hs.bulk.find? fun x => x.1 == src && x.2.1 == rt && x.2.2.1 == i
    if parts.all (·.isSome) then some (parts.flatMap fun x => match x with
      | some y => bytesOf 24 y.2.2.2.toNat
      | none => []) else none

/-- Drop a stream. -/
def dropBulk (src rt : Nat) (d : Dev) : Dev :=
  { d with hs := { d.hs with bulk := d.hs.bulk.filter fun x => !(x.1 == src && x.2.1 == rt)
                             bulkEnds := d.hs.bulkEnds.filter fun x => !(x.1 == src && x.2.1 == rt) } }

/-- The bytes of a write's next slice at the device that executes it: what the host gave, or what the manager forwarded, all of
it at once (R286). -/
def writeData (r : CmdRef) (c : Cmd) (given : List Byte) (d : Dev) : Option (List Byte) :=
  match r with
  | .host _ _ => if given.length == min 65536 (lengthOf c.desc - c.bytes) then some given else none
  | .relay pos rt => (bulkWhole d pos.toNat rt.toNat).map fun b => b.take (lengthOf c.desc)

/-- A host bus error ends a transfer (R279, R289). Which error it is the port's link layer knows: free. -/
def busFails (r : CmdRef) (d : Dev) : Dev :=
  match r, findCmd d r with
  | .host p _, some c =>
    let k := 1 + Config.freeChoice d.free % 3
    let d := countF (setF { d with free := d.free + 1 } (HOST_PP_BUSERR_LAST p.toNat) k) (HOST_PP_BUSERR_COUNT p.toNat) 1
    endCmd r 14 [] c.bytes d
  | _, _ => d

/-- A slice of a write has been applied. -/
def writeSlice (r : CmdRef) (c : Cmd) (n : Nat) (d : Dev) : Dev :=
  let done := c.bytes + n
  let d := match r with
    | .relay pos rt => dropBulk pos.toNat rt.toNat d
    | .host _ _ => d
  if lengthOf c.desc ≤ done then endCmd r 0 [] done d else onCmd r (fun c => { c with bytes := done, moved := c.moved + 1 }) d

/-- The manager forwards the host's data of a relayed write, with END after the last slice (R286). -/
def forwardData (r : CmdRef) (c : Cmd) (given : List Byte) (d : Dev) : Dev :=
  let left := lengthOf c.desc - c.bytes
  match r with
  | .relay _ _ => d
  | .host p t =>
    match d.hs.relays.find? fun x => x.live && x.port == p.toNat && x.tag == t.toNat with
    | none => d
    | some x =>
      if left == 0 || given.length != min 65520 left then d
      else
        let first := c.bytes / 24
        let d := each (chunksOf 24 given).zipIdx (fun y d =>
          sendPos 0x32 (2 + 4 * x.rtag) x.target (at8 8 (first + y.2) + at8 12 (natOf y.1)) d) d
        let done := c.bytes + given.length
        let d := onCmd r (fun c => { c with bytes := done, moved := c.moved + 1 }) d
        if done == lengthOf c.desc then sendPos 0x32 (1 + 4 * x.rtag) x.target (at8 8 ((done + 23) / 24)) d else d

/-- A write command: at the manager of a relayed one its data goes on; else it acts here. -/
def runWrite (r : CmdRef) (op : Nat) (given : List Byte) (busError : Bool) (f : Cmd → List Byte → State → State) (s : State) :
    State :=
  match findCmd s.dev r with
  | none => s
  | some c =>
    if opcodeOf c.desc != op then s
    else
      let relayRef := match r with
        | .relay _ _ => true
        | .host _ _ => false
      if busError && !relayRef then settle (onDev (busFails r) s)
      else if !relayRef && forwards s.dev c.desc then settle (onDev (forwardData r c given) s)
      else match writeData r c given s.dev with
        | some bs => settle (f c bs s)
        | none => s

/-- MEM_WRITE: a slice goes into HBM (R149). -/
def memWriteSlice (r : CmdRef) (c : Cmd) (bs : List Byte) (s : State) : State :=
  let len := lengthOf c.desc
  let a := param2 c.desc 4 % 2 ^ 37
  if len == 0 || hbmSize < a + len then onDev (rangeEnd r c) s
  else onDev (writeSlice r c bs.length) (hbmWrite (a + c.bytes) bs s)

/-- FABRIC_WRITE of one item (R283): state words set Q and D alike; a tile-RAM block is saved first where a checkpoint needs
it, and a save that meets an uncorrectable word stops the write (R61, R157). -/
def writeItem (space i : Nat) (v : DWord) (d : Dev) : Dev :=
  let d := setFlag d CKP_STATUS_EDITED true
  if space == 0 then
    eccClear (eccKey 2 i) (eccClear (eccKey 3 i)
      { d with fab := { d.fab with q := sset zero64 d.fab.q i v, dq := sset zero64 d.fab.dq i v } })
  else
    let saving := !blockSaved (i / 32) (trvCount d) d
    let (bad, d) := if saving then checkBlock (i / 32) (trvCount d) d else (false, d)
    if bad then d
    else
      let d := if saving then saveBlock (i / 32) (trvCount d) d else d
      eccClear (eccKey 5 i) { d with fab := { d.fab with
        tram := sset zero64 d.fab.tram i v, dirty := sset noBit d.fab.dirty (i / 32) true } }

/-- FABRIC_WRITE: a slice. -/
def fabricWriteSlice (r : CmdRef) (c : Cmd) (bs : List Byte) (d : Dev) : Dev :=
  let sp := param c.desc 4
  if !fabricRange c.desc then rangeEnd r c d
  else
    let first := param c.desc 5 + c.bytes / 8
    writeSlice r c bs.length (each (dwordsOf bs).zipIdx (fun w d => writeItem sp (first + w.2) w.1 d) d)

/-- A container without its USER section (R311): the header counts and checks what is left. -/
def stripUser (c : List Byte) : List Byte :=
  match knimSections (u16 c 6) ((c.take (u64 c 8)).drop 64) with
  | none => c
  | some ss =>
    if !(ss.any fun x => x.ty == 10) then c.take (u64 c 8)
    else
      let keep := ss.filter fun x => x.ty != 10
      let body := keep.flatMap fun x =>
        bytesOf 4 x.ty ++ bytesOf 4 x.tag ++ bytesOf 8 x.body.length ++ x.body ++
          List.replicate (ceilTo 16 x.body.length - x.body.length) 0#8
      let h := c.take 6 ++ bytesOf 2 keep.length ++ bytesOf 8 (64 + body.length) ++ (c.drop 16).take 44
      h ++ bytesOf 4 (crc32 h) ++ body

/-- An accepted image enters the device (R58, R134, R152, R249, R310): tables, queues, initial state, tile RAM and region, with a
delta for every nonzero region word, and the copy for the party's spare. -/
def loadImage (im : Img) (c : List Byte) (s : State) : State :=
  let s := bindQueues im (onDev (fun d => layArea (loadTables im d)) s)
  let s := each im.region (fun r s => putMem (8 * r.1) (r.2.flatMap fun w => bytesOf 8 w.toNat) s)
    (clearMem 0 (im.size * 2 ^ 30) s)
  let st := im.state.foldl (fun st e => sset zero64 st e.1 e.2) ([] : Store DWord)
  let tr := im.tram.foldl (fun st e => sputs zero64 st e.1 e.2) ([] : Store DWord)
  let dirty := tr.foldl (fun st e => sset noBit st (e.1 / 32) true) ([] : Store Bool)
  let d := s.dev
  let d := { d with fab := { d.fab with q := st, dq := st, tram := tr, dirty := dirty, slots := [], sends := [] }
                    tv := { d.tv with targets := (targetSet im).filter (· != im.part) }
                    hs := { d.hs with imageHeld := true, image := stripUser c, copied := false }
                    pw := { d.pw with held := true } }
  let d := setFlag (setCounts 0 (eccClearRange (eccKey 1 0) (5 * 2 ^ 40) d)) SYS_READY_FABRIC true
  let d := eccClearRange (eccKey 6 0) (im.size * 2 ^ 27) d
  let seq := nextSeq d.ck.lastSeq
  let d := each im.region (fun r d => each r.2.zipIdx (fun w d => queueDelta seq (8 * (r.1 + w.2)) w.1 d) d) d
  let d := match streamSpare d with
    | some sp => streamImage sp d
    | none => d
  { s with dev := d }

/-- The result of a check the manager makes before it forwards a container (R287, R310 checks 1 to 4): N and BUILD_ID against
its own partition's. -/
def mgrRefusal (d : Dev) (c : List Byte) (part : Nat) : Option Nat :=
  let header := 64 ≤ c.length && u32 c 0 == 0x4D494E4B && u8 c 5 == 1 && crc32 (c.take 60) == u32 c 60 && u16 c 16 == part
  let n := u16 c 18
  if !header || n < 16 || 1024 < n || n % 16 != 0 then none
  else if n != d.hs.loadN then some 10
  else if u64 c 24 != d.hs.loadBuild then some 21
  else none

/-- A LOAD_PART is refused (R64, R287): it ends with the reason; at the manager the LOAD ends with the same RESULT and the
system returns to STANDBY; a holder on its own port tells the manager. -/
def refusePart (r : CmdRef) (result : List Nat) (d : Dev) : Dev :=
  let d := setFlag (endCmd r 10 result 0 d) SYS_READY_FABRIC false
  if isMgr d then abortLoad 10 result d
  else match r with
    | .host _ _ =>
      let w4 := result.getD 0 0
      sendMgr 0x12 4 (sysctl d (myPos d) (w4 % 256 * 2 ^ 8 + w4 / 2 ^ 16 % 2 ^ 16 * 2 ^ 16 + result.getD 1 0 * 2 ^ 32) 0) d
    | .relay _ _ => d

/-- Note the relayed bindings of an accepted container (R198): OWNER 40-43 on partitions other than the manager's. -/
def relayBinds (im : Img) (d : Dev) : List (Nat × Nat × Nat) :=
  if im.part == myPart d && holds d then []
  else (im.queues.filter fun q => relayed { desc0 0 with owner := bitsOf q.2 17 12 }).map fun q => (im.part, q.1, q.2)

/-- The manager accepts a partition (R287): its relayed bindings pass the limit of R186, or it is accepted. -/
def acceptPart (r : CmdRef) (part bytes : Nat) (c : List Byte) (d : Dev) : Dev :=
  let new := match imageOf c with
    | some im => relayBinds im d
    | none => []
  if 8192 < d.hs.relayQs.length + new.length then refusePart r (refusal part 18 1 0 0 0 0) d
  else
    endCmd r 0 [] bytes { d with hs := { d.hs with accepted := d.hs.accepted ++ [part], relayQs := d.hs.relayQs ++ new } }

/-- Whether the party's spare holds what LOAD sends it (R152, R249, R311): it has confirmed its copy of the container, and every delta of
the initial region has been sent to it and acknowledged, on which it applies them (DESIGN CHOICE, rows 40 and 108). -/
def copyStored (d : Dev) : Bool :=
  match streamSpare d with
  | none => true
  | some sp =>
    let mine := fun f : Flit => f.ty == 0x29 && f.src == myPos d && f.dkind && f.dest == sp
    d.hs.copied && d.par.queue.isEmpty && !(d.lk.waitq.any mine) &&
      (List.range 18).all fun k => !((ropeOf d k).outq.any mine) && !((ropeOf d k).replay.any mine)

/-- A loaded partition's LOAD_PART ends OK (R287, R311): the manager accepts it; a holder's own port tells the manager. -/
def partEnds (r : CmdRef) (part bytes : Nat) (d : Dev) : Dev :=
  if isMgr d then acceptPart r part bytes d.hs.image d
  else match r with
    | .host _ _ => sendMgr 0x12 4 (sysctl d (myPos d) 0 0) (endCmd r 0 [] bytes d)
    | .relay pos rt => endCmd r 0 [] bytes (dropBulk pos.toNat rt.toNat d)

/-- LOAD_PART at the holder: the whole container is checked and loaded (R310). -/
def loadHere (r : CmdRef) (part : Nat) (c : List Byte) (s : State) : State :=
  let d := s.dev
  match checkImage d c part d.hs.noCheck none none d.hs.relayQs.length (if isMgr d then myPart d else 1024) with
  | .error result => onDev (refusePart r result) s
  | .ok im =>
    let s := loadImage im c s
    onDev (fun d =>
      let d := if isMgr d then { d with hs := { d.hs with loadN := im.n, loadBuild := im.build } } else d
      let d := onCmd r (fun x => { x with bytes := u64 c 8, moved := 1 }) d
      if copyStored d then partEnds r part (u64 c 8) d else d) s

/-- A container goes to its holder over a relay in BULK flits, with END (R286). -/
def sendContainer (rt pos : Nat) (c : List Byte) (d : Dev) : Dev :=
  let c := c.take (max 64 (u64 c 8))
  let d := { d with hs := { d.hs with relays := d.hs.relays.map fun x => if x.rtag == rt then { x with data := c } else x } }
  let parts := chunksOf 24 c
  let d := each parts.zipIdx (fun y d => sendPos 0x32 (2 + 4 * rt) pos (at8 8 y.2 + at8 12 (natOf y.1)) d) d
  sendPos 0x32 (1 + 4 * rt) pos (at8 8 parts.length) d

/-- LOAD_PART at the manager for another holder (R287 step 2): descriptor and container go to it over the relay. -/
def loadThere (r : CmdRef) (desc : List Word) (part : Nat) (c : List Byte) (d : Dev) : Dev :=
  if d.hs.loadN == 0 then d
  else match mgrRefusal d c part with
    | some code => refusePart r (refusal part code 1 0 0 0 0) d
    | none =>
      match r, pmap d part with
      | .host p t, some pos =>
        match d.hs.relays.find? fun x => x.live && x.port == p.toNat && x.tag == t.toNat with
        | some x => if x.data.isEmpty then sendContainer x.rtag x.target c d else d
        | none =>
          match freeTag d with
          | some rt => sendContainer rt pos c (startRelay p.toNat t.toNat rt pos desc d)
          | none => endCmd r 9 [] 0 d
      | _, _ => d

/-- LOAD_PART (R287). -/
def loadPart (r : CmdRef) (image : List Byte) (busError : Bool) (s : State) : State :=
  match findCmd s.dev r with
  | none => s
  | some c =>
    if opcodeOf c.desc != 0x11 || mode s.dev != 2 then s
    else
      let part := param c.desc 4
      if c.moved != 0 then onDev (fun d => if copyStored d then partEnds r part c.bytes d else d) s
      else match r with
      | .host _ _ =>
        if busError then onDev (busFails r) s
        else
          let image := image.take (lengthOf c.desc)
          if holds s.dev && myPart s.dev == part then loadHere r part image s
          else if isMgr s.dev then onDev (loadThere r c.desc part image) s
          else s
      | .relay pos rt =>
        match bulkWhole s.dev pos.toNat rt.toNat with
        | some b => loadHere r part (b.take (lengthOf c.desc)) s
        | none => s

end Sys2Proof.Machine
end

