-- ==== Sys2Proof/Machine/HostRows.lean ====
section
/-! DEFINITION. The commands of partner ports and the command interface (R209, R273-R295). -/

namespace Sys2Proof.Machine

/-- The port takes what was submitted to it, in order of GO and doorbell writes, while it has room for records (R280-R282). -/
def takeIn (p : Nat) : Nat → Dev → Dev
  | 0, d => d
  | n + 1, d =>
    match (portOf d p).inq with
    | [] => d
    | (ring, c) :: rest =>
      if portBusy d p || flag d DBG_HALT_HALTED then d
      else
        let d := setPort d p { portOf d p with inq := rest }
        let sz := ringSize (getF d (HOST_PP_SQ_CFG_SIZE_LOG2 p))
        if ring && sz == 0 then takeIn p n d
        else
          let d := if ring then setF d (HOST_PP_SQ_HEAD_INDEX p) ((getF d (HOST_PP_SQ_HEAD_INDEX p) + 1) % sz) else d
          takeIn p n (accept p c d)

/-- Take everything there is room for. -/
def takeAll (p : Nat) (d : Dev) : Dev := takeIn p (portOf d p).inq.length d

/-- A descriptor is submitted to a port. -/
def submit (p : Nat) (ring : Bool) (c : List Word) (d : Dev) : Dev :=
  setPort d p { portOf d p with inq := (portOf d p).inq ++ [(ring, c)] }

/-- Whether GO reads 1: the copy of a mailbox descriptor has not been taken (R280). -/
def mailboxGo (d : Dev) (p : Nat) : Bool := (portOf d p).inq.any fun x => !x.1

/-- A write of HOST_MB_GO (R280). -/
def mailboxSubmit (p : Nat) (v : Word) (d : Dev) : Dev :=
  if !v.getLsbD 0 || mailboxGo d p then d
  else takeAll p (submit p false ((List.range 16).map fun i => sget (fun _ => 0#32) (portOf d p).mb i) d)

/-- HOST_MB_GO. -/
def execHostMbGo (port : BitVec 2) (v : Word) (s : State) : Host.Outcome State Fault Refusal :=
  .next (whenWritable (.port port) (fun s => settle (onDev (mailboxSubmit port.toNat v) s)) s)

/-- Records leave the FIFO or the ring: waiting ones follow, and the port accepts commands again (R282). -/
def roomMade (p : Nat) (d : Dev) : Dev := takeAll p (drainAll p d)

/-- A write of HOST_MB_POP: the head record is removed. -/
def mailboxPop (p : Nat) (v : Word) (d : Dev) : Dev :=
  if v.getLsbD 0 then roomMade p (setPort d p { portOf d p with fifo := (portOf d p).fifo.drop 1 }) else d

/-- HOST_MB_POP. -/
def execHostMbPop (port : BitVec 2) (v : Word) (s : State) : Host.Outcome State Fault Refusal :=
  .next (whenWritable (.port port) (fun s => settle (onDev (mailboxPop port.toNat v) s)) s)

/-- Entries of the command ring written and neither fetched nor noted, after a doorbell write of `tail`. -/
def ringNew (d : Dev) (p tail : Nat) : Nat :=
  let sz := ringSize (getF d (HOST_PP_SQ_CFG_SIZE_LOG2 p))
  let noted := ((portOf d p).inq.filter (·.1)).length
  if sz == 0 then 0 else (tail + 2 * sz - getF d (HOST_PP_SQ_HEAD_INDEX p) % sz - noted % sz) % sz

/-- A doorbell write (R281): TAIL is set, and the port fetches up to it; `fetched` is what host memory holds there. -/
def doorbell (p : Nat) (v : Word) (fetched : List (List Word)) (d : Dev) : Dev :=
  let tail := v.toNat % 4096
  let n := ringNew d p tail
  if fetched.length != n then d
  else takeAll p (each fetched (submit p true) (setF d (HOST_PP_SQ_TAIL_INDEX p) tail))

/-- HOST_PP_SQ_TAIL. -/
def execHostPpSqTail (a : Agent) (port : BitVec 2) (v : Word) (fetched : List (List Word)) (s : State) :
    Host.Outcome State Fault Refusal :=
  .next (whenWritable a (fun s => settle (onDev (doorbell port.toNat v fetched) s)) s)

/-- A write of HOST_PP_CQ_HEAD frees records (R282). -/
def cplHead (p : Nat) (v : Word) (d : Dev) : Dev := roomMade p (setF d (HOST_PP_CQ_HEAD_INDEX p) (v.toNat % 4096))

/-- HOST_PP_CQ_HEAD. -/
def execHostPpCqHead (a : Agent) (port : BitVec 2) (v : Word) (s : State) : Host.Outcome State Fault Refusal :=
  .next (whenWritable a (fun s => settle (onDev (cplHead port.toNat v) s)) s)

/-- A write of HOST_PP_CQ_CFG (R282): a nonzero size starts the ring afresh; while it is enabled only a size of 0 is taken, which
disables it. -/
def cplConfig (p : Nat) (v : Word) (d : Dev) : Dev :=
  let n := v.toNat % 16
  let on := ringSize (getF d (HOST_PP_CQ_CFG_SIZE_LOG2 p)) != 0
  if on && n != 0 then d
  else
    let d := setF d (HOST_PP_CQ_CFG_SIZE_LOG2 p) n
    let d := if n == 0 then d
      else setPort (setF (setF d (HOST_PP_CQ_HEAD_INDEX p) 0) (HOST_PP_CQ_TAIL_INDEX p) 0) p { portOf d p with phase := true }
    roomMade p d

/-- HOST_PP_CQ_CFG. -/
def execHostPpCqCfg (a : Agent) (port : BitVec 2) (v : Word) (s : State) : Host.Outcome State Fault Refusal :=
  .next (whenWritable a (fun s => settle (onDev (cplConfig port.toNat v) s)) s)

/-- A reference that names no command: what a tag of a reset port turns into where its command still waits for something. -/
def deadRef (d : Dev) : CmdRef := .relay (BitVec.ofNat 10 (myPos d)) 255#8

/-- A reference, unless it is of port `p`. -/
def dropPortRef (d : Dev) (p : Nat) (r : CmdRef) : CmdRef :=
  match r with
  | .host q _ => if q.toNat == p then deadRef d else r
  | .relay _ _ => r

/-- The tags of a port are forgotten wherever the machine waits with them (R274): what they started goes on. -/
def forgetPort (p : Nat) (d : Dev) : Dev :=
  let f := dropPortRef d p
  { d with
    tv := { d.tv with freezeRefs := d.tv.freezeRefs.map f, runRefs := d.tv.runRefs.map f, stepRefs := d.tv.stepRefs.map f }
    md := { d.md with unloadRefs := d.md.unloadRefs.map f }
    vs := { d.vs with rplRef := d.vs.rplRef.map f }
    ck := { d.ck with replayWait := d.ck.replayWait.map f }
    rs := { d.rs with resuming := d.rs.resuming.map f }
    hs := { d.hs with loadRef := d.hs.loadRef.map f
                      relays := d.hs.relays.map fun r => if r.port == p then { r with live := false } else r } }

/-- PERST, a link-down or a function-level reset of a port (R274). MSI-X returns to its PCI Express reset. A link-down is
recorded before the port's records go, so its own event record does not stay in the port (DEDUCED, assumptions row 36). -/
def resetPort (p : Nat) (cause : PortResetCause) (d : Dev) : Dev :=
  let up := flag d (HOST_PP_STAT_LINK_UP p)
  let d := if up && cause == .linkDown then countF d (HOST_PP_STAT_DOWNS p) 1 else d
  let d := if up && cause != .flr then raise 0x22 p d else d
  let d := forgetPort p (setPort d p { portOf d p with fifo := [], waiting := [], inq := [], active := [], msix := [], pba := [] })
  let d := setF (setF (setF d (HOST_PP_SQ_CFG_SIZE_LOG2 p) 0) (HOST_PP_CQ_CFG_SIZE_LOG2 p) 0) (HOST_PP_ACTIVE_COUNT p) 0
  let d := setFlag (setFlag d (HOST_PP_STAT_BME p) false) (HOST_PP_STAT_MSIX p) false
  if cause == .flr || !up then d
  else
    let d := setFlag (setFlag d (HOST_PP_STAT_LINK_UP p) false) (bitFld SYS_READY (12 + p)) false
    irqEvent (8 + p) d

/-- PORT_RESET. -/
def execPortReset (port : BitVec 2) (cause : PortResetCause) (s : State) : Host.Outcome State Fault Refusal :=
  .next (whenAlive (fun s => settle (onDev (resetPort port.toNat cause) s)) s)

/-- A port's link comes up (R273, R352), at one of the five rates and three widths a port trains at. -/
def linkUp (p gen width : Nat) (d : Dev) : Dev :=
  if gen == 0 || 5 < gen || !([1, 4, 8].contains width) then d else
  let was := flag d (HOST_PP_STAT_LINK_UP p)
  let d := setF (setF (setFlag d (HOST_PP_STAT_LINK_UP p) true) (HOST_PP_STAT_GEN p) gen) (HOST_PP_STAT_WIDTH p) width
  let d := setFlag d (bitFld SYS_READY (12 + p)) true
  if was then d else irqEvent (8 + p) d

/-- PORT_LINK_UP. -/
def execPortLinkUp (port : BitVec 2) (gen : BitVec 3) (width : BitVec 4) (s : State) : Host.Outcome State Fault Refusal :=
  .next (whenAlive (onDev (linkUp port.toNat gen.toNat width.toNat)) s)

/-- BAR2_READ. -/
def execBar2Read (port : BitVec 2) (addr : BitVec 37) (len : BitVec 13) (s : State) : Host.Outcome State Fault Refusal :=
  .next (whenWritable (.port port) (fun s => settle (bar2Get port.toNat addr.toNat len.toNat s)) s)

/-- Whether a byte lies in a part of the service area that R276 protects: hold area, journal, checkpoint area, parity log; at a
spare that holds no partition also parity and its copies, below those areas. -/
def protectedAt (d : Dev) (a : Nat) : Bool :=
  decide (regionBytes d ≤ a) && ([2, 5, 6, 7].any fun i => inArea d i a) ||
    (role d == 3 && !holds d && isProtected d && decide (a < areaBase d 7))

/-- The pieces of a write within one 4 KiB page each. -/
def pagePieces (a : Nat) (bs : List Byte) : List (Nat × List Byte) :=
  let first := bs.take (4096 - a % 4096)
  (a, first) :: ((chunksOf 4096 (bs.drop first.length)).zipIdx.map fun x => (a + first.length + 4096 * x.2, x.1))

/-- A write by a host through BAR2, or by DMA or Float: protected parts of the service area discard it, which `f` counts. -/
def guardedWrite (f : Dev → Dev) (a : Nat) (bs : List Byte) (s : State) : State :=
  each (pagePieces a bs) (fun x s =>
    if protectedAt s.dev x.1 then onDev f s else if hbmSize ≤ x.1 then s else hbmWrite x.1 x.2 s) s

/-- BAR2_WRITE (R276). -/
def execBar2Write (port : BitVec 2) (addr : BitVec 37) (data : List Byte) (s : State) : Host.Outcome State Fault Refusal :=
  .next (whenWritable (.port port) (fun s =>
    settle (guardedWrite (fun d => countF d (whole HOST_BAR2_DROP) 1) addr.toNat data s)) s)

/-- The progress of a FREEZE (R81): the first queue a tile of the system waits on, queue, position and a bit that says so; 0 while none
does (DESIGN CHOICE, row 107: the rules give no layout). -/
def freezeProgress (d : Dev) : Nat :=
  match d.tv.ownWaits.map (fun q => (myPos d, q)) ++ d.tv.hostWaits with
  | w :: _ => w.2 + w.1 * 2 ^ 13 + 2 ^ 31
  | [] => 0

/-- STATUS (R283): mode, readiness and TRV_COUNT; with QUERY the progress of a tag of the same port. -/
def statusCmd (r : CmdRef) (c : Cmd) (d : Dev) : Dev :=
  let q := param c.desc 0
  let done := match r with
    | .host p _ =>
      match (portOf d p.toNat).active.find? fun x => descWord x.desc 0 / 65536 == q % 65536 with
      | some x =>
        if opcodeOf x.desc == 0x10 then d.hs.accepted.length
        else if opcodeOf x.desc == 0x22 then freezeProgress d else x.bytes
      | none => 2 ^ 64 - 1
    | .relay _ _ => 2 ^ 64 - 1
  endCmd r 0 ([(getR d SYS_MODE).toNat, (getR d SYS_READY).toNat] ++ lohi (trvCount d)) (if bitOf q 16 then done else 0) d

/-- STATUS. -/
def execStatus (r : CmdRef) (s : State) : Host.Outcome State Fault Refusal :=
  .next (whenGranted (runCmd r 0x01 fun c => onDev (statusCmd r c)) s)

/-- BELAY (R283): a freeze BELAY is raised, and the command is complete. -/
def belayCmd (r : CmdRef) (d : Dev) : Dev := okCmd r [] (raiseFreeze 1 d)

/-- BELAY_COMMAND. -/
def execBelayCommand (r : CmdRef) (s : State) : Host.Outcome State Fault Refusal :=
  .next (whenGranted (runCmd r 0x04 fun _ => onDev (belayCmd r)) s)

/-- Run a mode command once: its checks still hold, and it is marked as begun (R27, R284). -/
def runMode (r : CmdRef) (op : Nat) (f : Cmd → Dev → Dev) (s : State) : State :=
  runCmd r op (fun c => onDev fun d =>
    if c.moved != 0 then d
    else
      let st := ownChecks d c.desc
      if st != 0 then endCmd r st [] 0 d else f c (onCmd r (fun c => { c with moved := 1, slices := 1 }) d)) s

/-- LOAD (R25, R287 step 1). -/
def loadCmd (r : CmdRef) (c : Cmd) (d : Dev) : Dev :=
  mgrMode 2 { d with hs := { d.hs with loading := true, loadRef := some r, noCheck := bitOf (param c.desc 0) 0, accepted := [], loadN := 0
                                       loadBuild := 0, relayQs := [], refused := none, bulk := [], bulkEnds := [] } }

/-- LOAD. -/
def execLoad (r : CmdRef) (s : State) : Host.Outcome State Fault Refusal :=
  .next (whenGranted (runMode r 0x10 (loadCmd r)) s)

/-- LOAD_PART. -/
def execLoadPart (r : CmdRef) (image : List Byte) (busError : Bool) (s : State) : Host.Outcome State Fault Refusal :=
  .next (whenGranted (fun s => settle (loadPart r image busError s)) s)

/-- The partitions of the system, and whether all are accepted. -/
def loadDone (d : Dev) : Bool :=
  ((List.range (16 * parties d)).filter fun p => (pmap d p).isSome).all d.hs.accepted.contains

/-- LOAD_COMPLETE (R25): the manager takes the system to FREEZE. -/
def loadComplete (d : Dev) : Dev :=
  if isMgr d && mode d == 2 && d.md.trans.isNone && loadDone d then mgrMode 4 d else d

/-- LOAD_COMPLETE. -/
def execLoadComplete (s : State) : Host.Outcome State Fault Refusal :=
  .next (whenGranted (fun s => settle (onDev loadComplete s)) s)

/-- LOAD_ABORT (R287): it ends OK, every LOAD_PART and the LOAD end ABORTED. -/
def loadAbortCmd (r : CmdRef) (d : Dev) : Dev := abortLoad 15 [] (okCmd r [] d)

/-- LOAD_ABORT. -/
def execLoadAbort (r : CmdRef) (s : State) : Host.Outcome State Fault Refusal :=
  .next (whenGranted (runMode r 0x12 fun _ => loadAbortCmd r) s)

/-- UNLOAD (R25). -/
def unloadCmd (r : CmdRef) (d : Dev) : Dev := mgrMode 1 { d with md := { d.md with unloadRefs := d.md.unloadRefs ++ [r] } }

/-- UNLOAD. -/
def execUnload (r : CmdRef) (s : State) : Host.Outcome State Fault Refusal :=
  .next (whenGranted (runMode r 0x13 fun _ => unloadCmd r) s)

/-- A RUN, STEP or REPLAY was accepted and still waits to leave FREEZE: a further one is refused with MODE_BUSY, as between two modes
(R27; DESIGN CHOICE, assumptions row 101). -/
def leavesFreeze (d : Dev) : Bool := d.tv.pendingRun.isSome || d.ck.replayWait.isSome

/-- A run of `n` traverses is asked for (R82, R83, R161): the census of edits comes first. -/
def askRun (n : Nat) (d : Dev) : Dev := askCensus 0 (set2 { d with tv := { d.tv with pendingRun := some n } } TRV_RUNCNT_LO n)

/-- RUN (R82). -/
def runCommand (r : CmdRef) (c : Cmd) (d : Dev) : Dev :=
  if leavesFreeze d then endCmd r 3 [] 0 d
  else askRun (param2 c.desc 0 % 2 ^ 48) { d with tv := { d.tv with runRefs := d.tv.runRefs ++ [r] } }

/-- RUN. -/
def execRun (r : CmdRef) (s : State) : Host.Outcome State Fault Refusal :=
  .next (whenGranted (runMode r 0x20 (runCommand r)) s)

/-- STEP (R83). -/
def stepCommand (r : CmdRef) (c : Cmd) (d : Dev) : Dev :=
  if leavesFreeze d then endCmd r 3 [] 0 d
  else askRun (param c.desc 0 % 2 ^ 16) { d with tv := { d.tv with stepRefs := d.tv.stepRefs ++ [r] } }

/-- STEP. -/
def execStep (r : CmdRef) (s : State) : Host.Outcome State Fault Refusal :=
  .next (whenGranted (runMode r 0x21 (stepCommand r)) s)

/-- FREEZE (R27, R79, R283): in FREEZE complete at once; a run not yet begun ends with it. -/
def freezeCmd (r : CmdRef) (d : Dev) : Dev :=
  if mode d == 4 && d.md.trans.isNone then endCount [r] 0 d
  else mgrFreeze { d with tv := { d.tv with freezeRefs := d.tv.freezeRefs ++ [r] } }

/-- FREEZE. -/
def execFreeze (r : CmdRef) (s : State) : Host.Outcome State Fault Refusal :=
  .next (whenGranted (runMode r 0x22 fun _ => freezeCmd r) s)

/-- Whether RESUME can restore (R25, R266): C3 and C4 records acknowledged, every partition held by a live device, and a committed
checkpoint retained. No message tells the manager what the other devices' software has acknowledged: that is a free bit (assumptions
row 102). -/
def canResume (d : Dev) : Bool :=
  (d.cn.unack.all fun u => decide (u.cls < 3)) && !d.ck.kept.isEmpty && ((systemDevs d).isEmpty || Config.freeBit d.free) &&
    ((List.range (16 * parties d)).all fun p => match pmap d p with
      | some pos => !isLost d pos
      | none => true)

/-- RESUME (R25, R266): the last committed checkpoint is restored, and the system goes to FREEZE. -/
def resumeCmd (r : CmdRef) (d : Dev) : Dev :=
  if !canResume d then endCmd r 1 [] 0 { d with free := d.free + 1 }
  else
    { d with free := d.free + 1, md := { d.md with silent := false }
             rs := { d.rs with resuming := some r, recovering := true, phase := 0, rollSeq := (latest d).1, rollK := (latest d).2
                               dones := [], hd := none, startTick := d.ticks } }

/-- RESUME. -/
def execResume (r : CmdRef) (s : State) : Host.Outcome State Fault Refusal :=
  .next (whenGranted (runMode r 0x23 fun _ => resumeCmd r) s)

/-- Whether this device still holds its journal from a checkpoint's MARK (R216). -/
def journalHolds (d : Dev) (c : Ckpt) : Bool :=
  c.jmark == d.jr.wr || d.jr.recs.any fun x => x.off == c.jmark

/-- What refuses a REPLAY (R216): ERR 1 to 4, or 0. No message tells the manager what another holder retains of its checkpoints and its
journal, but for an adoption since SEQ: the first free bit stands for ERR 1, the second for ERR 4 (assumptions row 103). -/
def replayErr (d : Dev) (c : List Word) : Nat :=
  let alone := (systemDevs d).isEmpty
  match d.ck.kept.find? fun k => k.seq == param c 0 && decide (d.rs.adoptSeq ≤ k.seq) && (alone || !Config.freeBit d.free) with
  | none => 1
  | some k =>
    let stop := trvCount d
    let end_ := if param2 c 1 == 0 then stop else param2 c 1
    let from_ := param2 c 3
    if end_ ≤ k.k ∨ stop < end_ ∨ from_ < k.k ∨ end_ ≤ from_ then 2
    else if param c 5 % 4 == 0 then 3
    else if (holds d && !journalHolds d k) || !(alone || !Config.freeBit (d.free + 1)) then 4
    else 0

/-- REPLAY (R216, R217): refused, or the census and any entry checkpoint come first. -/
def replayCmd (r : CmdRef) (c : List Word) (d : Dev) : Dev :=
  let e := if leavesFreeze d then 0 else replayErr d c
  let busy := leavesFreeze d
  let d := { setF d VIS_RPL_STAT_ERR e with free := d.free + 2 }
  if busy then endCmd r 3 [] 0 d
  else if e != 0 then endCmd r 11 [e] 0 d
  else
    match d.ck.kept.find? fun k => k.seq == param c 0 with
    | none => d
    | some k =>
      let stop := trvCount d
      askCensus 1
        { d with vs := { d.vs with rplSeq := k.seq, rplK := k.k, rplEnd := if param2 c 1 == 0 then stop else param2 c 1, rplS := stop
                                   rplFrom := param2 c 3, rplState := bitOf (param c 5) 0, rplProbes := bitOf (param c 5) 1
                                   rplRef := some r }
                 ck := { d.ck with replayWait := some r } }

/-- REPLAY. -/
def execReplay (r : CmdRef) (s : State) : Host.Outcome State Fault Refusal :=
  .next (whenGranted (runMode r 0x24 fun c => replayCmd r c.desc) s)

/-- REPLAY_ABORT (R220). -/
def replayAbortCmd (r : CmdRef) (d : Dev) : Dev := okCmd r [] (endReplay 6 d)

/-- REPLAY_ABORT. -/
def execReplayAbort (r : CmdRef) (s : State) : Host.Outcome State Fault Refusal :=
  .next (whenGranted (runMode r 0x25 fun _ => replayAbortCmd r) s)

/-- MEM_READ. -/
def execMemRead (r : CmdRef) (s : State) : Host.Outcome State Fault Refusal :=
  .next (whenGranted (runCmd r 0x30 (memReadSlice r)) s)

/-- MEM_WRITE. -/
def execMemWrite (r : CmdRef) (data : List Byte) (busError : Bool) (s : State) : Host.Outcome State Fault Refusal :=
  .next (whenGranted (runWrite r 0x31 data busError (memWriteSlice r)) s)

/-- FABRIC_READ. -/
def execFabricRead (r : CmdRef) (s : State) : Host.Outcome State Fault Refusal :=
  .next (whenGranted (runCmd r 0x32 fun c => onDev (fabricReadSlice r c)) s)

/-- FABRIC_WRITE. -/
def execFabricWrite (r : CmdRef) (data : List Byte) (busError : Bool) (s : State) : Host.Outcome State Fault Refusal :=
  .next (whenGranted (runWrite r 0x33 data busError fun c bs => onDev (fabricWriteSlice r c bs)) s)

/-- TRACE_READ. -/
def execTraceRead (r : CmdRef) (s : State) : Host.Outcome State Fault Refusal :=
  .next (whenGranted (runCmd r 0x34 (traceReadSlice r)) s)

/-- OWNER of the requester of an attach: its port's, of this device. The relay carries no port: free. -/
def attachOwner (r : CmdRef) (d : Dev) : Nat :=
  match r with
  | .host p _ => 32 + p.toNat
  | .relay _ _ => 32 + Config.freeChoice d.free % 4

/-- End an attach: OK with PROD and CONS, or QUEUE_REFUSED. -/
def attachEnd (r : CmdRef) (relay : Bool) (q code : Nat) (d : Dev) : Dev :=
  let x := if relay then rdesc d q else qdesc d q
  if code != 0 then endCmd r 12 [code] 0 d else endCmd r 0 (lohi x.prod ++ lohi x.cons) 0 d

/-- QUEUE_ATTACH of a relayed queue (R200, R294): INDEX becomes PROD and CONS of a from-design queue, whose home sends again from
there; the home PROD of a to-design queue, which no message names, is free. -/
def attachRelay (r : CmdRef) (q index : Nat) (s : State) : State :=
  let x := rdesc s.dev q
  let owner := attachOwner r s.dev
  if !isMgr s.dev || getF s.dev QUE_RCOUNT_COUNT ≤ q then onDev (attachEnd r true q 2) s
  else if x.owner != owner then onDev (attachEnd r true q 1) s
  else if !x.orphan then onDev (attachEnd r true q 0) s
  else
    let i := if x.fromDesign then index else Config.freeChoice s.dev.free % 2 ^ 64
    let s := if x.fromDesign then s else onDev (fun d => { d with free := d.free + 1 }) s
    let s := setRdesc q { x with prod := i, cons := i, orphan := false } s
    let s := if x.fromDesign then onDev (queueToHome 4 x.homePart x.homeQ 0 false i 0) s else s
    onDev (attachEnd r true q 0) s

/-- QUEUE_ATTACH of a queue of this device (R294): one left without its owner takes the requesting port, or the core of the same
number. -/
def attachOwn (r : CmdRef) (q : Nat) (s : State) : State :=
  let x := qdesc s.dev q
  let owner := attachOwner r s.dev
  let s := match r with
    | .relay _ _ => onDev (fun d => { d with free := d.free + 1 }) s
    | .host _ _ => s
  if !x.bound then onDev (attachEnd r false q 2) s
  else if x.orphan then
    onDev (attachEnd r false q 0) (setDesc q { x with orphan := false, owner := if x.owner < 32 then x.owner else owner } s)
  else onDev (attachEnd r false q (if x.owner == owner then 0 else 1)) s

/-- QUEUE_ATTACH. -/
def execQueueAttach (r : CmdRef) (s : State) : Host.Outcome State Fault Refusal :=
  .next (whenGranted (runCmd r 0x40 fun c =>
    if bitOf (param c.desc 0) 31 then attachRelay r (param c.desc 0 % 8192) (param2 c.desc 1)
    else attachOwn r (param c.desc 0 % 8192)) s)

/-- A progress record (R289): after every PROG_EVERY slices. A relayed command's interval is that of a port this device does not
know: free. -/
def progress (r : CmdRef) (c : Cmd) (d : Dev) : Dev :=
  if !bitOf (descWord c.desc 0) 9 then d
  else match r with
    | .host p t =>
      if (c.slices + 1) % max 1 (getF d (HOST_PP_CTRL_PROG_EVERY p.toNat)) == 0 then
        putProgress p.toNat (bitOf (descWord c.desc 0) 8) (mkRecord d t.toNat 0 false false (opcodeOf c.desc) c.bytes []) d
      else d
    | .relay pos rt =>
      let due := Config.freeBit d.free
      let d := { d with free := d.free + 1 }
      if due then sendResp pos.toNat rt.toNat (mkRecord d rt.toNat 0 false false (opcodeOf c.desc) c.bytes []) d else d

/-- A slice that was moved is complete (R288). -/
def sliceDone (r : CmdRef) (d : Dev) : Dev :=
  match findCmd d r with
  | some c =>
    if [0x30, 0x31, 0x32, 0x33, 0x34].contains (opcodeOf c.desc) && decide (c.slices < c.moved) then
      progress r c (onCmd r (fun c => { c with slices := c.slices + 1 }) d)
    else d
  | none => d

/-- COMMAND_SLICE. -/
def execCommandSlice (r : CmdRef) (s : State) : Host.Outcome State Fault Refusal :=
  .next (whenGranted (onDev (sliceDone r)) s)

/-- A CMD part (R285, R286): with all three in, the target makes the checks that are its own and holds the command. -/
def cmdIn (rope dest src rtag part : Nat) (data : BitVec 192) (d : Dev) : Dev :=
  if 2 < part then linkFault 0x14 rope 0x10 dest d
  else
    let keep := d.hs.parts.filter fun x => !(x.1 == src && x.2.1 == rtag && x.2.2.1 == part)
    let parts := keep ++ [(src, rtag, part, data)]
    let one := fun i => (parts.find? fun x => x.1 == src && x.2.1 == rtag && x.2.2.1 == i).map (·.2.2.2)
    match one 0, one 1, one 2 with
    | some a, some b, some c =>
      let desc := (wordsOf (bytesOf 24 a.toNat ++ bytesOf 24 b.toNat ++ bytesOf 24 c.toNat)).take 16
      let d := { d with hs := { d.hs with parts := parts.filter fun x => !(x.1 == src && x.2.1 == rtag) } }
      let st := if !relayWhereOk d desc then 7 else laterChecks d desc
      if st != 0 then sendResp src rtag (mkRecord d rtag st true false (opcodeOf desc) 0 []) d
      else
        let ref := CmdRef.relay (BitVec.ofNat 10 src) (BitVec.ofNat 8 rtag)
        { d with hs := { d.hs with relayed := (d.hs.relayed.filter fun c => c.ref != ref) ++ [⟨ref, desc, 0, 0, 0⟩] } }
    | _, _, _ => { d with hs := { d.hs with parts := parts } }

/-- CMD. -/
def execCmd (rx : Rx) (rtag : BitVec 16) (part : BitVec 8) (data : BitVec 192) (s : State) : Host.Outcome State Fault Refusal :=
  .next (receive 0x10 0 rx (at8 8 rtag.toNat + at8 10 part.toNat + at8 12 data.toNat)
    (onDev (cmdIn rx.rope.toNat rx.dest.toNat rx.src.toNat (rtag.toNat % 256) part.toNat data)) s)

/-- A final record of a relay goes to its port with the host's tag (R285); a LOAD_PART's tells the manager of its partition. -/
def relayRecord (x : Relay) (w : List Word) (d : Dev) : Dev :=
  let ref := CmdRef.host (BitVec.ofNat 2 x.port) (BitVec.ofNat 16 x.tag)
  let d := syncRelay { d with hs := { d.hs with relays := d.hs.relays.filter fun y => y.rtag != x.rtag } }
  let status := bitsOf (descWord w 0) 23 16
  if !x.live then d
  else match findCmd d ref with
    | none => d
    | some c =>
      let put := fun d =>
        putRecord x.port false (bitOf (descWord c.desc 0) 8)
          (BitVec.ofNat 32 (descWord w 0 / 65536 * 65536 + x.tag) :: w.drop 1) (dropCmd ref d)
      if x.opcode == 0x11 && mode d == 2 then
        if status == 0 then
          let d := acceptPart ref (param c.desc 4) (descWord w 2) x.data d
          d
        else if status == 10 then abortLoad 10 ((w.drop 4).map (·.toNat)) (put d)
        else put d
      else put d

/-- The record of a relay as far as it is in: a progress record passes, a final one waits for every data flit it counts. -/
def tryRecord (rtag : Nat) (d : Dev) : Dev :=
  match d.hs.relays.find? fun y => y.rtag == rtag with
  | none => d
  | some x =>
    match x.first, x.second with
    | some a, some b =>
      let w := wordsOf (bytesOf 16 a.toNat ++ bytesOf 16 b.toNat)
      let final := bitOf (descWord w 0) 24
      let flits := (descWord w 2 + descWord w 3 * 2 ^ 32 + 23) / 24
      if !final then
        let d := { d with hs := { d.hs with relays := d.hs.relays.map fun y =>
          if y.rtag == rtag then { y with first := none, second := none } else y } }
        match findCmd d (.host (BitVec.ofNat 2 x.port) (BitVec.ofNat 16 x.tag)) with
        | some c =>
          if x.live then putProgress x.port (bitOf (descWord c.desc 0) 8)
            (BitVec.ofNat 32 (descWord w 0 / 65536 * 65536 + x.tag) :: w.drop 1) d else d
        | none => d
      else if [0x30, 0x32, 0x34].contains x.opcode && decide (x.got < flits) then d
      else relayRecord x w d
    | _, _ => d

/-- A CMD_RESP part (R286). -/
def respIn (rope dest src rtag part : Nat) (data : BitVec 128) (d : Dev) : Dev :=
  if 1 < part then linkFault 0x14 rope 0x11 dest d
  else
    tryRecord rtag { d with hs := { d.hs with relays := d.hs.relays.map fun y =>
      if y.rtag == rtag && y.target == src then
        (if part == 0 then { y with first := some data } else { y with second := some data })
      else y } }

/-- CMD_RESP. -/
def execCmdResp (rx : Rx) (rtag : BitVec 16) (part : BitVec 8) (data : BitVec 128) (s : State) :
    Host.Outcome State Fault Refusal :=
  .next (receive 0x11 0 rx (at8 8 rtag.toNat + at8 10 part.toNat + at8 12 data.toNat)
    (onDev (respIn rx.rope.toNat rx.dest.toNat rx.src.toNat (rtag.toNat % 256) part.toNat data)) s)

/-- A flit of data toward the requester (R209, R286): it is placed by OFFSET in host memory, no further than the length. -/
def dataBack (src rtag offset : Nat) (data : BitVec 192) (d : Dev) : Dev :=
  match d.hs.relays.find? fun y => y.rtag == rtag && y.target == src with
  | none => d
  | some x =>
    let d := { d with hs := { d.hs with relays := d.hs.relays.map fun y => if y.rtag == rtag then { y with got := y.got + 1 } else y } }
    let d := match findCmd d (.host (BitVec.ofNat 2 x.port) (BitVec.ofNat 16 x.tag)) with
      | some c =>
        let bs := (bytesOf 24 data.toNat).take (lengthOf c.desc - 24 * offset)
        if x.live && !bs.isEmpty then emit (.hostWrite x.port (hostAddr c.desc + 24 * offset) bs) d else d
      | none => d
    tryRecord rtag d

/-- Whether a container's framing and every section CRC are right (R308, R311). -/
def copyGood (c : List Byte) : Bool :=
  (imageOf c).isSome && match knimSections (u16 c 6) ((c.take (u64 c 8)).drop 64) with
    | some ss => ss.all fun x => crc32 x.body == x.tag
    | none => false

/-- A whole image stream at a spare (R249, R311): a copy that passes its checks is stored. The holder is answered with an END of BULK that
counts the flits stored, or 0 to ask for a new stream; a third failure is a C2 event, raised as a protocol fault of the stream (DESIGN
CHOICE, row 40). -/
def imageStored (rope src rtag : Nat) (d : Dev) : Dev :=
  let ref := CmdRef.relay (BitVec.ofNat 10 src) (BitVec.ofNat 8 rtag)
  if role d != 3 || holds d || (findCmd d ref).isSome then d
  else match bulkWhole d src rtag with
    | none => d
    | some c =>
      let n := (c.length + 23) / 24
      let c := c.take (u64 c 8)
      let d := dropBulk src rtag d
      let w := workerOf d src
      let answer := fun n => sendPos 0x32 (1 + 4 * rtag) src (at8 8 n)
      if copyGood c then answer n (setWorker src { w with image := c, fails := 0 } d)
      else
        let d := setWorker src { w with fails := w.fails + 1 } d
        if 2 ≤ w.fails then linkFault 0x14 rope 0x32 0 d else answer 0 d

/-- The spare's answer about its copy at the holder (R311): confirmed, or asked for again. -/
def copyAnswer (src n : Nat) (d : Dev) : Dev :=
  if n == 0 then streamImage src { d with hs := { d.hs with copied := false } }
  else { d with hs := { d.hs with copied := true } }

/-- BULK (R286): KIND 0 is data toward the requester, 1 END, 2 data toward the target, 3 reserved. -/
def bulkIn (rope dest src kind rtag offset : Nat) (data : BitVec 192) (d : Dev) : Dev :=
  if kind == 0 then dataBack src rtag offset data d
  else if kind == 1 then
    if d.hs.relays.any fun y => y.rtag == rtag && y.target == src then d
    else if d.hs.imageHeld && streamSpare d == some src then copyAnswer src offset d
    else
      let es := d.hs.bulkEnds.filter fun e => !(e.1 == src && e.2.1 == rtag)
      imageStored rope src rtag { d with hs := { d.hs with bulkEnds := es ++ [(src, rtag, offset)] } }
  else if kind == 2 then
    let bs := d.hs.bulk.filter fun e => !(e.1 == src && e.2.1 == rtag && e.2.2.1 == offset)
    imageStored rope src rtag { d with hs := { d.hs with bulk := bs ++ [(src, rtag, offset, data)] } }
  else linkFault 0x14 rope 0x32 dest d

/-- BULK. -/
def execBulk (rx : Rx) (kind : BitVec 2) (rtag : BitVec 8) (offset : Word) (data : BitVec 192) (s : State) :
    Host.Outcome State Fault Refusal :=
  .next (receive 0x32 (kind.toNat + 4 * rtag.toNat) rx (at8 8 offset.toNat + at8 12 data.toNat)
    (onDev (bulkIn rx.rope.toNat rx.dest.toNat rx.src.toNat kind.toNat rtag.toNat offset.toNat data)) s)

/-- TRACE (R209): data of a ring read, or its END. -/
def traceIn (rope dest src source tag offset : Nat) (data : BitVec 192) (d : Dev) : Dev :=
  if source < 2 then dataBack src tag offset data d
  else if source == 2 then tryRecord tag d
  else linkFault 0x14 rope 0x31 dest d

/-- TRACE. -/
def execTrace (rx : Rx) (source : BitVec 2) (tag : BitVec 8) (offset : Word) (data : BitVec 192) (s : State) :
    Host.Outcome State Fault Refusal :=
  .next (receive 0x31 (source.toNat + 4 * tag.toNat) rx (at8 8 offset.toNat + at8 12 data.toNat)
    (onDev (traceIn rx.rope.toNat rx.dest.toNat rx.src.toNat source.toNat tag.toNat offset.toNat data)) s)

end Sys2Proof.Machine
end

