-- ==== Sys2Proof/Machine/Boot.lean ====
section
/-! DEFINITION. Supplies, reset and the boot sequence, and the power controller (R296-R306, R446-R452). -/

namespace Sys2Proof.Machine

/-- Every rail of R448 in range, as VIN brings them up. -/
def railsUp (d : Dev) : Dev :=
  setF { d with pw := { d.pw with railSeen := 0xFFF, pwrGood := true } } PWR_RAILS_GOOD 0xFFF

/-- Keep a register of the state before a reset. -/
def keepR (old : Dev) (off : Nat) (d : Dev) : Dev := setR d off (getR old off)

/-- The module as a reset leaves it (R4, R297, R306). What the VAUX domain keeps over RESET_N stands: SYS_TIME, the energy, the
Cairn's ring, SEQ and latches (R234), the TAP (R435); supplies, clocks and outside levels are not the module's to change. The
contents of the Col's SRAM are as they were. -/
def resetDev (d : Dev) : Dev :=
  let r := { Dev.reset with
    pw := { Power.reset with vauxGood := d.pw.vauxGood, vinGood := d.pw.vinGood, vioA := d.pw.vioA, vioB := d.pw.vioB
                             resetN := d.pw.resetN, refclk := d.pw.refclk, tbclk := d.pw.refclk, bootTick := d.ticks
                             bootStep := b2n d.pw.refclk }
    cn := { Cairn.reset with ring := d.cn.ring }
    pins := { Pins.reset with ext := d.pins.ext }
    psram := d.psram, dsram := d.dsram, screed := d.screed
    dbg := { Debug.reset with ir := d.dbg.ir, boundary := d.dbg.boundary, sample := d.dbg.sample }
    busRead := d.busRead, out := d.out, ticks := d.ticks, free := d.free }
  let r := each [TMR_SYSTIME_LO, TMR_SYSTIME_HI, PWR_ENERGY_LO, PWR_ENERGY_HI, CAIRN_SEQ] (keepR d) r
  let r := setFlag (setFlag r CAIRN_STATUS_LATCH_C3 (flag d CAIRN_STATUS_LATCH_C3)) CAIRN_STATUS_LATCH_C4
    (flag d CAIRN_STATUS_LATCH_C4)
  let r := setFlag (setFlag (syncFlt r) GPIO_BANK_A_GOOD d.pw.vioA) GPIO_BANK_B_GOOD d.pw.vioB
  if d.pw.vinGood then railsUp r else r

/-- RESET_N (R25, R297): the device goes to BOOT and stays there while it is low. -/
def execResetN (s : State) : Host.Outcome State Fault Refusal :=
  .next (onDev (fun d =>
    if d.pw.vauxGood && d.pw.resetN then resetDev { d with pw := { d.pw with resetN := false } }
    else { d with pw := { d.pw with resetN := false } }) s)

/-- RESET_N_RELEASE (R297): with VAUX good BOOT starts. -/
def execResetNRelease (s : State) : Host.Outcome State Fault Refusal :=
  .next (onDev (fun d =>
    if d.pw.resetN then d
    else { d with pw := { d.pw with resetN := true, bootTick := d.ticks, tbclk := d.pw.refclk, bootStep := b2n d.pw.refclk } }) s)

/-- The module as VAUX first becomes good (R234, R297, R365): nothing is kept but the supplies and levels outside it. -/
def powerOn (d : Dev) : Dev :=
  let p := resetDev { d with pw := { d.pw with vauxGood := true } }
  let p := { p with cn := Cairn.reset, psram := [], dsram := [], screed := [], dbg := Debug.reset }
  each [TMR_SYSTIME_LO, TMR_SYSTIME_HI, PWR_ENERGY_LO, PWR_ENERGY_HI, CAIRN_SEQ, CAIRN_STATUS] (fun o d => setR d o (regReset o)) p

/-- VAUX_FIRST_GOOD. -/
def execVauxFirstGood (s : State) : Host.Outcome State Fault Refusal :=
  .next (onDev (fun d => if d.pw.vauxGood then d else powerOn d) s)

/-- VAUX_LOSS (R447): the device stops. -/
def execVauxLoss (s : State) : Host.Outcome State Fault Refusal :=
  .next (onDev (fun d => { d with pw := { d.pw with vauxGood := false } }) s)

/-- VIN_GOOD (R297): the steps that wait for VIN proceed. -/
def execVinGood (s : State) : Host.Outcome State Fault Refusal :=
  .next (onDev (fun d =>
    let d := { d with pw := { d.pw with vinGood := true } }
    if alive d then railsUp d else d) s)

/-- VIO_CHANGE (R297, R447). -/
def vioChange (bankB good : Bool) (d : Dev) : Dev :=
  if bankB then setFlag { d with pw := { d.pw with vioB := good } } GPIO_BANK_B_GOOD good
  else setFlag { d with pw := { d.pw with vioA := good } } GPIO_BANK_A_GOOD good

/-- VIO_CHANGE. -/
def execVioChange (bankB good : Bool) (s : State) : Host.Outcome State Fault Refusal := .next (onDev (vioChange bankB good) s)

/-- A monitored rail has been outside its window for 10 µs (R448, R449). -/
def railOut (rail : Nat) (d : Dev) : Dev :=
  if 12 ≤ rail || !bitOf d.pw.railSeen rail then d
  else
    let d := if rail == 0 then { d with pw := { d.pw with vinGood := false } } else d
    let d := { d with pw := { d.pw with pwrGood := false } }
    let d := setFlag (setFlag d (bitFld PWR_RAILS rail) false) (bitFld PWR_RAILS (16 + rail)) true
    raise 0x1D rail d

/-- RAIL_OUT_OF_WINDOW. -/
def execRailOutOfWindow (rail : BitVec 4) (s : State) : Host.Outcome State Fault Refusal :=
  .next (whenAlive (fun s => settle (onDev (railOut rail.toNat) s)) s)

/-- A measurement of VIN power (R450): `excess` is the power above the cap that 0.60 V does not remove. -/
def measurePower (watts vinMv vinCa mj capMv excess : Nat) (d : Dev) : Dev :=
  let d := setF (setF (setF d PWR_STAT_POWER watts) PWR_VIN_MV vinMv) PWR_VIN_CA vinCa
  let d := set2 d PWR_ENERGY_LO (get2 d PWR_ENERGY_LO + mj)
  let d := fabricSupply { d with pw := { d.pw with capMv := capMv } }
  let was := flag d PWR_STAT_AT_FLOOR
  let d := setFlag d PWR_STAT_AT_FLOOR (excess != 0)
  if excess != 0 && !was then raise 0x1E excess d else d

/-- POWER_MEASUREMENT. -/
def execPowerMeasurement (watts : BitVec 10) (vinMv vinCa : BitVec 16) (mj : Word) (capMv excess : BitVec 10) (s : State) :
    Host.Outcome State Fault Refusal :=
  .next (whenAlive (fun s => settle (onDev
    (measurePower watts.toNat vinMv.toNat vinCa.toNat mj.toNat capMv.toNat excess.toNat) s)) s)

/-- The hottest of a list of readings and its place, the first among equals. -/
def hottest : Nat → List Nat → Nat × Nat
  | _, [] => (0, 0)
  | i, t :: r => let h := hottest (i + 1) r; if h.1 ≤ t then (t, i) else h

/-- The temperature readings (R451): warning with its hysteresis, the critical limit when it is reached, and the cut-off at
120 °C. -/
def readTemps (face col reg0 reg1 hbm tempMv : Nat) (d : Dev) : Dev :=
  let h := hottest 0 ((List.range 4).map (fun f => bitsOf face (8 * f + 7) (8 * f)) ++ [col, reg0, reg1, hbm])
  let t := h.1
  let detail := h.2 + t * 2 ^ 8
  let before := getF d PWR_TEMP_HOTTEST
  let warn := getF d PWR_TLIMIT_WARN
  let crit := getF d PWR_TLIMIT_CRIT
  let d := setF (setF (setF (setF d PWR_TEMP_HOTTEST t) PWR_TEMP_DIE h.2) PWR_TEMP_HBM hbm) PWR_TEMP_COL col
  let d := setR d PWR_TEMP_FACE (BitVec.ofNat 32 face)
  let d := fabricSupply { d with pw := { d.pw with tempMv := tempMv } }
  if !flag d SYS_READY_CFG && t < 120 then d
  else
    let d := if warn ≤ t && !d.pw.hot then raise 0x1B detail { d with pw := { d.pw with hot := true, thermN := false } }
      else if t + 5 ≤ warn && d.pw.hot then { d with pw := { d.pw with hot := false, thermN := true } }
      else d
    let d := if crit ≤ t && before < crit then raise 0x1C detail d else d
    if 120 ≤ t then setF { d with pw := { d.pw with criticalOff := true, pwrGood := false } } PWR_RAILS_GOOD (b2n d.pw.vinGood) else d

/-- TEMPERATURE_READING. -/
def execTemperatureReading (face : BitVec 32) (col reg0 reg1 hbm : BitVec 8) (tempMv : BitVec 10) (s : State) :
    Host.Outcome State Fault Refusal :=
  .next (whenAlive (fun s => settle (onDev
    (readTemps face.toNat col.toNat reg0.toNat reg1.toNat hbm.toNat tempMv.toNat) s)) s)

/-- REFCLK_DETECTED (R298 step 1). -/
def execRefclkDetected (s : State) : Host.Outcome State Fault Refusal :=
  .next (onDev (fun d =>
    { d with pw := { d.pw with refclk := true, tbclk := d.pw.tbclk || alive d
                               bootStep := if alive d then max 1 d.pw.bootStep else d.pw.bootStep } }) s)

/-- IDENTITY (R15, R16, R18, R304): position, roles, extent, and the partition of every role but SPARE. -/
def applyIdentity (v : Nat) (d : Dev) : Dev :=
  let pos := bitsOf v 9 0
  let r := bitsOf v 11 10
  let d := setR d SYS_POSITION (BitVec.ofNat 32 pos)
  let d := setF (setF d SYS_ROLE_ROLE r) SYS_ROLE_CFG_ROLE r
  let d := setF (setFlag d SYS_MODE_PROTECTED (bitOf v 12)) SYS_EXTENT_PARTIES (bitsOf v 19 13)
  let d := setF (setF d SYS_TOPOLOGY_MGR_POS (bitsOf v 29 20)) SYS_TOPOLOGY_DEP_POS (bitsOf v 39 30)
  let d := setFlag d SYS_TOPOLOGY_DEP_VALID (bitOf v 40)
  if r == 3 then d else setFlag (setF d SYS_PARTITION_NUMBER pos) SYS_PARTITION_VALID true

/-- ROPE_MAP (R94, R304). -/
def applyRopes (ws : List Nat) (d : Dev) : Dev :=
  each ws.zipIdx (fun x d =>
    let w := x.1
    setRope d x.2 { ropeOf d x.2 with wired := bitOf w 0, expPos := bitsOf w 10 1, expRope := bitsOf w 15 11, rate := bitsOf w 17 16 }) d

/-- POWER, or its defaults (R304, PWR registers). -/
def applyPower (b : Option (List Byte)) (d : Dev) : Dev :=
  let v := match b with
    | some b => (u16 b 0, u8 b 2, u8 b 3)
    | none => (720, 95, 105)
  setF (setF (setF d PWR_CAP_WATTS v.1) PWR_TLIMIT_WARN v.2.1) PWR_TLIMIT_CRIT v.2.2

/-- CAIRN (R227, R304): windows, INJ_EN, and the classes it gives, each as a write of the register. -/
def applyCairn (b : List Byte) (d : Dev) : Dev :=
  let d := each (List.range 4) (fun n d => setR d (CAIRN_WIN_C n) (BitVec.ofNat 32 (u32 b (4 * n)))) d
  let d := setFlag d CAIRN_CTRL_INJ_EN (bitOf (u8 b 16) 0)
  each (List.range 36) (fun i d =>
    let c := u8 b (20 + i)
    if c == 0xFF then d
    else writeSrc (i + 1) (withField (getR d (CAIRN_SRC (i + 1))) (CAIRN_SRC_CLASS (i + 1)) c) d) d

/-- AREAS, or the defaults (R304): 0 means the default. -/
def applyAreas (b : Option (List Byte)) (d : Dev) : Dev :=
  let v := fun (i dflt : Nat) => match b with
    | some b => if u16 b (2 * i) == 0 then dflt else u16 b (2 * i)
    | none => dflt
  let d := setF (setF (setF d CKP_AREA_SIZE_GIB (v 0 8)) CKP_JOURNAL_SIZE_MIB (v 1 16)) QUE_AREA_RING_MIB (v 2 2048)
  setF (setF (setF (setF d QUE_HOLD_SIZE_MIB (v 3 256)) VIS_TRACE_AREA_SIZE_GIB (v 4 4)) VIS_RPL_AREA_SIZE_GIB (v 5 8))
    MEM_PLOG_SIZE_MIB (v 6 512)

/-- PINS (R304, R377): the defaults of the pins, in the layout of the low 10 bits of GPIO_PIN_n. -/
def applyPins (ws : List Nat) (d : Dev) : Dev := each ws.zipIdx (fun x d => setF d ⟨GPIO_PIN x.2, 9, 0⟩ x.1) d

/-- A container is applied (R298 step 4, R306). -/
def applyContainer (c : List Byte) (d : Dev) : Dev :=
  let n := u32 c 8
  let d := { d with nvm := flashBytes c n }
  let ss := applied d
  let words := fun (b : List Byte) => (chunksOf 4 b).map natOf
  let d := match sectionOf ss 1 with
    | some b => applyIdentity (u64 b 0) d
    | none => d
  let d := match sectionOf ss 2 with
    | some b => applyRopes (words b) d
    | none => d
  let d := applyAreas (sectionOf ss 8) (applyPower (sectionOf ss 5) d)
  let d := match sectionOf ss 6 with
    | some b => applyCairn b d
    | none => d
  let d := match sectionOf ss 7 with
    | some b => applyPins (words b) d
    | none => d
  let d := each (List.range 4) (fun p d => setF d (HOST_PP_CTRL_PRIV p) (match sectionOf ss 9 with
    | some b => u8 b p
    | none => 7)) d
  let d := setF (setR d NVM_TIME (BitVec.ofNat 32 (min (2 ^ 32 - 1) (d.ticks - d.pw.bootTick)))) NVM_LENGTH_BYTES n
  setFlag { d with pw := { d.pw with bootStep := 4 } } SYS_READY_CFG true

/-- The configuration read (R298 steps 2 to 4, R300, R301): copy A, else copy B with source 0x1F, else SAFE with source 0x18. -/
def readConfig (a b : List Byte) (sfdp quad : Bool) (size : Nat) (d : Dev) : Dev :=
  if mode d != 0 || !d.pw.tbclk || flag d SYS_READY_CFG then d
  else
    let fa := kncfFail a
    let fb := if fa == 0 then 0 else kncfFail b
    let used := if fa == 0 then 1 else if fb == 0 then 2 else 3
    let d := setF (setF (setF d NVM_STATUS_USED used) NVM_STATUS_A_FAIL fa) NVM_STATUS_B_FAIL fb
    let d := setF (setFlag d NVM_STATUS_QUAD (sfdp && quad)) NVM_FLASH_SIZE_LOG2 (if sfdp then size else 0)
    if used == 1 then applyContainer a d
    else if used == 2 then raise 0x1F 0 (applyContainer b d)
    else raise 0x18 0 d

/-- CONFIGURATION_READ. -/
def execConfigurationRead (copyA copyB : List Byte) (sfdp quad : Bool) (sizeLog2 : BitVec 8) (s : State) :
    Host.Outcome State Fault Refusal :=
  .next (whenAlive (fun s => settle (onDev (readConfig copyA copyB sfdp quad sizeLog2.toNat) s)) s)

/-- Base camp firmware is copied into core 0, which starts at vector 0 (R298 step 5, R304, R342); base camp fills LINK_PROUTE
(R116), and the wired ropes begin to train (R94, R298 step 8). -/
def startBaseCamp (d : Dev) : Dev :=
  if mode d != 0 || !d.pw.vinGood || !flag d SYS_READY_CFG || flag d SYS_READY_BASECAMP then d
  else
    let b := (sectionOf (applied d) 4).getD []
    let p := u32 b 0
    let ws := (chunksOf 2 ((b.drop 8).take (2 * p))).map fun c => BitVec.ofNat 14 (natOf c)
    let d := { d with psram := sputs (fun _ => 0#14) d.psram 0 ws, dsram := sputs (fun _ => 0#8) d.dsram 0 (b.drop (8 + 2 * p)) }
    let d := setCore d 0 (gcore0 0)
    let d := setFlag (setFlag { d with pw := { d.pw with bootStep := 5 } } (GCORE_CTL_RUN 0) true) SYS_READY_BASECAMP true
    let d := fillProute d
    syncLink (each ((List.range 18).filter fun k => (ropeOf d k).wired) beginTraining d)

/-- BASE_CAMP_START. -/
def execBaseCampStart (s : State) : Host.Outcome State Fault Refusal :=
  .next (whenAlive (fun s => settle (onDev startBaseCamp s)) s)

/-- HBM is trained and initialised to 0 with check bits (R298 step 6). -/
def hbmTrained (s : State) : State :=
  if mode s.dev != 0 || !s.dev.pw.vinGood || !flag s.dev SYS_READY_CFG || flag s.dev SYS_READY_HBM then s
  else
    onDev (fun d => setFlag (eccClearRange (eccKey 6 0) (2 ^ 40) { d with pw := { d.pw with bootStep := max 6 d.pw.bootStep } })
      SYS_READY_HBM true) (clearMem 0 hbmSize s)

/-- HBM_TRAINING_COMPLETE. -/
def execHbmTrainingComplete (s : State) : Host.Outcome State Fault Refusal := .next (whenAlive hbmTrained s)

/-- The engines are initialised (R298 step 7); the audio clock is locked. -/
def enginesReady (d : Dev) : Dev :=
  if !flag d SYS_READY_HBM || !d.pw.vinGood || flag d SYS_READY_CKP then d
  else
    let d := each [SYS_READY_CKP, SYS_READY_QUE, SYS_READY_VIS, SYS_READY_VID, SYS_READY_AUD] (fun f d => setFlag d f true) d
    setFlag { d with pw := { d.pw with bootStep := max 7 d.pw.bootStep } } AUD_STAT_LOCK true

/-- ENGINE_INIT_COMPLETE. -/
def execEngineInitComplete (s : State) : Host.Outcome State Fault Refusal := .next (whenAlive (onDev enginesReady) s)

/-- The boot window expires (R20, R299): the manager completes the check with the devices that reported; any other device
stays in BOOT. -/
def windowExpires (d : Dev) : Dev :=
  if mode d != 0 || !d.pw.bootWindow || d.md.trans.isSome then d
  else if isMgr d then topoCheck { d with pw := { d.pw with bootWindow := false, windowOver := true } }
  else { d with pw := { d.pw with bootWindow := false, windowOver := true } }

/-- BOOT_WINDOW_EXPIRY. -/
def execBootWindowExpiry (s : State) : Host.Outcome State Fault Refusal :=
  .next (whenAlive (fun s => settle (onDev windowExpires s)) s)

end Sys2Proof.Machine
end

