-- ==== Sys2Proof/Machine/Icu.lean ====
section
/-! DEFINITION. The interrupt controller: sources, claims, completion, and the commands of it (R352-R359). -/

namespace Sys2Proof.Machine

/-- Whether a source is a pin source. -/
def pinSource (s : Nat) : Bool := decide (160 ≤ s) && decide (s < 224)

/-- SENSE of a pin source, 5 to 7 acting as 0 (R354). -/
def senseOf (d : Dev) (s : Nat) : Nat :=
  let v := getF d (ICU_SRC_SENSE s)
  if 4 < v then 0 else v

/-- Whether a source is a level source as in force (R352, R354). -/
def isLevel (d : Dev) (s : Nat) : Bool :=
  s == 1 || s == 2 || (decide (16 ≤ s) && decide (s < 50)) || (decide (64 ≤ s) && decide (s < 128)) ||
    (pinSource s && decide (3 ≤ senseOf d s)) || (decide (224 ≤ s) && decide (s < 230)) ||
    (decide (240 ≤ s) && decide (s < 243))

/-- Whether a guide core owns a queue whose pending bit is set and that notifies (R196). -/
def queuePending (d : Dev) (core : Nat) : Bool :=
  let hit := fun (reg : Nat → Nat) (e : Nat × QDesc) =>
    e.2.notify && e.2.owner == core && bitOf (getR d (reg (e.1 / 32))).toNat (e.1 % 32)
  d.qu.desc.any (hit QUE_PEND) || d.qu.rdesc.any (hit QUE_RPEND)

/-- Whether an inbound channel of a core holds a message that its interrupt enables let through (R389). -/
def mailPending (d : Dev) (core : Nat) : Bool :=
  let ien := (getR d (MBX_RX_IEN_LO core)).toNat + 2 ^ 32 * getF d (MBX_RX_IEN_HI_IEN core)
  (List.range 36).any fun k => bitOf ien k && sget (fun _ => false) d.mbxFull (36 * core + k)

/-- The condition of a level source (R352). -/
def levelNow (d : Dev) (s : Nat) : Bool :=
  if s == 1 then d.cn.unack.any fun u => decide (1 ≤ u.cls) || flag d CAIRN_CTRL_C0_NMI
  else if s == 2 then
    let fired := (getR d VIS_TRG_FIRED0).toNat + 2 ^ 32 * (getR d VIS_TRG_FIRED1).toNat
    (List.range 64).any fun u => bitOf fired u && flag d (VIS_TRG_CTRL_IRQ u)
  else if s < 32 then (getR d (TMR_STAT (s - 16)) &&& getR d (TMR_IEN (s - 16))) != 0#32
  else if s < 48 then
    let n := s - 32
    (flag d (DMA_STAT_DONE n) && flag d (DMA_CFG_IEN_DONE n)) || (flag d (DMA_STAT_ERR n) && flag d (DMA_CFG_IEN_ERR n))
  else if s == 48 then flag d FLOAT_STAT_DONE && flag d FLOAT_OP_IEN_DONE
  else if s == 49 then flag d FLOAT_STAT_ERR && flag d FLOAT_OP_IEN_ERR
  else if s < 96 then queuePending d (s - 64)
  else if s < 128 then mailPending d (s - 96)
  else if s < 224 then pinInput d (s - 160) == (senseOf d s == 3)
  else if s < 230 then bitOf (getF d VID_ISTAT_EVENTS) (s - 224) && bitOf (getF d VID_IEN_IEN) (s - 224)
  else bitOf (getF d AUD_ISTAT_EVENTS) (s - 240) && bitOf (getF d AUD_IEN_IEN) (s - 240)

/-- Whether a source is pending (R353). -/
def isPending (d : Dev) (s : Nat) : Bool :=
  if isLevel d s then levelNow d s else sget (fun _ => false) d.icu.pend s

/-- Whether a source is active, on whatever core. -/
def isActive (d : Dev) (s : Nat) : Bool := d.icu.active.any fun x => x.1 == s

/-- The target core of a source (R355). -/
def targetOf (d : Dev) (s : Nat) : Nat :=
  if 64 ≤ s ∧ s < 160 then s % 32 else getF d (ICU_SRC_TARGET s)

/-- The running priority of a core (R355). -/
def runPri (d : Dev) (c : Nat) : Nat :=
  d.icu.active.foldl (fun m x => if x.2.1 == c then max m x.2.2 else m) 0

/-- Whether a source is eligible on a core (R355, R358). -/
def eligible (d : Dev) (c s : Nat) : Bool :=
  let p := getF d (ICU_SRC_PRIO s)
  decide (max (getF d (ICU_THRESH_THRESH c)) (runPri d c) < p) && targetOf d s == c && isPending d s && !isActive d s &&
    !flag d ICU_GCTRL_DISABLE

/-- The eligible source a claim selects: the highest priority, among equals the lowest number (R356). -/
def bestSource (d : Dev) (c : Nat) : Option Nat :=
  (List.range 512).foldl (fun b s =>
    if s != 0 && eligible d c s then
      match b with
      | none => some s
      | some x => if getF d (ICU_SRC_PRIO x) < getF d (ICU_SRC_PRIO s) then some s else b
    else b) none

/-- Whether the controller presents EXTINT to a core: a source is eligible and no debug halt stops delivery (R355, R442). -/
def presents (d : Dev) (c : Nat) : Bool := (bestSource d c).isSome && !flag d DBG_HALT_HALTED

/-- What a read of ICU_CLAIM returns (R356). -/
def claimWord (d : Dev) (c : Nat) : Word :=
  match bestSource d c with
  | some s => BitVec.ofNat 32 (s + getF d (ICU_SRC_PRIO s) * 2 ^ 12)
  | none => 0x80000000#32

/-- A read of ICU_CLAIM (R356): the selected source becomes active, its priority recorded, an event's pending bit cleared; a
no-side-effect read claims nothing. -/
def claim (nse : Bool) (c : Nat) (d : Dev) : Dev :=
  let d' := { d with busRead := claimWord d c }
  match bestSource d c with
  | some s =>
    if nse then d'
    else { d' with icu := { pend := sset (fun _ => false) d.icu.pend s false
                            active := d.icu.active ++ [(s, c, getF d (ICU_SRC_PRIO s))] } }
  | none => d'

/-- CLAIM. -/
def execClaim (a : Agent) (nse : Bool) (c : BitVec 5) (s : State) : Host.Outcome State Fault Refusal :=
  .next (whenWritable a (onDev (claim nse c.toNat)) s)

/-- A write of ICU_COMPLETE (R357). -/
def complete (c : Nat) (v : Word) (d : Dev) : Dev :=
  { d with icu := { d.icu with active := d.icu.active.filter fun x => !(x.1 == v.toNat % 512 && x.2.1 == c) } }

/-- COMPLETE. -/
def execComplete (a : Agent) (c : BitVec 5) (v : Word) (s : State) : Host.Outcome State Fault Refusal :=
  .next (whenWritable a (onDev (complete c.toNat v)) s)

/-- SWI (R352). -/
def execSwi (a : Agent) (v : Word) (s : State) : Host.Outcome State Fault Refusal :=
  .next (whenWritable a (onDev (irqEvent (256 + v.toNat % 64))) s)

/-- A write of ICU_SRC_s (R353-R355): SENSE and FILTER of pin sources only, TARGET of all but the per-core sources; CLRPEND clears
an event source's pending bit. -/
def writeIcuSrc (s : Nat) (v : Word) (d : Dev) : Dev :=
  if s == 0 then d
  else
    let w := v.toNat
    let d := setF d (ICU_SRC_PRIO s) (w % 16)
    let d := if 64 ≤ s ∧ s < 160 then d else setF d (ICU_SRC_TARGET s) (bitsOf w 8 4)
    let d := if pinSource s then setF (setF d (ICU_SRC_SENSE s) (bitsOf w 18 16)) (ICU_SRC_FILTER s) (bitsOf w 31 24) else d
    if bitOf w 12 && !isLevel d s then { d with icu := { d.icu with pend := sset (fun _ => false) d.icu.pend s false } } else d

/-- CLRPEND. -/
def execClrpend (a : Agent) (source : BitVec 9) (v : Word) (s : State) : Host.Outcome State Fault Refusal :=
  .next (whenWritable a (onDev (writeIcuSrc source.toNat v)) s)

/-- DISABLE (R358). -/
def execDisable (a : Agent) (v : Word) (s : State) : Host.Outcome State Fault Refusal :=
  .next (whenWritable a (onDev (plainWrite ICU_GCTRL v)) s)

/-- A pin's input has held a new value for FILTER ticks (R354, R371): the change passes, and an edge that SENSE selects sets the
pin's event source. An input without its bank supply, or held by its own pad at the other level, has not changed. -/
def filterPass (n : Nat) (level : Bool) (d : Dev) : Dev :=
  let old := sget (fun _ => false) d.pins.ext n
  let p := padOut d n
  if !bankGood d n || old == level || (p.enable && p.value != level) then d
  else
    let s := 160 + n
    let d := { d with pins := { d.pins with ext := sset (fun _ => false) d.pins.ext n level } }
    let sense := senseOf d s
    if sense == 2 || (sense == 0 && level) || (sense == 1 && !level) then irqEvent s d else d

/-- GLITCH_FILTER. -/
def execGlitchFilter (pin : BitVec 6) (level : Bool) (s : State) : Host.Outcome State Fault Refusal :=
  .next (whenAlive (onDev (filterPass pin.toNat level)) s)

end Sys2Proof.Machine
end

