-- ==== Sys2Proof/Machine/Cores.lean ====
section
/-! DEFINITION. The guide cores from outside: state, stores on their way to memory, reset, lockup, parking, and the GCORE
registers' commands (R331, R337, R342-R346, R350, R351, R389). -/

namespace Sys2Proof.Machine

/-- Local data SRAM of core `n` as a transfer address (R379). -/
def localBase (n : Nat) : Nat := 0x3000000000 + 0x1000000 * n

/-- The Screed as a transfer address (R379). -/
def screedBase : Nat := 0x2000000000

/-- The Screed's size (R314). -/
def screedSize : Nat := 96 * 2 ^ 20

/-- The region of R379 that holds a transfer address: 0 HBM, 1 the Screed, 2 + n local SRAM of core n; none where nothing is
mapped. -/
def regionOf (ta : Nat) : Option Nat :=
  if ta < hbmSize then some 0
  else if screedBase ≤ ta ∧ ta < screedBase + screedSize then some 1
  else
    let n := (ta - 0x3000000000) / 0x1000000
    if 0x3000000000 ≤ ta ∧ n < 32 ∧ ta % 0x1000000 < 0x20000 then some (2 + n) else none

/-- What an unlisted byte of an SRAM reads as. -/
def sram0 (_ : Nat) : Byte := 0#8

/-- The key of a byte of local SRAM, from its transfer address. -/
def localKey (ta : Nat) : Nat := 2 ^ 17 * ((ta - 0x3000000000) / 0x1000000) + ta % 0x1000000

/-- The protected word of an SRAM byte: space 8 is local SRAM, space 9 the Screed, 8 bytes a word. -/
def sramKey (ta : Nat) : Nat :=
  if ta < 0x3000000000 then eccKey 9 ((ta - screedBase) / 8) else eccKey 8 (localKey ta / 8)

/-- A byte of the Screed or of a local SRAM. -/
def sramByte (d : Dev) (ta : Nat) : Byte :=
  if ta < 0x3000000000 then sget sram0 d.screed (ta - screedBase) else sget sram0 d.dsram (localKey ta)

/-- The words of 8 bytes a range of SRAM touches, by transfer address. -/
def sramWords (ta n : Nat) : List Nat := wordAddrs ta n

/-- Write bytes of the Screed or of a local SRAM (R346): a word written whole gets good check bits, a word written in part keeps
an uncorrectable error as its poison. Other cores' reservations in the granules end; `who` is the writing core. -/
def sramWrite (who : Option Nat) (ta : Nat) (bs : List Byte) (d : Dev) : Dev :=
  let d := if ta < 0x3000000000 then { d with screed := sputs sram0 d.screed (ta - screedBase) bs }
    else { d with dsram := sputs sram0 d.dsram (localKey ta) bs }
  let d := each (sramWords ta bs.length) (fun w d =>
    let k := sramKey w
    let whole := decide (ta ≤ w) && decide (w + 8 ≤ ta + bs.length)
    if whole || popcount (eccMask d k) < 2 then eccClear k d else d) d
  unreserve who ta bs.length d

/-- Whether a range of SRAM meets an uncorrectable error, and the first byte address of its word. -/
def sramBad (d : Dev) (ta n : Nat) : Option Nat := (sramWords ta n).find? fun w => decide (2 ≤ popcount (eccMask d (sramKey w)))

/-- A read of the Screed or of a local SRAM: single errors are corrected in place, those of a local SRAM counted (R343); none for
an uncorrectable word. -/
def sramRead (ta n : Nat) (d : Dev) : Option (List Byte) × Dev :=
  match sramBad d ta n with
  | some _ => (none, d)
  | none =>
    let d := each (sramWords ta n) (fun w d =>
      if popcount (eccMask d (sramKey w)) == 1 then
        let d := eccClear (sramKey w) d
        if 0x3000000000 ≤ w then countF d (GCORE_ECC_DATA ((w - 0x3000000000) / 0x1000000)) 1 else d
      else d) d
    (some ((List.range n).map fun i => sramByte d (ta + i)), d)

/-- A read at a transfer address by DMA, Float or a core, within one region (R149, R379, R461). -/
def xferRead (ta n : Nat) (s : State) : Got × State :=
  if ta < hbmSize then hbmRead ta n s
  else
    match sramRead ta n s.dev with
    | (some bs, d) => (.data bs, { s with dev := d })
    | (none, d) => (.fault ta, { s with dev := d })

/-- A write at a transfer address by DMA or Float (R379): protected parts of the service area discard it. -/
def xferWrite (ta : Nat) (bs : List Byte) (s : State) : State :=
  if ta < hbmSize then guardedWrite (fun d => d) ta bs s else onDev (sramWrite none ta bs) s

/-- A guide core's write of HBM by R149: it does not end the writer's own reservation (R331). -/
def coreHbmWrite (c : Nat) (a : Nat) (bs : List Byte) (s : State) : State :=
  let keep := (coreOf s.dev c).resv
  onDev (fun d => if (coreOf d c).resv == keep then d else setCore d c { coreOf d c with resv := keep }) (hbmWrite a bs s)

/-- A line of the data cache with stored bytes laid over it. -/
def layLine (line : List Byte) (base ta : Nat) (bs : List Byte) : List Byte :=
  (List.range line.length).map fun j =>
    if ta ≤ base + j ∧ base + j < ta + bs.length then bs.getD (base + j - ta) 0 else line.getD j 0

/-- A store updates the lines of the core's data cache that are present (R340). -/
def updateLines (ta : Nat) (bs : List Byte) (g : GCore) : GCore :=
  { g with dc := g.dc.map fun e => (e.1, layLine e.2 (64 * e.1) ta bs) }

/-- The oldest entry of a core's store buffer reaches memory (R345). -/
def drainOne (c : Nat) (s : State) : State :=
  let g := coreOf s.dev c
  match g.sbuf with
  | [] => s
  | e :: r =>
    let s := onDev (fun d => setCore d c (updateLines e.at_ e.bytes { g with sbuf := r })) s
    match regionOf e.at_ with
    | none => s
    | some 0 => coreHbmWrite c e.at_ e.bytes s
    | some _ => onDev (sramWrite (some c) e.at_ e.bytes) s

/-- The whole store buffer reaches memory, in program order. -/
def drainStores (c : Nat) (s : State) : State := each (List.range (coreOf s.dev c).sbuf.length) (fun _ => drainOne c) s

/-- STORE_BUFFER_DRAIN: a locked or stopped core's stores drain too (R345, R350). -/
def execStoreBufferDrain (c : BitVec 5) (s : State) : Host.Outcome State Fault Refusal :=
  .next (whenGranted (drainOne c.toNat) s)

/-- Bit n of GCORE_LOCKED, and LOCKUP_N low while any is set (R237). -/
def lockedCores (d : Dev) : Nat := (d.gc.filter fun e => e.2.locked).foldl (fun v e => v + 2 ^ e.1) 0

/-- Lockup (R350): the cause is kept, and the event is source 0x19 (R237). -/
def lockUp (c cause vector : Nat) (d : Dev) : Dev :=
  let d := setCore d c { coreOf d c with locked := true, group := none }
  faultEvent 0x19 c (trvCount d) (setF (setF d (GCORE_LOCK_CAUSE c) cause) (GCORE_LOCK_VECTOR c) vector)

/-- Whether the Col's rails are up, so that the cores work (R298 step 5). -/
def colUp (d : Dev) : Bool := alive d && decide (5 ≤ d.pw.bootStep)

/-- What ends a WAIT of core `c` (R330): an eligible source, whatever IE says, or an NMI that may be taken. -/
def awakens (d : Dev) (c : Nat) : Bool := presents d c || (c == 0 && d.cn.nmi && (coreOf d c).nmi.isNone)

/-- GCORE_STAT.STATE. -/
def coreState (d : Dev) (c : Nat) : Nat :=
  let g := coreOf d c
  if !colUp d then 0
  else if g.locked then 3
  else if g.halted || flag d DBG_HALT_HALTED then 4
  else if !flag d (GCORE_CTL_RUN c) then 0
  else if g.waiting && !awakens d c then 2
  else if g.monitor.isSome then 5
  else 1

/-- Whether core `c`'s power domain is parked (R389). -/
def parked (d : Dev) (c : Nat) : Bool := flag d (MBX_CTL_PARKED c)

/-- RESET is taken once RUN is 1 (R348, R351): the core fetches from 0, and an error in that fetch locks it up. -/
def takeReset (c : Nat) (d : Dev) : Dev :=
  let g := coreOf d c
  if g.resetDue && flag d (GCORE_CTL_RUN c) then
    let d := setCore d c { g with resetDue := false }
    if 2 ≤ popcount (eccMask d (eccKey 7 (65536 * c))) then lockUp c 2 0 d else d
  else d

/-- A core leaves a halt or a monitor that paused its watchdog: COUNT is at least the grace (R444). -/
def watchGrace (c : Nat) (d : Dev) : Dev :=
  let g := getR d DBG_WDT_GRACE
  if (getR d (TMR_WDT_COUNT c)).toNat < g.toNat && flag d (TMR_WDT_CTL_ENABLE c) then setR d (TMR_WDT_COUNT c) g else d

/-- Monitor mode exchanges the thresholds on entry and on exit (R441). -/
def swapThresh (c : Nat) (d : Dev) : Dev :=
  let t := getF d (ICU_THRESH_THRESH c)
  setF (setF d (ICU_THRESH_THRESH c) (getF d (DBG_CORE_CTL_MTHRESH c))) (DBG_CORE_CTL_MTHRESH c) t

/-- Leave monitor mode. -/
def leaveMonitor (c : Nat) (d : Dev) : Dev :=
  let g := coreOf d c
  if g.monitor.isNone then d
  else
    let d := swapThresh c (setCore d c { g with monitor := none })
    if flag d (DBG_CORE_CTL_WDT_PAUSE c) then watchGrace c d else d

/-- GCORE_CTL.RESET (R351): the store buffer drains; registers, ST, predictor, return stack, reservation and caches are reset,
NMI_ACTIVE, lockup and halt end; the SRAMs stay. -/
def coreReset (c : Nat) (s : State) : State :=
  onDev (fun d =>
    let d := leaveMonitor c d
    let d := if (coreOf d c).halted then watchGrace c d else d
    let d := setCore d c { gcore0 c with resetDue := true, wake := (coreOf d c).wake }
    takeReset c (setR d (GCORE_LOCK c) 0)) (drainStores c s)

/-- A core is asked to power up (R389). -/
def wakeCore (c : Nat) (d : Dev) : Dev :=
  if parked d c then setCore d c { coreOf d c with wake := true } else d

/-- RUN set to 1 (R351): the core resumes where it stopped, or takes a reset that waited. -/
def runCore (c : Nat) (d : Dev) : Dev := takeReset c (setFlag d (GCORE_CTL_RUN c) true)

/-- RUN set to 0 (R351): the core stops between groups. -/
def stopCore (c : Nat) (d : Dev) : Dev := setCore (setFlag d (GCORE_CTL_RUN c) false) c { coreOf d c with group := none }

/-- A write of GCORE_CTL (R344, R351, R389): the fields, a change of DET, the invalidations, and RESET last. -/
def writeCoreCtl (c : Nat) (v : Word) (s : State) : State :=
  let s := onDev (fun d =>
    let det := flag d (GCORE_CTL_DET c)
    let d := wakeCore c (plainWrite (GCORE_CTL c) v (withRun c (v.getLsbD 0) d))
    let d := if flag d (GCORE_CTL_DET c) != det then setCore d c { coreOf d c with pred := [], ic := [], dc := [], group := none } else d
    let d := if v.getLsbD 5 then setCore d c { coreOf d c with ic := [] } else d
    if v.getLsbD 6 then setCore d c { coreOf d c with dc := [] } else d) s
  if v.getLsbD 1 then coreReset c s else s
where
  /-- RUN as written; the other fields of the write follow. -/
  withRun (c : Nat) (run : Bool) (d : Dev) : Dev :=
    if run then runCore c d else stopCore c d

/-- GCORE_RUN. -/
def execGcoreRun (a : Agent) (c : BitVec 5) (v : Word) (s : State) : Host.Outcome State Fault Refusal :=
  .next (whenWritable a (writeCoreCtl c.toNat v) s)

/-- GCORE_RESET. -/
def execGcoreReset (a : Agent) (c : BitVec 5) (v : Word) (s : State) : Host.Outcome State Fault Refusal :=
  .next (whenWritable a (writeCoreCtl c.toNat v) s)

/-- DET. -/
def execDet (a : Agent) (c : BitVec 5) (v : Word) (s : State) : Host.Outcome State Fault Refusal :=
  .next (whenWritable a (writeCoreCtl c.toNat v) s)

/-- ICINV. -/
def execIcinv (a : Agent) (c : BitVec 5) (v : Word) (s : State) : Host.Outcome State Fault Refusal :=
  .next (whenWritable a (writeCoreCtl c.toNat v) s)

/-- DCINV. -/
def execDcinv (a : Agent) (c : BitVec 5) (v : Word) (s : State) : Host.Outcome State Fault Refusal :=
  .next (whenWritable a (writeCoreCtl c.toNat v) s)

/-- A word of program SRAM. -/
def progWord (d : Dev) (c a : Nat) : BitVec 14 := sget (fun _ => 0#14) d.psram (65536 * c + a)

/-- Write a word of program SRAM; it gets good check bits. -/
def setProgWord (c a : Nat) (v : BitVec 14) (d : Dev) : Dev :=
  eccClear (eccKey 7 (65536 * c + a)) { d with psram := sset (fun _ => 0#14) d.psram (65536 * c + a) v }

/-- Whether the state of a core lets program SRAM be written (R342). -/
def progWritable (d : Dev) (c : Nat) : Bool :=
  let st := coreState d c
  st == 0 || st == 3 || st == 4

/-- A write of program SRAM (R342): at any other time it is ignored and recorded. -/
def writeProg (c a : Nat) (v : BitVec 14) (d : Dev) : Dev :=
  if progWritable d c then setProgWord c a v d
  else setFlag (setF (setF d GCORE_PERR_ADDR a) GCORE_PERR_CORE c) GCORE_PERR_VALID true

/-- An access of GCORE_PDATA (R342, and the registers' table): the selected word, and ADDR moves on with AUTOINC but for an access
marked no-side-effect. -/
def accessProg (write nse : Bool) (v : Word) (d : Dev) : Dev :=
  let c := getF d GCORE_PSEL_CORE
  let a := getF d GCORE_PSEL_ADDR
  let d := if write then writeProg c a (v.setWidth 14) d else { d with busRead := (progWord d c a).setWidth 32 }
  if flag d GCORE_PSEL_AUTOINC && !nse then setF d GCORE_PSEL_ADDR (a + 1) else d

/-- GCORE_PDATA. -/
def execGcorePdata (a : Agent) (write nse : Bool) (v : Word) (s : State) : Host.Outcome State Fault Refusal :=
  .next (whenWritable a (onDev (accessProg write nse v)) s)

/-- The domain parks (R389): PARK is set, the core waits or is stopped, its store buffer is empty, and nothing wakes it. -/
def parkCore (c : Nat) (d : Dev) : Dev :=
  let st := coreState d c
  let g := coreOf d c
  if flag d (MBX_CTL_PARK c) && !parked d c && (st == 2 || (st == 0 && colUp d)) && g.sbuf.isEmpty && g.loads.isEmpty &&
      !presents d c && !(c == 0 && d.cn.nmi) then
    setFlag (setCore d c { g with wake := false, group := none }) (MBX_CTL_PARKED c) true
  else d

/-- PARK. -/
def execPark (c : BitVec 5) (s : State) : Host.Outcome State Fault Refusal := .next (whenGranted (onDev (parkCore c.toNat)) s)

/-- The domain powers up (R389): an event asked for it, an interrupt is eligible for the core, or an NMI. -/
def unparkCore (c : Nat) (d : Dev) : Dev :=
  let g := coreOf d c
  if parked d c && (g.wake || presents d c || (c == 0 && d.cn.nmi)) then
    setFlag (setCore d c { g with wake := false }) (MBX_CTL_PARKED c) false
  else d

/-- UNPARK. -/
def execUnpark (c : BitVec 5) (s : State) : Host.Outcome State Fault Refusal := .next (whenGranted (onDev (unparkCore c.toNat)) s)

/-- The sender channel of an access (R386, R387): a guide core or a partner port; the others have none. -/
def senderOf : Agent → Option Nat
  | .core n => some n.toNat
  | .port n => some (32 + n.toNat)
  | .dap => none
  | .executor => none

/-- Whether a channel is FULL. -/
def mbFull (d : Dev) (c k : Nat) : Bool := sget (fun _ => false) d.mbxFull (36 * c + k)

/-- A word of a channel. -/
def mbWord (d : Dev) (c k i : Nat) : Word := sget (fun _ => 0#32) d.mbx (16 * (36 * c + k) + i)

/-- A write to a word of the sender's channel (R387): ignored while it is FULL. -/
def mbSetWord (c k i : Nat) (v : Word) (d : Dev) : Dev :=
  if mbFull d c k then d else { d with mbx := sset (fun _ => 0#32) d.mbx (16 * (36 * c + k) + i) v }

/-- A GO (R387, R389): the channel becomes FULL, a parked domain is asked to power up, and WAKE_RUN sets RUN of a stopped
core. -/
def mbGo (c k : Nat) (v : Word) (d : Dev) : Dev :=
  if !v.getLsbD 0 || mbFull d c k then d
  else
    let d := wakeCore c { d with mbxFull := sset (fun _ => false) d.mbxFull (36 * c + k) true }
    if flag d (MBX_CTL_WAKE_RUN c) && !flag d (GCORE_CTL_RUN c) then runCore c d else d

/-- MBX_SEND_GO. -/
def execMbxSendGo (a : Agent) (c : BitVec 5) (v : Word) (s : State) : Host.Outcome State Fault Refusal :=
  .next (whenWritable a (onDev fun d => match senderOf a with
    | some k => mbGo c.toNat k v d
    | none => d) s)

/-- A write of MBX_RX_RELEASE (R388). -/
def mbRelease (c : Nat) (v : Word) (d : Dev) : Dev :=
  let k := v.toNat % 64
  if k < 36 then { d with mbxFull := sset (fun _ => false) d.mbxFull (36 * c + k) false } else d

/-- MBX_RX_RELEASE. -/
def execMbxRxRelease (a : Agent) (c : BitVec 5) (v : Word) (s : State) : Host.Outcome State Fault Refusal :=
  .next (whenWritable a (onDev (mbRelease c.toNat v)) s)

end Sys2Proof.Machine
end

