-- ==== Sys2Proof/Machine/Timers.lean ====
section
/-! DEFINITION. Timers, system time and watchdogs (R360-R367). -/

namespace Sys2Proof.Machine

/-- TMR_OUT.MODE of a channel. -/
def outMode (d : Dev) (n c : Nat) : Nat := bitsOf (getR d (TMR_OUT n)).toNat (3 * c + 2) (3 * c)

/-- The output of a compare channel. -/
def outLevel (d : Dev) (n c : Nat) : Bool := bitOf (getF d (TMR_OUT_LEVEL n)) c

/-- Set the output of a compare channel. -/
def setOut (n c : Nat) (b : Bool) (d : Dev) : Dev := setFlag d (bitFld (TMR_OUT n) (16 + c)) b

/-- The outputs that follow from the mode alone (R361): low in modes 0, 6 and 7; in modes 4 and 5 by whether the channel is
between wrap and match. -/
def syncOut (n c : Nat) (d : Dev) : Dev :=
  let m := outMode d n c
  let between := sget (fun _ => false) d.tm.wrapSeen (4 * n + c)
  if m == 0 || m == 6 || m == 7 then setOut n c false d
  else if m == 4 then setOut n c between d
  else if m == 5 then setOut n c (!between) d
  else d

/-- Mark whether a channel is between wrap and match. -/
def setBetween (n c : Nat) (b : Bool) (d : Dev) : Dev :=
  { d with tm := { d.tm with wrapSeen := sset (fun _ => false) d.tm.wrapSeen (4 * n + c) b } }

/-- A match of a channel (R361). -/
def matchChannel (n c : Nat) (d : Dev) : Dev :=
  let m := outMode d n c
  let d := setFlag (setBetween n c false d) (bitFld (TMR_STAT n) (1 + c)) true
  if m == 1 then setOut n c true d
  else if m == 2 then setOut n c false d
  else if m == 3 then setOut n c (!outLevel d n c) d
  else syncOut n c d

/-- The channels whose CMP in force COUNT has become equal to. -/
def matching (d : Dev) (n : Nat) : List Nat := (List.range 4).filter fun c => inForce d (TMR_CMP n c) == getR d (TMR_COUNT n)

/-- COUNT becomes `v`: the channels match; the events are 1 + c for a match of channel c (MOUT's numbers). -/
def landCount (n : Nat) (v : Word) (d : Dev) : List Nat × Dev :=
  let d := setR d (TMR_COUNT n) v
  let ms := matching d n
  (ms.map (· + 1), each ms (matchChannel n) d)

/-- A wrap event (R360, R361): preloads are copied into force, WRAP is set, COUNT is 0. -/
def wrapTimer (n : Nat) (d : Dev) : List Nat × Dev :=
  let d := each [TMR_TOP n, TMR_CMP n 0, TMR_CMP n 1, TMR_CMP n 2, TMR_CMP n 3] (fun o d => commitSh d o) d
  let d := setFlag d (TMR_STAT_WRAP n) true
  let d := each (List.range 4) (fun c d => syncOut n c (setBetween n c true d)) d
  let (ev, d) := landCount n 0 d
  (0 :: ev, d)

/-- COUNT advances by one: after TOP it wraps (R360). -/
def advance (n : Nat) (d : Dev) : List Nat × Dev :=
  let v := getR d (TMR_COUNT n)
  if v == inForce d (TMR_TOP n) then wrapTimer n d else landCount n (v + 1) d

/-- The event MOUT selects, 7 acting as 0 (R362). -/
def masterOut (d : Dev) (n : Nat) : Nat :=
  let m := getF d (TMR_CFG_MOUT n)
  if m == 7 then 0 else m

/-- What the events of timer `n` do to the slaves after it, in the same tick (R362): a reset slave's COUNT becomes 0, a clocked
one advances. -/
def toSlaves : Nat → Nat → List Nat → Dev → Dev
  | 0, _, _, d => d
  | k + 1, n, ev, d =>
    if 15 ≤ n || !ev.contains (masterOut d n) then d
    else if getF d (TMR_CFG_SLAVE (n + 1)) == 2 then
      if getR d (TMR_COUNT (n + 1)) == 0#32 then d
      else
        let (ev, d) := landCount (n + 1) 0 d
        toSlaves k (n + 1) ev d
    else if getF d (TMR_CFG_SLAVE (n + 1)) == 3 then
      let (ev, d) := advance (n + 1) d
      toSlaves k (n + 1) ev d
    else d

/-- Carry the events of a timer down its chain. -/
def spread (n : Nat) (r : List Nat × Dev) : Dev := toSlaves 16 n r.1 r.2

/-- SLAVE of a timer; for timer 0 it acts as 0 (R362). -/
def slaveOf (d : Dev) (n : Nat) : Nat := if n == 0 then 0 else getF d (TMR_CFG_SLAVE n)

/-- A count tick of the prescaler (R360, R362): not used by a clocked slave, and let through by the master's gate for a gated
one. -/
def countTick (n : Nat) (d : Dev) : Dev :=
  let sl := slaveOf d n
  if sl == 3 || (sl == 1 && !outLevel d (n - 1) 0) then d else spread n (advance n d)

/-- COUNT_TICK. Timers count in every mode, in debug halt too (R360). -/
def execCountTick (timer : BitVec 4) (s : State) : Host.Outcome State Fault Refusal :=
  .next (whenAlive (onDev (countTick timer.toNat)) s)

/-- A write of TMR_COUNT (R360). -/
def writeCount (n : Nat) (v : Word) (d : Dev) : Dev :=
  if getR d (TMR_COUNT n) == v then d else spread n (landCount n v d)

/-- A write of TMR_OUT (R361): LEVEL is not written, and outputs that the mode alone decides follow. -/
def writeOut (n : Nat) (v : Word) (d : Dev) : Dev := each (List.range 4) (syncOut n) (plainWrite (TMR_OUT n) v d)

/-- The unbroken chain of clocked slaves after timer `n`. -/
def chainOf (d : Dev) (n : Nat) : List Nat :=
  ((List.range 15).map (· + 1)).filter fun m => decide (n < m) &&
    ((List.range 16).filter fun i => decide (n < i) && decide (i ≤ m)).all fun i => getF d (TMR_CFG_SLAVE i) == 3

/-- A read of TMR_COUNT (R363): the chain is latched in the same tick. -/
def readCount (n : Nat) (d : Dev) : Dev :=
  each (chainOf d n) (fun m d => setR d (TMR_LATCH m) (getR d (TMR_COUNT m))) { d with busRead := getR d (TMR_COUNT n) }

/-- TMR_COUNT_LATCH. -/
def execTmrCountLatch (a : Agent) (timer : BitVec 4) (s : State) : Host.Outcome State Fault Refusal :=
  .next (whenWritable a (onDev (readCount timer.toNat)) s)

/-- A capture (R364): COUNT is copied, NEW is set, OVR when an unread one is lost; the capture is a master event too. -/
def captureNow (n k : Nat) (d : Dev) : Dev :=
  let d := if flag d (bitFld (TMR_STAT n) (5 + k)) then setFlag d (bitFld (TMR_STAT n) (7 + k)) true else d
  let d := setFlag (setR d (TMR_CAP n k) (getR d (TMR_COUNT n))) (bitFld (TMR_STAT n) (5 + k)) true
  spread n ([5 + k], d)

/-- Whether the selection of a capture channel takes an edge (the level the filtered input has come to) or the master event. -/
def captures (d : Dev) (n k : Nat) (edge : Option Bool) : Bool :=
  let w := (getR d (TMR_CAPSEL n)).toNat / 2 ^ (16 * k)
  match edge with
  | none => bitOf w 6 && n != 0
  | some up => bitOf (bitsOf w 9 8) (if up then 0 else 1) && pinInput d (w % 64) == up

/-- CAPTURE. -/
def execCapture (timer : BitVec 4) (k : BitVec 1) (edge : Option Bool) (s : State) : Host.Outcome State Fault Refusal :=
  .next (whenAlive (onDev fun d =>
    if captures d timer.toNat k.toNat edge then captureNow timer.toNat k.toNat d else d) s)

/-- A read of TMR_CAPk (R364): NEWk is cleared unless the read has no side effect. -/
def readCapture (nse : Bool) (n k : Nat) (d : Dev) : Dev :=
  let d := { d with busRead := getR d (TMR_CAP n k) }
  if nse then d else setFlag d (bitFld (TMR_STAT n) (5 + k)) false

/-- TMR_CAP_READ. -/
def execTmrCapRead (a : Agent) (nse : Bool) (timer : BitVec 4) (k : BitVec 1) (s : State) : Host.Outcome State Fault Refusal :=
  .next (whenWritable a (onDev (readCapture nse timer.toNat k.toNat)) s)

/-- A write of TMR_ALARM_HI arms the alarm (R365). -/
def armAlarm (v : Word) (d : Dev) : Dev :=
  let d := setR d TMR_ALARM_HI v
  { d with tm := { d.tm with alarmArmed := true } }

/-- ALARM_ARM. -/
def execAlarmArm (a : Agent) (v : Word) (s : State) : Host.Outcome State Fault Refusal :=
  .next (whenWritable a (onDev (armAlarm v)) s)

/-- The alarm (R365): an armed alarm that SYS_TIME has reached sets source 7 once. -/
def ringAlarm (d : Dev) : Dev :=
  if d.tm.alarmArmed && decide (get2 d TMR_ALARM_LO ≤ sysTime d) then
    irqEvent 7 { d with tm := { d.tm with alarmArmed := false } } else d

/-- ALARM. -/
def execAlarm (s : State) : Host.Outcome State Fault Refusal := .next (whenAlive (onDev ringAlarm) s)

/-- COUNT is reloaded from LOAD. -/
def reload (c : Nat) (d : Dev) : Dev := setR d (TMR_WDT_COUNT c) (getR d (TMR_WDT_LOAD c))

/-- A watchdog expires (R366, R367): recorded, ACTION taken, COUNT reloaded. -/
def expire (c : Nat) (s : State) : State :=
  let act := getF s.dev (TMR_WDT_CTL_ACTION c)
  let s := onDev (faultEvent 0x1A c (trvCount s.dev)) s
  let s := if act == 1 then coreReset c s else if act == 2 then onDev (stopCore c) s else s
  onDev (reload c) s

/-- A write of TMR_WDT_KICK (R366). -/
def writeKick (c : Nat) (v : Word) (s : State) : State :=
  if v.toNat % 65536 == 0xC1A0 then onDev (reload c) s else expire c s

/-- KICK. -/
def execKick (a : Agent) (c : BitVec 5) (v : Word) (s : State) : Host.Outcome State Fault Refusal :=
  .next (whenWritable a (fun s => settle (writeKick c.toNat v s)) s)

/-- A write of TMR_WDT_CTL (R366): ENABLE written to 1 loads COUNT, a 0 is ignored. -/
def writeWdt (c : Nat) (v : Word) (d : Dev) : Dev :=
  let on := flag d (TMR_WDT_CTL_ENABLE c)
  let d := setF (setFlag d (TMR_WDT_CTL_ENABLE c) (on || v.getLsbD 0)) (TMR_WDT_CTL_ACTION c) (bitsOf v.toNat 2 1)
  if v.getLsbD 0 then reload c d else d

/-- Whether a watchdog counts (R366, R367, R444): enabled, its core running, waiting or locked up, and no halt or paused
monitor holds it. -/
def watchdogCounts (d : Dev) (c : Nat) : Bool :=
  let g := coreOf d c
  flag d (TMR_WDT_CTL_ENABLE c) && flag d (GCORE_CTL_RUN c) && !g.halted && !flag d DBG_HALT_HALTED &&
    !(g.monitor.isSome && flag d (DBG_CORE_CTL_WDT_PAUSE c))

/-- A counting watchdog comes to WARN (R366): source 128 + c is set. A count already below WARN does not reach it. -/
def warn (c : Nat) (d : Dev) : Dev :=
  let w := getR d (TMR_WDT_WARN c)
  if watchdogCounts d c && w != 0#32 && decide (w.toNat ≤ (getR d (TMR_WDT_COUNT c)).toNat) then
    irqEvent (128 + c) (setR d (TMR_WDT_COUNT c) w)
  else d

/-- WATCHDOG_WARNING. -/
def execWatchdogWarning (c : BitVec 5) (s : State) : Host.Outcome State Fault Refusal :=
  .next (whenAlive (onDev (warn c.toNat)) s)

/-- WATCHDOG_EXPIRY. -/
def execWatchdogExpiry (c : BitVec 5) (s : State) : Host.Outcome State Fault Refusal :=
  .next (whenAlive (fun s => if watchdogCounts s.dev c.toNat then settle (expire c.toNat s) else s) s)

end Sys2Proof.Machine
end

