-- ==== Sys2Proof/Machine/Gpio.lean ====
section
/-! DEFINITION. The commands of the general-purpose pins (R368, R373, R374). -/

namespace Sys2Proof.Machine

/-- A write of GPIO_PIN_n (R368, R373, R374): FUNC 7 to 14 act as 15; setting HOLD keeps the pad as it is, clearing it lets the pad
take its settings in one update, unless another cause holds it. -/
def writePin (n : Nat) (v : Word) (d : Dev) : Dev :=
  let was := flag d (GPIO_PIN_HOLD n)
  let pad := padNow d n
  let f := v.toNat % 16
  let d := plainWrite (GPIO_PIN n) v d
  let d := if 7 ≤ f then setF d (GPIO_PIN_FUNC n) 15 else d
  let now := flag d (GPIO_PIN_HOLD n)
  if now && !was then holdPad n pad d else if was && !now then releasePad n d else d

/-- GPIO_PIN_WRITE. -/
def execGpioPinWrite (a : Agent) (pin : BitVec 6) (v : Word) (s : State) : Host.Outcome State Fault Refusal :=
  .next (whenWritable a (onDev (writePin pin.toNat v)) s)

/-- OUT of the pins of a bank whose bit is 1 takes a value; held pins keep their pads (R374). -/
def writeOuts (bankB value : Bool) (v : Word) (d : Dev) : Dev :=
  each ((List.range 32).filter fun i => v.getLsbD i) (fun i d => setFlag d (GPIO_PIN_OUT (i + 32 * b2n bankB)) value) d

/-- GPIO_SET. -/
def execGpioSet (a : Agent) (bankB : Bool) (v : Word) (s : State) : Host.Outcome State Fault Refusal :=
  .next (whenWritable a (onDev (writeOuts bankB true v)) s)

/-- GPIO_CLR. -/
def execGpioClr (a : Agent) (bankB : Bool) (v : Word) (s : State) : Host.Outcome State Fault Refusal :=
  .next (whenWritable a (onDev (writeOuts bankB false v)) s)

/-- A 100-tick pulse ends (R368). -/
def endPulse (p : Pulse) (d : Dev) : Dev :=
  match p with
  | .trigger n => { d with pins := { d.pins with trig := d.pins.trig &&& ~~~(BitVec.ofNat 64 (2 ^ n.toNat)) } }
  | .systrig n => { d with pins := { d.pins with systrig := d.pins.systrig &&& ~~~(BitVec.ofNat 64 (2 ^ n.toNat)) } }
  | .status n => { d with pins := { d.pins with status := d.pins.status &&& ~~~(BitVec.ofNat 8 (2 ^ n.toNat)) } }

/-- PULSE_END. -/
def execPulseEnd (p : Pulse) (s : State) : Host.Outcome State Fault Refusal := .next (whenAlive (onDev (endPulse p)) s)

end Sys2Proof.Machine
end

