-- ==== Sys2Proof/Machine/Dma.lean ====
section
/-! DEFINITION. The DMA channels (R379-R385). A transfer's bytes move when its DMA_COMPLETE or DMA_STOP is commanded. -/

namespace Sys2Proof.Machine

/-- The unit of a SWAP (R382). -/
def swapUnit (w : Nat) : Nat := if w == 0 then 1 else if w == 1 then 2 else 4

/-- The source index of destination byte `i` (R382). -/
def swapIndex (w i : Nat) : Nat :=
  let u := swapUnit w
  let j := i % u
  let k := if w == 1 then 1 - j else if w == 2 then 3 - j else if w == 3 then (j + 2) % 4 else j
  i / u * u + k

/-- The transfer address of byte `i` of a side: linear, or circular in the window of 2^w bytes that holds the start (R383). -/
def sideAddr (start w i : Nat) : Nat :=
  if w == 0 then start + i else start / 2 ^ w * 2 ^ w + (start + i) % 2 ^ w

/-- Source, destination and length of a channel. -/
def dmaSrc (d : Dev) (n : Nat) : Nat := (getR d (DMA_SRC_LO n)).toNat + 2 ^ 32 * getF d (DMA_SRC_HI_ADDR n)

/-- The destination address of a channel. -/
def dmaDst (d : Dev) (n : Nat) : Nat := (getR d (DMA_DST_LO n)).toNat + 2 ^ 32 * getF d (DMA_DST_HI_ADDR n)

/-- Whether a wrap setting fails the check of R380: 1 to 3 or 31, or a window that is not inside one region. -/
def wrapBad (start w : Nat) : Bool :=
  if w == 0 then false
  else if w < 4 || w == 31 then true
  else
    let base := start / 2 ^ w * 2 ^ w
    regionOf base == none || regionOf base != regionOf (base + 2 ^ w - 1)

/-- The PARAM check at START (R380). -/
def dmaParamBad (d : Dev) (n : Nat) : Bool :=
  getF d (DMA_LEN_LEN n) % swapUnit (getF d (DMA_CFG_SWAP n)) != 0 ||
    wrapBad (dmaSrc d n) (getF d (DMA_CFG_SRC_WRAP n)) || wrapBad (dmaDst d n) (getF d (DMA_CFG_DST_WRAP n))

/-- A transfer ends with a code, 0 for completion (R384). -/
def dmaEnd (n code count : Nat) (d : Dev) : Dev :=
  let d := setFlag (setF (setF d (DMA_STAT_CODE n) code) (DMA_COUNT_BYTES n) count) (DMA_STAT_BUSY n) false
  if code == 0 then setFlag d (DMA_STAT_DONE n) true else setFlag d (DMA_STAT_ERR n) true

/-- Whether the C4 action has stopped the engines (R238, R385). -/
def engineStopped (d : Dev) : Bool := mode d == 7 || d.md.c4Hold

/-- A write of 1 to START (R380, R385). -/
def dmaStart (n : Nat) (d : Dev) : Dev :=
  if flag d (DMA_STAT_BUSY n) then d
  else if engineStopped d then dmaEnd n 6 0 d
  else if dmaParamBad d n then dmaEnd n 4 0 d
  else if getF d (DMA_LEN_LEN n) == 0 then dmaEnd n 0 0 d
  else setFlag d (DMA_STAT_BUSY n) true

/-- DMA_START. -/
def execDmaStart (a : Agent) (ch : BitVec 4) (v : Word) (s : State) : Host.Outcome State Fault Refusal :=
  .next (whenServed a (onDev fun d => if v.getLsbD 0 then dmaStart ch.toNat d else d) s)

/-- Why reading the source ended: all read, a wait for a rebuild, or a code of DMA_STAT with its address. -/
inductive DmaEnd where
  | all
  | wait
  | stop (code addr : Nat)
deriving DecidableEq, Repr

/-- Read source bytes in order, until the transfer stops (R384); each entry is a source and a destination address. -/
def dmaReads : List (Nat × Nat) → State → List (Nat × Byte) × DmaEnd × State
  | [], s => ([], .all, s)
  | (a, b) :: r, s =>
    if regionOf a == none then ([], .stop 1 a, s)
    else if regionOf b == none then ([], .stop 2 b, s)
    else
      match xferRead a 1 s with
      | (.data bs, s) =>
        let (xs, e, s) := dmaReads r s
        ((b, bs.headD 0) :: xs, e, s)
      | (.wait, s) => ([], .wait, s)
      | (.fault _, s) => ([], .stop 3 a, s)

/-- Maximal runs of consecutive addresses. -/
def addrRuns : List (Nat × Byte) → List (Nat × List Byte)
  | [] => []
  | (a, v) :: r =>
    match addrRuns r with
    | [] => [(a, [v])]
    | (b, vs) :: t => if b == a + 1 then (a, v :: vs) :: t else (a, [v]) :: (b, vs) :: t

/-- The bytes a destination gets (R381): those that lie in the source's range are unpredictable when the destination starts above
the source. -/
def overlapped (src dst : Nat) (sources : List Nat) (xs : List (Nat × Byte)) (d : Dev) : List (Nat × Byte) × Dev :=
  let hit := fun (x : Nat × Byte) => decide (src < dst) && sources.contains x.1
  if xs.any hit then
    let (k, d) := fresh d
    (xs.zipIdx.map fun x => if hit x.1 then (x.1.1, Config.freeByte (2 ^ 24 * k + x.2)) else x.1, d)
  else (xs, d)

/-- Move the first `m` bytes of a transfer, and end it: with `code` when they all moved. -/
def dmaMove (n m code : Nat) (s : State) : State :=
  let d := s.dev
  let w := getF d (DMA_CFG_SWAP n)
  let src := dmaSrc d n
  let dst := dmaDst d n
  let pairs := (List.range m).map fun i =>
    (sideAddr src (getF d (DMA_CFG_SRC_WRAP n)) (swapIndex w i), sideAddr dst (getF d (DMA_CFG_DST_WRAP n)) i)
  match dmaReads pairs s with
  | (_, .wait, s) => s
  | (xs, e, s) =>
    let (xs, d) := overlapped src dst (pairs.map (·.1)) xs s.dev
    let s := each (chunksOf 64 xs) (fun b s => each (addrRuns b) (fun r s => xferWrite r.1 r.2 s) s) { s with dev := d }
    onDev (fun d =>
      match e with
      | .stop c a => dmaEnd n c xs.length (setF (setR d (DMA_FADDR_LO n) (BitVec.ofNat 32 a)) (DMA_FADDR_HI_ADDR n) (a / 2 ^ 32))
      | _ => dmaEnd n code xs.length d) s

/-- A busy channel comes to its end (R384, R385): all its bytes, or, after C4, those before an open burst boundary. -/
def dmaFinish (n : Nat) (s : State) : State :=
  if !flag s.dev (DMA_STAT_BUSY n) then s
  else
    let len := getF s.dev (DMA_LEN_LEN n)
    if engineStopped s.dev then
      let (k, d) := fresh s.dev
      dmaMove n (Config.freeChoice k % len) 6 { s with dev := d }
    else dmaMove n len 0 s

/-- DMA_COMPLETE. -/
def execDmaComplete (ch : BitVec 4) (s : State) : Host.Outcome State Fault Refusal :=
  .next (whenGranted (fun s => settle (dmaFinish ch.toNat s)) s)

/-- A write of 1 to STOP (R384, R385): the channel ends at the next burst boundary; `moved` says which. Completion stands when
every byte has moved. -/
def dmaStopAt (n moved : Nat) (s : State) : State :=
  if !flag s.dev (DMA_STAT_BUSY n) then s
  else if engineStopped s.dev || getF s.dev (DMA_LEN_LEN n) ≤ moved then dmaFinish n s
  else dmaMove n (moved / 64 * 64) 5 s

/-- DMA_STOP. -/
def execDmaStop (a : Agent) (ch : BitVec 4) (v : Word) (moved : BitVec 24) (s : State) : Host.Outcome State Fault Refusal :=
  .next (whenServed a (fun s => if v.getLsbD 1 then settle (dmaStopAt ch.toNat moved.toNat s) else s) s)

end Sys2Proof.Machine
end

