-- ==== Sys2Proof/Machine/Float.lean ====
section
/-! DEFINITION. The Float engine (R391-R395). An operation's pixels are written when its FLOAT_COMPLETE or FLOAT_ABORT is
commanded. -/

namespace Sys2Proof.Machine

/-- Bytes per pixel of a format (R391). -/
def pixBytes (fmt : Nat) : Nat := if fmt == 0 then 1 else if fmt == 1 then 2 else 4

/-- What a pitch must be a multiple of (R391). -/
def pitchUnit (fmt : Nat) : Nat := if fmt == 0 then 16 else if fmt == 1 then 32 else 64

/-- A channel of `k` bits taken to 10 bits by repeating its bits from the most significant down (R393). -/
def toTen (k v : Nat) : Nat :=
  let m := (10 + k - 1) / k
  let w := (List.range m).foldl (fun x _ => x * 2 ^ k + v) 0
  w / 2 ^ (k * m - 10)

/-- A channel of 10 bits narrowed to its `k` most significant bits (R393). -/
def fromTen (k v : Nat) : Nat := v / 2 ^ (10 - k)

/-- Alpha, red, green and blue, 10 bits each. -/
structure Pix where
  a : Nat
  r : Nat
  g : Nat
  b : Nat
deriving DecidableEq, Repr

/-- A pixel word converted; a missing alpha is 1,023, and an A8 pixel's colours are those of `color` (R393). -/
def decodePix (fmt : Nat) (color : Pix) (w : Nat) : Pix :=
  if fmt == 0 then { color with a := toTen 8 (w % 256) }
  else if fmt == 1 then ⟨1023, toTen 5 (bitsOf w 15 11), toTen 6 (bitsOf w 10 5), toTen 5 (bitsOf w 4 0)⟩
  else if fmt == 2 then ⟨toTen 8 (bitsOf w 31 24), toTen 8 (bitsOf w 23 16), toTen 8 (bitsOf w 15 8), toTen 8 (bitsOf w 7 0)⟩
  else ⟨toTen 2 (bitsOf w 31 30), bitsOf w 29 20, bitsOf w 19 10, bitsOf w 9 0⟩

/-- A pixel narrowed to a format's word (R393). -/
def encodePix (fmt : Nat) (p : Pix) : Nat :=
  if fmt == 0 then fromTen 8 p.a
  else if fmt == 1 then fromTen 5 p.r * 2 ^ 11 + fromTen 6 p.g * 2 ^ 5 + fromTen 5 p.b
  else if fmt == 2 then fromTen 8 p.a * 2 ^ 24 + fromTen 8 p.r * 2 ^ 16 + fromTen 8 p.g * 2 ^ 8 + fromTen 8 p.b
  else fromTen 2 p.a * 2 ^ 30 + p.r * 2 ^ 20 + p.g * 2 ^ 10 + p.b

/-- BLEND of a source pixel with a destination pixel (R393). -/
def blendPix (pp : Bool) (galpha : Nat) (s d : Pix) : Pix :=
  let a := if pp then (s.a * galpha + 511) / 1023 else galpha
  let mix := fun (x y : Nat) => (x * a + y * (1023 - a) + 511) / 1023
  ⟨a + (d.a * (1023 - a) + 511) / 1023, mix s.r d.r, mix s.g d.g, mix s.b d.b⟩

/-- An operation as the registers give it. -/
structure FloatOp where
  op : Nat
  sfmt : Nat
  dfmt : Nat
  pp : Bool
  src : Nat
  spitch : Nat
  dst : Nat
  dpitch : Nat
  w : Nat
  h : Nat
  color : Nat
  galpha : Nat
deriving DecidableEq, Repr

/-- The operation the registers describe. -/
def floatOp (d : Dev) : FloatOp where
  op := getF d FLOAT_OP_OP
  sfmt := getF d FLOAT_OP_SFMT
  dfmt := getF d FLOAT_OP_DFMT
  pp := flag d FLOAT_OP_PP
  src := (getR d FLOAT_SRC_LO).toNat + 2 ^ 32 * getF d FLOAT_SRC_HI_ADDR
  spitch := getF d FLOAT_SPITCH_PITCH
  dst := (getR d FLOAT_DST_LO).toNat + 2 ^ 32 * getF d FLOAT_DST_HI_ADDR
  dpitch := getF d FLOAT_DPITCH_PITCH
  w := getF d FLOAT_SIZE_W
  h := getF d FLOAT_SIZE_H
  color := (getR d FLOAT_COLOR).toNat
  galpha := getF d FLOAT_GALPHA_G

/-- The extent of a surface in bytes, from its base to its last byte (R392). -/
def extent (w h pitch fmt : Nat) : Nat := (h - 1) * pitch + w * pixBytes fmt

/-- Whether an extent lies wholly in HBM or wholly in the Screed (R392). -/
def surfaceIn (base n : Nat) : Bool :=
  decide (base + n ≤ hbmSize) || (decide (screedBase ≤ base) && decide (base + n ≤ screedBase + screedSize))

/-- The check at START (R391, R392, R394): 0, or FLOAT_STAT.CODE of the first check that fails. -/
def floatCheck (x : FloatOp) : Nat :=
  let uses := x.op != 0
  let se := extent x.w x.h x.spitch x.sfmt
  let de := extent x.w x.h x.dpitch x.dfmt
  if x.op == 3 || x.w == 0 || 8192 < x.w || x.h == 0 || 8192 < x.h || decide (x.dpitch < x.w * pixBytes x.dfmt) ||
    (uses && decide (x.spitch < x.w * pixBytes x.sfmt)) then 1
  else if x.dst % pixBytes x.dfmt != 0 || x.dpitch % pitchUnit x.dfmt != 0 ||
    (uses && (x.src % pixBytes x.sfmt != 0 || x.spitch % pitchUnit x.sfmt != 0)) then 2
  else if !surfaceIn x.dst de || (uses && !surfaceIn x.src se) then 3
  else if uses && decide (x.src < x.dst + de) && decide (x.dst < x.src + se) &&
    !(x.sfmt == x.dfmt && x.spitch == x.dpitch) then 4
  else 0

/-- An operation ends with a code, 0 for completion. -/
def floatEnd (code rows : Nat) (d : Dev) : Dev :=
  let d := setFlag (setF (setF d FLOAT_STAT_CODE code) FLOAT_STAT_ROWS rows) FLOAT_STAT_BUSY false
  if code == 0 then setFlag d FLOAT_STAT_DONE true else setFlag d FLOAT_STAT_ERR true

/-- A write of 1 to START (R392, R395). -/
def floatStart (d : Dev) : Dev :=
  if flag d FLOAT_STAT_BUSY then d
  else if engineStopped d then floatEnd 6 0 d
  else
    let c := floatCheck (floatOp d)
    if c != 0 then floatEnd c 0 d else setFlag d FLOAT_STAT_BUSY true

/-- A write of FLOAT_CTRL.START while OP selects `op`. -/
def startOp (op : Nat) (v : Word) (d : Dev) : Dev := if v.getLsbD 0 && getF d FLOAT_OP_OP == op then floatStart d else d

/-- FILL. -/
def execFill (a : Agent) (v : Word) (s : State) : Host.Outcome State Fault Refusal :=
  .next (whenServed a (onDev (startOp 0 v)) s)

/-- COPY. -/
def execCopy (a : Agent) (v : Word) (s : State) : Host.Outcome State Fault Refusal :=
  .next (whenServed a (onDev (startOp 1 v)) s)

/-- BLEND. -/
def execBlend (a : Agent) (v : Word) (s : State) : Host.Outcome State Fault Refusal :=
  .next (whenServed a (onDev (startOp 2 v)) s)

/-- The pixel words of a row. -/
def rowPix (fmt : Nat) (bs : List Byte) : List Nat := (chunksOf (pixBytes fmt) bs).map natOf

/-- The bytes one destination row gets, from the bytes of its source and destination rows (R393). -/
def rowOut (x : FloatOp) (src dst : List Byte) : List Byte :=
  let color := decodePix x.dfmt ⟨0, 0, 0, 0⟩ x.color
  let out := fun (w : Nat) => bytesOf (pixBytes x.dfmt) w
  if x.op == 0 then (List.replicate x.w (out x.color)).flatten
  else
    let ss := (rowPix x.sfmt src).map (decodePix x.sfmt color)
    if x.op == 1 then ss.flatMap fun p => out (encodePix x.dfmt p)
    else
      let ds := (rowPix x.dfmt dst).map (decodePix x.dfmt color)
      (ss.zip ds).flatMap fun p => out (encodePix x.dfmt (blendPix x.pp x.galpha p.1 p.2))

/-- Read what an operation needs of a row. -/
def rowRead (x : FloatOp) (y : Nat) (s : State) : Got × State :=
  if x.op == 0 then (.data (rowOut x [] []), s)
  else
    match xferRead (x.src + y * x.spitch) (x.w * pixBytes x.sfmt) s with
    | (.data sb, s) =>
      if x.op == 1 then (.data (rowOut x sb []), s)
      else
        match xferRead (x.dst + y * x.dpitch) (x.w * pixBytes x.dfmt) s with
        | (.data db, s) => (.data (rowOut x sb db), s)
        | r => r
    | r => r

/-- Read rows in order until one fails: rows read, and 0 all, 1 a wait for a rebuild, 2 an uncorrectable word. -/
def rowsRead (x : FloatOp) : List Nat → State → List (Nat × List Byte) × Nat × State
  | [], s => ([], 0, s)
  | y :: r, s =>
    match rowRead x y s with
    | (.data bs, s) =>
      let (xs, e, s) := rowsRead x r s
      ((y, bs) :: xs, e, s)
    | (.wait, s) => ([], 1, s)
    | (.fault _, s) => ([], 2, s)

/-- The rows in the order of R394: descending when the extents overlap and the destination does not lie below the source. -/
def rowOrder (x : FloatOp) : List Nat :=
  let clash := x.op != 0 && decide (x.src < x.dst + extent x.w x.h x.dpitch x.dfmt) &&
    decide (x.dst < x.src + extent x.w x.h x.spitch x.sfmt)
  if clash && decide (x.src ≤ x.dst) then (List.range x.h).reverse else List.range x.h

/-- Write the first `n` rows of the operation, and end it with `code` when none fails. -/
def floatRows (n code : Nat) (s : State) : State :=
  let x := floatOp s.dev
  match rowsRead x ((rowOrder x).take n) s with
  | (_, 1, s) => s
  | (rows, e, s) =>
    let s := each rows (fun r s => xferWrite (x.dst + r.1 * x.dpitch) r.2 s) s
    onDev (floatEnd (if e == 2 then 5 else code) rows.length) s

/-- The operation stops at an open row boundary with code 6 (R395). -/
def floatCut (s : State) : State :=
  let (k, d) := fresh s.dev
  floatRows (Config.freeChoice k % (floatOp d).h) 6 { s with dev := d }

/-- FLOAT_ABORT. -/
def execFloatAbort (a : Agent) (v : Word) (s : State) : Host.Outcome State Fault Refusal :=
  .next (whenServed a (fun s => if v.getLsbD 1 && flag s.dev FLOAT_STAT_BUSY then settle (floatCut s) else s) s)

/-- FLOAT_COMPLETE; after C4 the operation has stopped at a row boundary. -/
def execFloatComplete (s : State) : Host.Outcome State Fault Refusal :=
  .next (whenGranted (fun s =>
    if !flag s.dev FLOAT_STAT_BUSY then s
    else settle (if engineStopped s.dev then floatCut s else floatRows (floatOp s.dev).h 0 s)) s)

end Sys2Proof.Machine
end

