-- ==== Sys2Proof/Machine/Compose.lean ====
section
/-! DEFINITION. The composed image (R405-R412): what every active pixel of a frame is, from the fields in force, the line list's
overlay, the Screed and the capture buffers shown. -/

namespace Sys2Proof.Machine

/-- A SH register of the bridge under an overlay of the line list. -/
def ovGet (d : Dev) (ov : Store Word) (off : Nat) : Word := sget (fun k => sget regReset d.inForce k) ov off

/-- A field of it. -/
def ovF (d : Dev) (ov : Store Word) (f : Fld) : Nat := fieldOf (ovGet d ov f.off) f

/-- The overlay in force on an active line (R412). -/
def lineOverlay (d : Dev) (y : Nat) : Store Word :=
  match d.vid.hist.find? fun h => decide (h.1 ≤ y) with
  | some h => h.2
  | none => []

/-- A signed field of `n` bits. -/
def signedF (n v : Nat) : Int := if 2 ^ (n - 1) ≤ v then (v : Int) - 2 ^ n else v

/-- A byte of the Screed by its offset; beyond it the rules give no value. -/
def screedByte (d : Dev) (o : Nat) : Byte := if o < screedSize then sget sram0 d.screed o else Config.freeByte o

/-- `n` bytes of the Screed as a number. -/
def screedNat (d : Dev) (o n : Nat) : Nat := natOf ((List.range n).map fun i => screedByte d (o + i))

/-- The palette entry `i` of skim layer `n` (R405). -/
def paletteOf (d : Dev) (n i : Nat) : Pix :=
  decodePix 2 ⟨0, 0, 0, 0⟩ (sget regReset d.inForce (0x205000 + 0x400 * (n - 4) + 4 * i)).toNat

/-- Bytes per pixel of a layer format: 4 is I8. -/
def layerBytes (fmt : Nat) : Nat := if fmt == 4 then 1 else pixBytes fmt

/-- A pixel word of a layer as 10-bit channels (R405). -/
def layerPix (d : Dev) (n fmt w : Nat) : Pix :=
  if fmt == 4 then paletteOf d n (w % 256)
  else if fmt == 0 then
    let c := if 4 ≤ n then paletteOf d n 0
      else
        let v := (Config.a8Colour n).toNat
        ⟨0, bitsOf v 29 20, bitsOf v 19 10, bitsOf v 9 0⟩
    decodePix 0 c w
  else decodePix fmt ⟨0, 0, 0, 0⟩ w

/-- Base, pitch and format of a layer's surface; none for a capture port that shows no buffer (R402, R405). -/
def layerSurface (d : Dev) (ov : Store Word) (n : Nat) : Option (Nat × Nat × Nat) :=
  let src := ovF d ov (VID_L_CFG_SRC n)
  if src == 0 then
    some (ovF d ov (VID_L_BASE_OFFSET n), ovF d ov (VID_L_PITCH_BYTES n), ovF d ov (VID_L_CFG_FMT n))
  else
    let p := src - 1
    let b := getF d (VID_C_STAT_SHOWN p)
    if b == 3 then none
    else some (getF d (VID_C_BASE_OFFSET p) + b * getF d (VID_C_STRIDE_BYTES p), getF d (VID_C_PITCH_BYTES p), getF d (VID_C_CFG_FMT p))

/-- Pixel (x, y) of a bitmap surface. -/
def bitmapPix (d : Dev) (n base pitch fmt x y : Nat) : Pix :=
  layerPix d n fmt (screedNat d (base + y * pitch + x * layerBytes fmt) (layerBytes fmt))

/-- Pixel (x, y) of a tiled plane, its coordinates wrapped; none for a map entry with reserved bits set (R409). -/
def tilePix (d : Dev) (ov : Store Word) (n x y : Nat) : Option Pix :=
  let t := if ovF d ov (VID_L_CFG_TSIZE n) == 1 then 16 else 8
  let mw := ovF d ov (VID_L_MAPW_MAPW n)
  let mh := ovF d ov (VID_L_MAPW_MAPH n)
  let fmt := ovF d ov (VID_L_CFG_FMT n)
  let x := x % (mw * t)
  let y := y % (mh * t)
  let e := screedNat d (ovF d ov (VID_L_TMAP_OFFSET n) + 2 * (y / t * mw + x / t)) 2
  if 4096 ≤ e then none
  else
    let px := if bitOf e 10 then t - 1 - x % t else x % t
    let py := if bitOf e 11 then t - 1 - y % t else y % t
    some (bitmapPix d n (ovF d ov (VID_L_BASE_OFFSET n) + e % 1024 * t * t * layerBytes fmt) (t * layerBytes fmt) fmt px py)

/-- Pixel (x, y) of a layer's source rectangle; none where it contributes nothing. -/
def sourcePix (d : Dev) (ov : Store Word) (n x y : Nat) : Option Pix :=
  let x := x + ovF d ov (VID_L_OFS_X n)
  let y := y + ovF d ov (VID_L_OFS_Y n)
  if 4 ≤ n && ovF d ov (VID_L_CFG_TILE n) == 1 then tilePix d ov n x y
  else (layerSurface d ov n).map fun s => bitmapPix d n s.1 s.2.1 s.2.2 x y

/-- The size of a layer's oriented image (R406). -/
def orientedSize (d : Dev) (ov : Store Word) (n : Nat) : Nat × Nat :=
  let w := ovF d ov (VID_L_SRC_W n)
  let h := ovF d ov (VID_L_SRC_H n)
  if ovF d ov (VID_L_CFG_ROT n) % 2 == 1 then (h, w) else (w, h)

/-- Oriented pixel (u, v) of a layer (R406). -/
def orientedPix (d : Dev) (ov : Store Word) (n u v : Nat) : Option Pix :=
  let w := ovF d ov (VID_L_SRC_W n)
  let h := ovF d ov (VID_L_SRC_H n)
  let rot := ovF d ov (VID_L_CFG_ROT n)
  let u := if ovF d ov (VID_L_CFG_MIRROR n) == 1 then (orientedSize d ov n).1 - 1 - u else u
  if rot == 0 then sourcePix d ov n u v
  else if rot == 1 then sourcePix d ov n v (h - 1 - u)
  else if rot == 2 then sourcePix d ov n (w - 1 - u) (h - 1 - v)
  else sourcePix d ov n (w - 1 - v) u

/-- A layer's destination size: DSIZE for a video layer, the oriented size for a skim layer (R407, R409). -/
def destSize (d : Dev) (ov : Store Word) (n : Nat) : Nat × Nat :=
  if n < 4 then (ovF d ov (VID_L_DSIZE_W n), ovF d ov (VID_L_DSIZE_H n)) else orientedSize d ov n

/-- Clamp an integer into a range of numbers. -/
def clampN (v : Int) (lo hi : Nat) : Nat := if v < lo then lo else if (hi : Int) < v then hi else v.toNat

/-- Position and phase of output sample `x` over `w` source samples and `dst` output samples (R407). -/
def scalePos (w dst x : Nat) : Int × Nat :=
  let step := w * 2 ^ 16 / dst
  let pos : Int := (x : Int) * step + (step / 2 : Nat) - 32768
  (pos / 2 ^ 16, (pos / 1024 % 64).toNat)

/-- The taps of a horizontal phase of layer `n`, or the vertical ones (R407). -/
def coefs (d : Dev) (n : Nat) (vertical : Bool) (phase : Nat) : List Int :=
  let base := 0x204000 + 0x400 * n + (if vertical then 0x200 else 0) + 8 * phase
  let a := (sget regReset d.inForce base).toNat
  let b := (sget regReset d.inForce (base + 4)).toNat
  let t := fun (v i : Nat) => signedF 10 (bitsOf v (10 * i + 9) (10 * i))
  [t a 0, t a 1, t a 2, t b 0] ++ (if vertical then [] else [t b 1, t b 2])

/-- A filter's sum, rounded and clamped (R407). -/
def filterSum (cs : List Int) (vs : List Nat) : Nat :=
  clampN (((cs.zip vs).foldl (fun (s : Int) p => s + p.1 * (p.2 : Int)) 0 + 128) / 256) 0 1023

/-- Apply a filter to each channel of a row of pixels. -/
def filterPix (cs : List Int) (ps : List Pix) : Pix :=
  ⟨filterSum cs (ps.map (·.a)), filterSum cs (ps.map (·.r)), filterSum cs (ps.map (·.g)), filterSum cs (ps.map (·.b))⟩

/-- A pixel, or all zeros where there is none (a video layer's surface is there for all its pixels or for none). -/
def pixOr (p : Option Pix) : Pix := p.getD ⟨0, 0, 0, 0⟩

/-- Output pixel (x, y) of a scaled layer (R407). -/
def scaledPix (d : Dev) (ov : Store Word) (n x y : Nat) : Pix :=
  let o := orientedSize d ov n
  let t := destSize d ov n
  let (i, ph) := scalePos o.1 t.1 x
  let (j, pv) := scalePos o.2 t.2 y
  let line := fun (v : Nat) => filterPix (coefs d n false ph)
    ((List.range 6).map fun (k : Nat) => pixOr (orientedPix d ov n (clampN (i - 2 + (k : Int)) 0 (o.1 - 1)) v))
  filterPix (coefs d n true pv) ((List.range 4).map fun (k : Nat) => line (clampN (j - 1 + (k : Int)) 0 (o.2 - 1)))

/-- Whether a video layer scales: its destination size is not its oriented size (R407). -/
def scales (d : Dev) (ov : Store Word) (n : Nat) : Bool := decide (n < 4) && destSize d ov n != orientedSize d ov n

/-- Pixel (x, y) of a layer's destination rectangle (R407, R408): scaled, taken point by point in a fall-back, or copied. -/
def layerOut (d : Dev) (ov : Store Word) (n x y : Nat) : Option Pix :=
  if !scales d ov n then orientedPix d ov n x y
  else if (layerSurface d ov n).isNone then none
  else if ovF d ov (VID_L_CFG_NEAREST n) == 1 || flag d (VID_L_STAT_FALLBACK n) then
    let o := orientedSize d ov n
    let t := destSize d ov n
    orientedPix d ov n ((2 * x + 1) * o.1 / (2 * t.1)) ((2 * y + 1) * o.2 / (2 * t.2))
  else some (scaledPix d ov n x y)

/-- The composed pixel (x, y) (R410): the background, then the layers L0 to L7. -/
def composed (d : Dev) (x y : Nat) : Pix :=
  let ov := lineOverlay d y
  let bg := ovF d ov VID_BG_RGB
  (List.range 8).foldl (fun under n =>
    let px := ovF d ov (VID_L_DPOS_X n)
    let py := ovF d ov (VID_L_DPOS_Y n)
    let t := destSize d ov n
    if ovF d ov (VID_L_CFG_EN n) == 1 && decide (px ≤ x) && decide (x < px + t.1) && decide (py ≤ y) && decide (y < py + t.2) then
      match layerOut d ov n (x - px) (y - py) with
      | some p => blendPix (ovF d ov (VID_L_CFG_PP n) == 1) (ovF d ov (VID_L_GALPHA_G n)) p under
      | none => under
    else under) ⟨1023, bitsOf bg 29 20, bitsOf bg 19 10, bitsOf bg 9 0⟩

/-- The CRC-32 of a region check's rectangle (R413). -/
def regionCrc (d : Dev) (r : Nat) : Nat :=
  let x0 := getSh d (VID_RC_POS_X r)
  let y0 := getSh d (VID_RC_POS_Y r)
  crc32 ((List.range (getSh d (VID_RC_SIZE_H r))).flatMap fun j =>
    (List.range (getSh d (VID_RC_SIZE_W r))).flatMap fun i =>
      let p := composed d (x0 + i) (y0 + j)
      bytesOf 4 (p.b + p.g * 2 ^ 10 + p.r * 2 ^ 20))

end Sys2Proof.Machine
end

