-- ==== Sys2Proof/Machine/Video.lean ====
section
/-! DEFINITION. The commands of the video bridge (R396-R420). -/

namespace Sys2Proof.Machine

/-- A field of the set of SH values `g` gives. -/
def setF' (g : Nat → Word) (f : Fld) : Nat := fieldOf (g f.off) f

/-- Whether timing values are valid (R396), and BPC is not 3 (R399). -/
def timingOk (g : Nat → Word) : Bool :=
  let v := setF' g
  let ha := v VID_HTIM_HACTIVE
  let ht := v VID_HTIM_HTOTAL
  let va := v VID_VTIM_VACTIVE
  let vt := v VID_VTIM_VTOTAL
  decide (64 ≤ ha) && decide (ha ≤ 3840) && decide (64 ≤ va) && decide (va ≤ 2160) && decide (ha + 32 ≤ ht) &&
    decide (ht ≤ 8191) && decide (va + 3 ≤ vt) && decide (vt ≤ 4095) &&
    decide (v VID_HSYNC_START + v VID_HSYNC_WIDTH ≤ ht - ha) && decide (v VID_VSYNC_START + v VID_VSYNC_WIDTH ≤ vt - va) &&
    decide (25000 ≤ v VID_PCLK_KHZ) && decide (v VID_PCLK_KHZ ≤ 600000) && v VID_OUT_BPC != 3

/-- FORMAT of a layer (R399): a capture source ignores FMT (R405). -/
def formatOk (g : Nat → Word) (n : Nat) : Bool :=
  let v := setF' g
  let fmt := v (VID_L_CFG_FMT n)
  let src := v (VID_L_CFG_SRC n)
  let tile := v (VID_L_CFG_TILE n) == 1
  decide (src ≤ 4) && (src != 0 || decide (fmt ≤ if n < 4 then 3 else 4)) && !(decide (n < 4) && tile) &&
    !(tile && v (VID_L_CFG_ROT n) != 0) && !(decide (4 ≤ n) && src != 0)

/-- GEOMETRY of a layer (R399). -/
def geometryOk (g : Nat → Word) (n : Nat) : Bool :=
  let v := setF' g
  let ok := fun (x : Nat) => decide (1 ≤ x) && decide (x ≤ 4096)
  let w := v (VID_L_SRC_W n)
  let tile := decide (4 ≤ n) && v (VID_L_CFG_TILE n) == 1
  ok w && ok (v (VID_L_SRC_H n)) && (decide (4 ≤ n) || (ok (v (VID_L_DSIZE_W n)) && ok (v (VID_L_DSIZE_H n)))) &&
    (tile || v (VID_L_CFG_SRC n) != 0 || decide (w * layerBytes (v (VID_L_CFG_FMT n)) ≤ v (VID_L_PITCH_BYTES n))) &&
    (!tile || (v (VID_L_MAPW_MAPW n) != 0 && v (VID_L_MAPW_MAPH n) != 0))

/-- ALIGN of a layer (R399). -/
def alignOk (g : Nat → Word) (n : Nat) : Bool :=
  let v := setF' g
  let fmt := v (VID_L_CFG_FMT n)
  let tile := decide (4 ≤ n) && v (VID_L_CFG_TILE n) == 1
  v (VID_L_CFG_SRC n) != 0 ||
    (v (VID_L_BASE_OFFSET n) % layerBytes fmt == 0 &&
      (tile || v (VID_L_PITCH_BYTES n) % (if fmt == 4 then 16 else pitchUnit fmt) == 0) &&
      (!tile || v (VID_L_TMAP_OFFSET n) % 8 == 0))

/-- RANGE of a layer (R399). -/
def rangeOk (g : Nat → Word) (n : Nat) : Bool :=
  let v := setF' g
  let bpp := layerBytes (v (VID_L_CFG_FMT n))
  let base := v (VID_L_BASE_OFFSET n)
  if v (VID_L_CFG_SRC n) != 0 then true
  else if decide (4 ≤ n) && v (VID_L_CFG_TILE n) == 1 then
    let t := if v (VID_L_CFG_TSIZE n) == 1 then 16 else 8
    decide (base + 1024 * t * t * bpp ≤ screedSize) &&
      decide (v (VID_L_TMAP_OFFSET n) + v (VID_L_MAPW_MAPW n) * v (VID_L_MAPW_MAPH n) * 2 ≤ screedSize)
  else
    decide (base + (v (VID_L_OFS_Y n) + v (VID_L_SRC_H n) - 1) * v (VID_L_PITCH_BYTES n) +
      (v (VID_L_OFS_X n) + v (VID_L_SRC_W n)) * bpp ≤ screedSize)

/-- Whether a layer passes every check of R399. -/
def layerOk (g : Nat → Word) (n : Nat) : Bool := formatOk g n && geometryOk g n && alignOk g n && rangeOk g n

/-- REGION of a check (R399, R414: MODE 3 acts as 0). -/
def regionOk (g : Nat → Word) (r : Nat) : Bool :=
  let v := setF' g
  let m := v (VID_RC_CTL_MODE r)
  let w := v (VID_RC_SIZE_W r)
  let h := v (VID_RC_SIZE_H r)
  m == 0 || m == 3 || (w != 0 && h != 0 && decide (v (VID_RC_POS_X r) + w ≤ v VID_HTIM_HACTIVE) &&
    decide (v (VID_RC_POS_Y r) + h ≤ v VID_VTIM_VACTIVE))

/-- The code of the first check a set fails; 0 when it passes (R399). -/
def commitCode (g : Nat → Word) : Nat :=
  let v := setF' g
  let on := (List.range 8).filter fun n => v (VID_L_CFG_EN n) == 1
  let ll := v VID_LL_BASE_EN == 1
  if !timingOk g then 1
  else if !on.all (formatOk g) then 2
  else if !on.all (geometryOk g) then 3
  else if !on.all (alignOk g) || (ll && v VID_LL_BASE_BASE % 8 != 0) then 4
  else if !on.all (rangeOk g) || (ll && decide (screedSize < v VID_LL_BASE_BASE + 8)) then 5
  else if !(List.range 16).all (regionOk g) then 6
  else 0

/-- Set an event of VID_ISTAT. -/
def vidEvent (i : Nat) (d : Dev) : Dev := setFlag d (bitFld VID_ISTAT i) true

/-- Whether an offset holds shadowed bits. -/
def isShadow (off : Nat) : Bool :=
  match regDesc? off with
  | some r => r.sh != 0
  | none => false

/-- All shadow values of the bridge take effect together (R398). -/
def takeShadows (d : Dev) : Dev :=
  let inside := fun (o : Nat) => decide (0x200000 ≤ o) && decide (o < 0x240000)
  { d with inForce := (d.inForce.filter fun e => decide (e.1 < 0x200000)) ++ (d.regs.filter fun e => inside e.1 && isShadow e.1) ++
      d.inForce.filter fun e => decide (0x240000 ≤ e.1) }

/-- A pending commit at the frame boundary (R398). -/
def commitFrame (d : Dev) : Dev :=
  if !flag d VID_COMMIT_GO then d
  else
    let d := setFlag d VID_COMMIT_GO false
    let c := commitCode (getR d)
    let d := setF d VID_COMMIT_ERR c
    if c == 0 then takeShadows d else d

/-- Region checks at the end of a frame (R413, R414). -/
def compareRegions (d : Dev) : Dev :=
  if d.vid.halted || engineStopped d then d
  else
    let rs := (List.range 16).filter fun r => getSh d (VID_RC_CTL_MODE r) == 1 || getSh d (VID_RC_CTL_MODE r) == 2
    let crcs := rs.map fun r => (r, regionCrc d r)
    let frame := getR d VID_FRAMES
    each crcs (fun x d =>
      let r := x.1
      let d := setR (setR d (VID_RC_CRC r) (BitVec.ofNat 32 x.2)) (VID_RC_FRAME r) frame
      let d := setFlag d (bitFld VID_RC_DONE r) true
      if getSh d (VID_RC_CTL_MODE r) == 1 && x.2 != (inForce d (VID_RC_EXPECT r)).toNat then
        vidEvent 1 { setFlag d (bitFld VID_RC_MISMATCH r) true with
          vs := { d.vs with rcLatch := d.vs.rcLatch ||| BitVec.ofNat 16 (2 ^ r) } }
      else d) d

/-- A capture port at the frame boundary (R402, R403): its ready frame is shown; a frame that is late is counted and recorded. -/
def latchCapture (p : Nat) (d : Dev) : Dev :=
  let r := getF d (VID_C_STAT_READY p)
  let d := if r != 3 then setF (setF d (VID_C_STAT_SHOWN p) r) (VID_C_STAT_READY p) 3 else d
  if getF d (VID_C_STAT_FILLING p) == 3 then d
  else
    let n := sget zeroAt d.vid.age p + 1
    let d := { d with vid := { d.vid with age := sset zeroAt d.vid.age p n } }
    if getF d (VID_C_CFG_LATE p) == n then faultEvent 0x24 (1 + 2 * p) (trvCount d) (vidEvent 3 (countF d (VID_C_COUNTS_LATE p) 1))
    else d

/-- The frame each layer with a capture source shows. -/
def latchShown (d : Dev) : Dev :=
  each (List.range 4) (fun n d =>
    let src := getSh d (VID_L_CFG_SRC n)
    if src == 0 || 4 < src then d
    else
      let b := getF d (VID_C_STAT_SHOWN (src - 1))
      if b == 3 then d else setR d (VID_L_SHOWN n) (BitVec.ofNat 32 (sget zeroAt d.vid.num (4 * (src - 1) + b)))) d

/-- Whether a layer's demand exceeds the scaler (R408). -/
def overDemand (d : Dev) (n : Nat) : Bool :=
  let o := orientedSize d [] n
  let t := destSize d [] n
  let twice := if getSh d (VID_L_CFG_ROT n) % 2 == 1 then 2 else 1
  scales d [] n && (decide (2 * getSh d VID_HTIM_HTOTAL * getSh d VID_VTIM_VACTIVE < o.1 * o.2 * twice) ||
    decide (8 * t.1 < o.1) || decide (8 * t.2 < o.2))

/-- The fall-back test of R408 for the frame that begins. -/
def fallBacks (d : Dev) : Dev :=
  each (List.range 4) (fun n d =>
    let f := getSh d (VID_L_CFG_EN n) == 1 && getSh d (VID_L_CFG_NEAREST n) == 0 && overDemand d n
    let d := setFlag d (VID_L_STAT_FALLBACK n) f
    if f then vidEvent 3 (countF d (VID_L_STAT_FALLBACKS n) 1) else d) d

/-- The frame boundary (R397): region checks, a pending commit, the capture ports, the line list, and the frame's event. The
timing generator runs while ENABLE is 1, outside BOOT (R419). -/
def frameBoundary (d : Dev) : Dev :=
  if !flag d VID_CTRL_ENABLE || mode d == 0 || !flag d SYS_READY_VID then d
  else
    let d := emit (.frame (getR d VID_FRAMES).toNat (flag d VID_CTRL_BLANK)) (compareRegions d)
    let d := commitFrame d
    let d := latchShown (each (List.range 4) latchCapture d)
    let v := { d.vid with hist := [], llPos := 0, llLast := 0, llCount := 0, llEnded := false, halted := false }
    let d := { d with llOver := [], vid := v }
    let d := fallBacks d
    let d := setF (setFlag d VID_STAT_VBLANK true) VID_STAT_LINE (getSh d VID_VTIM_VACTIVE)
    pulseStatus 7 (vidEvent 0 (setR d VID_FRAMES (getR d VID_FRAMES + 1)))

/-- FRAME_BOUNDARY. -/
def execFrameBoundary (s : State) : Host.Outcome State Fault Refusal := .next (whenGranted (fun s => settle (onDev frameBoundary s)) s)

/-- VID_COMMIT (R398): a write of 0 leaves a pending commit (DESIGN CHOICE, assumptions row 118). -/
def execVidCommit (a : Agent) (v : Word) (s : State) : Host.Outcome State Fault Refusal :=
  .next (whenWritable a (onDev fun d => if v.getLsbD 0 then setFlag d VID_COMMIT_GO true else d) s)

/-- The register and field a line-list entry changes (R411); none for a reserved FIELD. -/
def listField (layer field : Nat) : Option Fld :=
  if field == 0 then some (VID_L_DPOS_X layer) else if field == 1 then some (VID_L_OFS_X layer)
  else if field == 2 then some (VID_L_OFS_Y layer) else if field == 3 then some (VID_L_GALPHA_G layer)
  else if field == 4 then some (VID_L_CFG_EN layer) else if field == 5 then some VID_BG_RGB else none

/-- Whether an entry may change its field (R412): no offset of a scaling video layer, no EN to 1 on a layer the commit did not
leave valid. -/
def listAllowed (d : Dev) (layer field value : Nat) : Bool :=
  !((field == 1 || field == 2) && scales d d.llOver layer) &&
    !(field == 4 && value % 2 == 1 && !layerOk (fun o => sget regReset d.inForce o) layer)

/-- A field's new value stands from a line on. -/
def listApply (line : Nat) (f : Fld) (value : Nat) (d : Dev) : Dev :=
  let w := withField (inForce d f.off) f (value / 2 ^ f.lo)
  let ov := sins (sdel d.llOver f.off) f.off w
  { d with llOver := ov, vid := { d.vid with hist := (line, ov) :: d.vid.hist } }

/-- Read and apply entries of the line list up to a line (R411, R412), at most as many as given. -/
def runList (line : Nat) : Nat → Dev → Dev
  | 0, d => d
  | k + 1, d =>
    let a := getSh d VID_LL_BASE_BASE + 8 * d.vid.llPos
    if d.vid.llEnded || screedSize < a + 8 then d
    else
      let w := screedNat d a 4
      let value := screedNat d (a + 4) 4
      let l := w % 4096
      let layer := bitsOf w 14 12
      let field := bitsOf w 17 15
      match listField layer field with
      | none => countF { d with vid := { d.vid with llEnded := true } } VID_LL_STAT_ORDER 1
      | some f =>
        if l < d.vid.llLast || 2 ^ 19 ≤ w then countF { d with vid := { d.vid with llEnded := true } } VID_LL_STAT_ORDER 1
        else if line < l then d
        else
          let n := if l == d.vid.llLast then d.vid.llCount else 0
          let skip := !listAllowed d layer field value
          let full := 16 ≤ n
          let d := if skip then d else if full then countF d VID_LL_STAT_EXCESS 1 else listApply l f value d
          runList line k { d with vid := { d.vid with
            llPos := d.vid.llPos + 1, llLast := l, llCount := if skip || full then n else n + 1, llEnded := bitOf w 18 } }

/-- The blanking before an active line (R411, R412). -/
def applyList (line : Nat) (d : Dev) : Dev :=
  if !flag d VID_CTRL_ENABLE || mode d == 0 || getSh d VID_VTIM_VACTIVE ≤ line then d
  else
    let d := setF (setFlag d VID_STAT_VBLANK false) VID_STAT_LINE line
    if getSh d VID_LL_BASE_EN == 1 then runList line (screedSize / 8) d else d

/-- LINE_LIST_APPLY. -/
def execLineListApply (line : BitVec 12) (s : State) : Host.Outcome State Fault Refusal :=
  .next (whenGranted (onDev (applyList line.toNat)) s)

/-- Whether a queue is bound to a port other than capture port `p` (R400). -/
def takenByOther (d : Dev) (p q : Nat) : Bool := bridged (setFlag d (VID_C_CFG_EN p) false) q

/-- Why a capture port's EN is refused (R400); 0 when it is not. -/
def captureCode (d : Dev) (p : Nat) : Nat :=
  let q := getF d (VID_C_CFG_QUEUE p)
  let x := qdesc d q
  let fmt := getF d (VID_C_CFG_FMT p)
  let pitch := getF d (VID_C_PITCH_BYTES p)
  let n := if flag d (VID_C_CFG_THREE p) then 3 else 2
  let last := getF d (VID_C_BASE_OFFSET p) + (n - 1) * getF d (VID_C_STRIDE_BYTES p) + (getF d (VID_C_SIZE_H p) - 1) * pitch +
    getF d (VID_C_SIZE_W p) * pixBytes fmt
  if !x.bound || !x.fromDesign || takenByOther d p q then 1
  else if fmt == 0 || screedSize < last || pitch % pitchUnit fmt != 0 || pitch < getF d (VID_C_SIZE_W p) * pixBytes fmt then 2
  else 0

/-- A write of VID_C_CFG (R400, R402): while EN is 1 only EN is written; EN set to 1 is refused or binds the queue. -/
def writeCapture (p : Nat) (v : Word) (d : Dev) : Dev :=
  if flag d (VID_C_CFG_EN p) then setFlag d (VID_C_CFG_EN p) (v.getLsbD 0)
  else
    let d := setFlag (plainWrite (VID_C_CFG p) v d) (VID_C_CFG_EN p) false
    if !v.getLsbD 0 then d
    else
      let c := captureCode d p
      let d := setF d (VID_C_STAT_ERR p) c
      if c == 0 then setFlag d (VID_C_CFG_EN p) true else d

/-- CAPTURE_BIND. -/
def execCaptureBind (a : Agent) (p : BitVec 2) (v : Word) (s : State) : Host.Outcome State Fault Refusal :=
  .next (whenWritable a (onDev (writeCapture p.toNat v)) s)

/-- Whether a capture entry is bad (R401). -/
def entryBad (d : Dev) (p : Nat) (slot : List Byte) : Bool :=
  let len := u32 slot 0
  let w0 := u32 slot 16
  let w1 := u32 slot 20
  let x := w1 % 2 ^ 13
  let n := bitsOf w1 28 16
  let w := getF d (VID_C_SIZE_W p)
  len != (8 + n * pixBytes (getF d (VID_C_CFG_FMT p)) + 3) / 4 * 4 || bitOf (u32 slot 4) 0 || decide (2 ^ 15 ≤ w0) ||
    bitsOf w1 15 13 != 0 || decide (2 ^ 29 ≤ w1) || decide (getF d (VID_C_SIZE_H p) ≤ w0 % 2 ^ 13) || decide (w ≤ x) || n == 0 ||
    decide (w < x + n) || (!bitOf w0 13 && getF d (VID_C_STAT_FILLING p) == 3)

/-- The lowest-numbered FREE buffer (R402). -/
def freeBuf (d : Dev) (p : Nat) : Option Nat :=
  (List.range (if flag d (VID_C_CFG_THREE p) then 3 else 2)).find? fun b =>
    b != getF d (VID_C_STAT_SHOWN p) && b != getF d (VID_C_STAT_READY p) && b != getF d (VID_C_STAT_FILLING p)

/-- Where a FIRST entry puts its frame (R402): the filling buffer of an abandoned frame, or a FREE one; none when there is none. -/
def beginFrame (p : Nat) (d : Dev) : Option Dev :=
  let fresh := fun (d : Dev) => { d with vid := { d.vid with age := sset zeroAt d.vid.age p 0 } }
  if getF d (VID_C_STAT_FILLING p) != 3 then some (fresh (countF d (VID_C_COUNTS_ABANDONED p) 1))
  else (freeBuf d p).map fun b => fresh (setF d (VID_C_STAT_FILLING p) b)

/-- A LAST entry (R402): the frame is READY, one that was READY is skipped. -/
def endFrame (p : Nat) (d : Dev) : Dev :=
  let b := getF d (VID_C_STAT_FILLING p)
  let d := if getF d (VID_C_STAT_READY p) != 3 then countF d (VID_C_COUNTS_SKIPPED p) 1 else d
  let d := setF (setF d (VID_C_STAT_READY p) b) (VID_C_STAT_FILLING p) 3
  let n := getR d (VID_C_FRAMES p) + 1
  let d := setR d (VID_C_FRAMES p) n
  vidEvent 2 { d with vid := { d.vid with num := sset zeroAt d.vid.num (4 * p + b) n.toNat, age := sset zeroAt d.vid.age p 0 } }

/-- A capture port takes the entry in slot CONS (R400-R402): a bad one is freed and counted; the pixels of another are written into
its buffer; either frees the slot. With no buffer for a new frame the port waits. -/
def captureEntry (p : Nat) (s : State) : State :=
  let d := s.dev
  let q := getF d (VID_C_CFG_QUEUE p)
  let x := qdesc d q
  if !flag d (VID_C_CFG_EN p) || mode d == 0 || mode d == 7 || d.md.c4Hold || !x.bound || x.prod ≤ x.cons then s
  else
    let d := engineCheck (wordAddrs (slotAddr x x.cons) (slotBytes x)) d
    let slot := hbmBytes s.mem (slotAddr x x.cons) (slotBytes x)
    if entryBad d p slot then releaseSlots q 1 { s with dev := countF d (VID_C_COUNTS_BAD p) 1 }
    else
      let w0 := u32 slot 16
      let w1 := u32 slot 20
      let bpp := pixBytes (getF d (VID_C_CFG_FMT p))
      match if bitOf w0 13 then beginFrame p d else some d with
      | none => s
      | some d =>
        let b := getF d (VID_C_STAT_FILLING p)
        let a := getF d (VID_C_BASE_OFFSET p) + b * getF d (VID_C_STRIDE_BYTES p) + w0 % 2 ^ 13 * getF d (VID_C_PITCH_BYTES p) +
          w1 % 2 ^ 13 * bpp
        let d := sramWrite none (screedBase + a) ((slot.drop 24).take (bitsOf w1 28 16 * bpp)) d
        releaseSlots q 1 { s with dev := if bitOf w0 14 then endFrame p d else d }

/-- CAPTURE_ENTRY. -/
def execCaptureEntry (p : BitVec 2) (s : State) : Host.Outcome State Fault Refusal :=
  .next (whenGranted (fun s => settle (captureEntry p.toNat s)) s)

/-- The bytes of VID_AUX_DATA. -/
def auxBytes (d : Dev) : List Byte := (List.range 4).flatMap fun i => bytesOf 4 (getR d (VID_AUX_DATA i)).toNat

/-- A write of VID_AUX_CMD (R417): START sends the request unless one runs; a write request carries LEN bytes. -/
def writeAux (v : Word) (d : Dev) : Dev :=
  let d := plainWrite VID_AUX_CMD v d
  if !v.getLsbD 31 || flag d VID_AUX_STAT_BUSY then d
  else
    let req := getF d VID_AUX_CMD_REQ
    let data := if req % 2 == 0 then (auxBytes d).take (getF d VID_AUX_CMD_LEN) else []
    emit (.aux req (getF d VID_AUX_CMD_ADDR) data) (setFlag d VID_AUX_STAT_BUSY true)

/-- AUX_START. -/
def execAuxStart (a : Agent) (v : Word) (s : State) : Host.Outcome State Fault Refusal :=
  .next (whenWritable a (onDev (writeAux v)) s)

/-- An AUX transaction ends (R417): read data replace the first bytes of VID_AUX_DATA. -/
def auxReply (reply : Nat) (data : List Byte) (d : Dev) : Dev :=
  if !flag d VID_AUX_STAT_BUSY || reply == 7 || 16 < data.length then d
  else
    let d := setF (setF (setFlag d VID_AUX_STAT_BUSY false) VID_AUX_STAT_REPLY reply) VID_AUX_STAT_RLEN data.length
    let ws := wordsOf (data ++ (auxBytes d).drop data.length)
    vidEvent 5 (each ws.zipIdx (fun x d => setR d (VID_AUX_DATA x.2) x.1) d)

/-- AUX_REPLY. -/
def execAuxReply (reply : BitVec 3) (data : List Byte) (s : State) : Host.Outcome State Fault Refusal :=
  .next (whenAlive (onDev (auxReply reply.toNat data)) s)

/-- What DP_HPD's filter passes (R418). -/
def hpdChange (e : HpdEvent) (d : Dev) : Dev :=
  match e with
  | .irq => vidEvent 4 (setFlag d VID_DP_STAT_IRQ_HPD true)
  | .level h => if flag d VID_DP_STAT_HPD == h then d else vidEvent 4 (setFlag (setFlag d VID_DP_STAT_HPD h) VID_DP_STAT_PLUG true)

/-- HPD_CHANGE. -/
def execHpdChange (e : HpdEvent) (s : State) : Host.Outcome State Fault Refusal := .next (whenAlive (onDev (hpdChange e)) s)

/-- A write of VID_DP_CTL (R416): LANES, RATE and SSC change only while PATTERN is 0. -/
def writeDp (v : Word) (d : Dev) : Dev :=
  let old := getR d VID_DP_CTL
  let d' := plainWrite VID_DP_CTL v d
  let pat := getF d VID_DP_CTL_PATTERN
  if pat == 0 || 6 ≤ pat then d'
  else setR d' VID_DP_CTL ((getR d' VID_DP_CTL &&& ~~~0x10F#32) ||| (old &&& 0x10F#32))

/-- Whether the stream exceeds the link (R416). -/
def dpOver (d : Dev) : Bool :=
  let bpc := 6 + 2 * getSh d VID_OUT_BPC
  let lanes := ([1, 2, 4, 1] : List Nat).getD (getF d VID_DP_CTL_LANES) 1
  let rate := ([1620000, 2700000, 5400000, 8100000] : List Nat).getD (getF d VID_DP_CTL_RATE) 0
  getF d VID_DP_CTL_PATTERN == 5 && decide (lanes * rate * 8 < 3 * bpc * getSh d VID_PCLK_KHZ * 10)

/-- Whether the stream is sent (R416, R419). -/
def dpVideo (d : Dev) : Bool := getF d VID_DP_CTL_PATTERN == 5 && flag d VID_CTRL_ENABLE && mode d != 0 && !dpOver d

end Sys2Proof.Machine
end

