-- ==== Sys2Proof/Machine/Audio.lean ====
section
/-! DEFINITION. The audio bridge: samples through filter, compressor and gain, blocks, and its commands (R421-R434). -/

namespace Sys2Proof.Machine

/-- What an unlisted audio path holds: no history, gain code 192. -/
def path0 (_ : Nat) : AudPath where
  x1 := 0
  x2 := 0
  y1 := 0
  y2 := 0
  env := 0
  cur := 192
  wait := none
  prev := 0
  raw := 0

/-- Audio path `i`: input paths 0-15, output paths at 16. -/
def pathOf (d : Dev) (i : Nat) : AudPath := sget path0 d.path i

/-- The device with a path replaced. -/
def setPath (d : Dev) (i : Nat) (x : AudPath) : Dev := { d with path := sset path0 d.path i x }

/-- Saturation at 24-bit full scale (R424). -/
def sat24 (v : Int) : Int := if v < -8388608 then -8388608 else if 8388607 < v then 8388607 else v

/-- A quotient by 2^n rounded to nearest. -/
def roundShift (n : Nat) (v : Int) : Int := (v + 2 ^ (n - 1)) / 2 ^ n

/-- b0, b1, a1 and a2 of the high-pass section in 2.30 fixed point (R424), b2 being b0: rate 0 or 1, corner 0 to 3. -/
def hpCoef (rate corner : Nat) : Int × Int × Int × Int :=
  match ([(1071755951, -2143511901, -2143508228, 1069773750), (1069773750, -2139547500, -2139532835, 1065820340),
    (1065820340, -2131640679, -2131582238, 1057957296), (1057957290, -2115914580, -2115682527, 1042404809),
    (1072748428, -2145496855, -2145495936, 1071755951), (1071755951, -2143511901, -2143508228, 1069773750),
    (1069773750, -2139547500, -2139532835, 1065820340), (1065820340, -2131640679, -2131582238, 1057957296)] :
      List (Int × Int × Int × Int))[4 * rate + corner]? with
  | some c => c
  | none => (0, 0, 0, 0)

/-- The high-pass filter (R424): results are kept in 48 bits, 24 of them below the sample's least significant bit. -/
def highPass (rate corner : Nat) (x : Int) (p : AudPath) : Int × AudPath :=
  let (b0, b1, a1, a2) := hpCoef rate corner
  let acc := (b0 * x + b1 * p.x1 + b0 * p.x2) * 2 ^ 24 - a1 * p.y1 - a2 * p.y2
  let y := roundShift 30 acc
  let y := if y < -(2 ^ 47) then -(2 ^ 47) else if 2 ^ 47 - 1 < y then 2 ^ 47 - 1 else y
  (sat24 (roundShift 24 y), { p with x1 := x, x2 := p.x1, y1 := y, y2 := p.y1 })

/-- The largest number below 2^n of which `p` holds, for a `p` that holds of every smaller number too. -/
def largest (p : Nat → Bool) (n : Nat) : Nat :=
  (List.range n).foldl (fun y i => let z := y + 2 ^ (n - 1 - i); if p z then z else y) 0

/-- A sample's size times a factor that `le y` compares with: `le y` says that y, in half units, is at most twice the product; the
result is rounded to nearest, with the sample's sign, and saturated. -/
def scaled (x : Int) (le : Nat → Bool) : Int :=
  let y := largest (fun z => le (2 * z - 1)) 25
  sat24 (if x < 0 then -(y : Int) else y)

/-- The gain of code `g` (R426): (g - 192) × 0.5 dB is the factor 10^((g - 192) / 40). -/
def gainStage (g : Nat) (x : Int) : Int :=
  let a := 2 * x.natAbs
  scaled x fun y => if g ≤ 192 then y ^ 40 * 10 ^ (192 - g) ≤ a ^ 40 else y ^ 40 ≤ a ^ 40 * 10 ^ (g - 192)

/-- Whether an envelope lies above a threshold of -0.5 t dBFS. -/
def above (env t : Nat) : Bool := 2 ^ 920 < env ^ 40 * 10 ^ t

/-- The compressor's reduction with ratio code k, r = k + 1, or r infinite for k = 0 (R425): the exponent of threshold over
envelope is m / n. -/
def drcPower (k : Nat) : Nat × Nat := if k == 0 then (1, 1) else (k, k + 1)

/-- The compressor (R425): the envelope moves toward the sample's size by an open amount, and above the threshold the sample is
reduced. Answers the sample and the reduction in 0.1 dB. -/
def compress (d : Dev) (i : Nat) (x : Int) (p : AudPath) : Int × Nat × AudPath :=
  let t := min 120 (getF d (AUD_I_DRC_THRESH i))
  let rate := if getF d AUD_CTRL_RATE == 1 then 96000 else 48000
  let a := x.natAbs
  let tau := if p.env < a then max 1 (min 1000 (getF d (AUD_I_TIME_ATTACK i)))
    else 10 * max 10 (min 2000 (getF d (AUD_I_TIME_RELEASE i)))
  let env := max (min p.env a) (min (max p.env a) (Config.envelope rate tau p.env a))
  let p := { p with env := env }
  if !above env t then (x, 0, p)
  else
    let (m, n) := drcPower (getF d (AUD_I_DRC_RATIO i))
    let y := scaled x fun z => z ^ (40 * n) * (env ^ (40 * m) * 10 ^ (t * m)) ≤ (2 * a) ^ (40 * n) * 2 ^ (920 * m)
    let gr := largest (fun g => 10 ^ ((2 * g - 1) * n) * 2 ^ (9200 * m) ≤ env ^ (400 * m) * 10 ^ (10 * t * m)) 10
    (y, gr, p)

/-- The gain registers of a path. -/
def gainFlds (i : Nat) : Fld × Fld :=
  if i < 16 then (AUD_I_GAIN_GAIN i, AUD_I_GAIN_ZC_TMO i) else (AUD_O_GAIN_GAIN (i - 16), AUD_O_GAIN_ZC_TMO (i - 16))

/-- The gain a path is to come to (R426). -/
def gainTarget (d : Dev) (i : Nat) : Nat := min 240 (getF d (gainFlds i).1)

/-- One sample through a path's gain stage (R426): a waiting change is applied at a zero crossing, or has waited one sample more. -/
def gainSample (i : Nat) (x : Int) (d : Dev) : Int × Dev :=
  let p := pathOf d i
  let t := gainTarget d i
  let crosses := x == 0 || (decide (x < 0) != decide (p.prev < 0))
  let p := if p.cur == t then { p with wait := none }
    else if crosses then { p with cur := t, wait := none }
    else { p with wait := some (p.wait.getD 0 + 1) }
  (gainStage p.cur x, setPath d i { p with prev := x })

/-- A write of a path's gain register (R426): a new target, and the count starts again. -/
def writeGain (off i : Nat) (v : Word) (d : Dev) : Dev :=
  let d := plainWrite off v d
  let p := pathOf d i
  setPath d i { p with wait := if p.cur == gainTarget d i then none else some 0 }

/-- One sample of input path `i` (R424): filter, compressor, gain. -/
def inputSample (i : Nat) (x : Int) (d : Dev) : Int × Dev :=
  let d := setPath d i { pathOf d i with raw := x }
  let (y, d) := if flag d (AUD_I_CFG_HP i) then
      let (y, p) := highPass (getF d AUD_CTRL_RATE) (getF d (AUD_I_CFG_CORNER i)) x (pathOf d i)
      (y, setPath d i p)
    else (x, d)
  let (y, d) := if flag d (AUD_I_CFG_DRC i) then
      let (z, gr, p) := compress d i y (pathOf d i)
      (z, setF (setPath d i p) (AUD_I_GR_GR i) gr)
    else (y, setF d (AUD_I_GR_GR i) 0)
  gainSample i y d

/-- Frames per block (R421). -/
def blockFrames (d : Dev) : Nat := if getF d AUD_CTRL_RATE == 1 then 96 else 48

/-- Channels of a port. -/
def chansOf (d : Dev) (p : Nat) : Nat := getF d (AUD_P_CFG_CHANS p) + 1

/-- Blocks a clip buffer holds (R432). -/
def clipDepth (d : Dev) (p : Nat) : Nat := max 2 (min 64 (getF d (AUD_P_CLIP_DEPTH p)))

/-- Set an event of AUD_ISTAT. -/
def audEvent (i : Nat) (d : Dev) : Dev := setFlag d (bitFld AUD_ISTAT i) true

/-- Samples of one frame through the input paths of a port; an absent input is 0. -/
def inputFrame (p : Nat) (din : List (BitVec 24)) (d : Dev) : List (BitVec 24) × Dev :=
  let absent := (audOf d p).absent
  (List.range (chansOf d p)).foldl (fun (r : List (BitVec 24) × Dev) c =>
    let x := if absent then 0 else (din.getD c 0#24).toInt
    let (y, d) := inputSample (8 * p + c) x r.2
    (r.1 ++ [BitVec.ofInt 24 (if absent then 0 else y)], d)) ([], d)

/-- A frame of the input on the block timeline (R423, R432). -/
def takeInput (p : Nat) (din : List (BitVec 24)) (d : Dev) : Dev :=
  let (ys, d) := inputFrame p din d
  let x := audOf d p
  setAud d p { x with frames := x.frames ++ [ys], absentIn := if x.frames.isEmpty then x.absent else x.absentIn && x.absent }

/-- One frame of the output paths of a port (R428): what plays, or the monitored input before its filter. -/
def outputFrame (p : Nat) (d : Dev) : List (BitVec 24) × Dev :=
  let x := audOf d p
  let now := x.play.headD []
  let d := setAud d p { x with play := x.play.drop 1 }
  (List.range (chansOf d p)).foldl (fun (r : List (BitVec 24) × Dev) c =>
    let o := 8 * p + c
    let d := r.2
    let v := if flag d (AUD_O_CFG_MON o) then (pathOf d (getF d (AUD_O_CFG_MON_SRC o))).raw
      else (now.getD c 0#24).toInt
    let (y, d) := gainSample (16 + o) v d
    (r.1 ++ [BitVec.ofInt 24 y], d)) ([], d)

/-- One frame of an enabled port (R422, R423, R428, R429, R434): the input is taken, dropped or taken twice as the elastic buffer of
a clock slave slips, and the frame two frames old leaves on DOUT, 0 in BOOT, SAFE and debug halt. -/
def audioFrame (p : Nat) (din : List (BitVec 24)) (slip : Slip) (d : Dev) : Dev :=
  if !flag d (AUD_P_CFG_EN p) || !flag d AUD_STAT_LOCK || mode d == 0 then d
  else
    let slip := if flag d (AUD_P_CFG_MASTER p) then .none else slip
    let d := if slip == .none then d else countF d (AUD_P_FAULTS_SLIPS p) 1
    let d := if slip == .drop then d else takeInput p din d
    let d := if slip == .again then takeInput p din d else d
    let (ys, d) := outputFrame p d
    let x := audOf d p
    let sent := if x.pipe.length < 2 then [] else x.pipe.headD []
    let d := setAud d p { x with pipe := (if x.pipe.length < 2 then x.pipe else x.pipe.drop 1) ++ [ys] }
    let quiet := engineStopped d || flag d DBG_HALT_HALTED
    emit (.audio p ((List.range 8).map fun c => if quiet then 0#24 else sent.getD c 0#24)) d

/-- AUDIO_FRAME. -/
def execAudioFrame (p : BitVec 1) (din : List (BitVec 24)) (slip : Slip) (s : State) : Host.Outcome State Fault Refusal :=
  .next (whenAlive (fun s => audioPublish p.toNat (onDev (audioFrame p.toNat din slip) s)) s)

/-- A dropped block (R432, R433): counted, and reported, only in RUN and RECOVER; `out` says which direction. -/
def dropBlock (p : Nat) (out : Bool) (d : Dev) : Dev :=
  if !(mode d == 3 || mode d == 6) || flag d DBG_HALT_HALTED then d
  else
    let d := countF d (if out then AUD_P_DROPS_OUT_DROPPED p else AUD_P_DROPS_IN_DROPPED p) 1
    faultEvent 0x24 (2 * (2 * p + b2n out)) (trvCount d) (audEvent 1 d)

/-- A block entry (R430). -/
def blockEntry (seq : Nat) (gap silent : Bool) (chans : Nat) (frames : List (List (BitVec 24))) : List Byte :=
  bytesOf 4 seq ++ bytesOf 4 (b2n gap + 2 * b2n silent + 4 * (chans - 1)) ++
    frames.flatMap fun f => f.flatMap fun v => bytesOf 4 (v.signExtend 32).toNat

/-- A port's input at a block boundary (R432): a complete block enters the clip buffer in RUN and RECOVER, is dropped when the buffer
is full, and is discarded in the other modes and in debug halt. -/
def endInput (p : Nat) (d : Dev) : Dev :=
  let x := audOf d p
  let y := { x with frames := [] }
  if !flag d (AUD_P_CFG_IN_EN p) || x.frames.length != blockFrames d then setAud d p y
  else if !(mode d == 3 || mode d == 6) || flag d DBG_HALT_HALTED then setAud d p { y with gap := true, seq := x.seq + 1 }
  else if clipDepth d p ≤ x.clipIn.length then dropBlock p false (setAud d p { y with gap := true, seq := x.seq + 1 })
  else setAud d p { y with gap := false, seq := x.seq + 1
                           clipIn := x.clipIn ++ [blockEntry x.seq x.gap x.absentIn (chansOf d p) x.frames] }

/-- A port's output at a block boundary (R433): it starts once PREFILL blocks are held, and a playing port takes the oldest block or
plays silence. -/
def startOutput (p : Nat) (d : Dev) : Dev :=
  let x := audOf d p
  let pre := min (max 1 (getF d (AUD_P_CLIP_PREFILL p))) (clipDepth d p)
  if !flag d (AUD_P_CFG_OUT_EN p) || engineStopped d || flag d DBG_HALT_HALTED then setAud d p { x with play := [] }
  else
    let d := if decide (pre ≤ x.clipOut.length) then setFlag d (AUD_P_STAT_PLAYING p) true else d
    if !flag d (AUD_P_STAT_PLAYING p) then d
    else
      match x.clipOut with
      | b :: r => setF (setAud d p { x with play := b, clipOut := r }) (AUD_P_STAT_HELD p) r.length
      | [] => dropBlock p true (setAud d p { x with play := [] })

/-- A block boundary (R421). -/
def blockBoundary (d : Dev) : Dev :=
  if !flag d AUD_STAT_LOCK || mode d == 0 then d
  else
    let d := audEvent 0 (bumpF d (whole AUD_BLOCKS))
    each ((List.range 2).filter fun p => flag d (AUD_P_CFG_EN p)) (fun p d => startOutput p (endInput p d)) d

/-- BLOCK_BOUNDARY. The audio clocks run through a debug halt (R442). -/
def execBlockBoundary (s : State) : Host.Outcome State Fault Refusal :=
  .next (whenAlive (fun s => settle (onDev blockBoundary s)) s)

/-- Whether an audio queue cannot be bound (R431). -/
def audioQueueBad (d : Dev) (p q : Nat) (fromDesign : Bool) : Bool :=
  let x := qdesc d q
  !x.bound || x.fromDesign != fromDesign || bridged (setFlag d (AUD_P_CFG_EN p) false) q ||
    decide (capacity x < 8 + 4 * blockFrames d * chansOf d p)

/-- A write of AUD_P_CFG (R431, R434): while EN is 1 only EN is written; clearing it empties the clip buffers; setting it is refused,
with ERR 2, or binds the queues of the directions in use. -/
def writeAudCfg (p : Nat) (v : Word) (d : Dev) : Dev :=
  let clear := fun (d : Dev) =>
    setF (setFlag (setFlag (setAud d p { aud0 p with absent := (audOf d p).absent }) (AUD_P_CFG_EN p) false)
      (AUD_P_STAT_PLAYING p) false) (AUD_P_STAT_HELD p) 0
  if flag d (AUD_P_CFG_EN p) then (if v.getLsbD 0 then d else clear d)
  else
    let d := setFlag (plainWrite (AUD_P_CFG p) v d) (AUD_P_CFG_EN p) false
    let bad := (flag d (AUD_P_CFG_IN_EN p) && audioQueueBad d p (getF d (AUD_P_QUEUE_IN_QUEUE p)) false) ||
      (flag d (AUD_P_CFG_OUT_EN p) && audioQueueBad d p (getF d (AUD_P_QUEUE_OUT_QUEUE p)) true)
    if !v.getLsbD 0 then d
    else if bad then setF d (AUD_P_STAT_ERR p) 2
    else
      let d := clear d
      setF (setFlag d (AUD_P_CFG_EN p) true) (AUD_P_STAT_ERR p) (if (audOf d p).absent then 1 else 0)

/-- AUDIO_PORT_BIND. -/
def execAudioPortBind (a : Agent) (p : BitVec 1) (v : Word) (s : State) : Host.Outcome State Fault Refusal :=
  .next (whenWritable a (onDev (writeAudCfg p.toNat v)) s)

/-- The frames of an output entry's samples. -/
def entryFrames (chans : Nat) (bs : List Byte) : List (List (BitVec 24)) :=
  chunksOf chans ((wordsOf bs).map fun w => w.setWidth 24)

/-- A port reads a released output entry and frees its slot (R433); it stops while its clip buffer is full. -/
def outputEntry (p : Nat) (s : State) : State :=
  let d := s.dev
  let q := getF d (AUD_P_QUEUE_OUT_QUEUE p)
  let x := qdesc d q
  let y := audOf d p
  if !flag d (AUD_P_CFG_EN p) || !flag d (AUD_P_CFG_OUT_EN p) || mode d == 0 || engineStopped d || !x.bound ||
      decide (x.prod ≤ x.cons) || decide (clipDepth d p ≤ y.clipOut.length) then s
  else
    let d := engineCheck (wordAddrs (slotAddr x x.cons) (slotBytes x)) d
    let slot := hbmBytes s.mem (slotAddr x x.cons) (slotBytes x)
    let len := 8 + 4 * blockFrames d * chansOf d p
    let bad := u32 slot 0 != len || decide (32 ≤ u32 slot 20)
    let d := if bad then countF d (AUD_P_FAULTS_BAD p) 1
      else
        let out := y.clipOut ++ [entryFrames (chansOf d p) ((slot.drop 24).take (len - 8))]
        setF (setAud d p { y with clipOut := out }) (AUD_P_STAT_HELD p) out.length
    releaseSlots q 1 { s with dev := d }

/-- OUTPUT_ENTRY_READ. -/
def execOutputEntryRead (p : BitVec 1) (s : State) : Host.Outcome State Fault Refusal :=
  .next (whenGranted (fun s => settle (outputEntry p.toNat s)) s)

/-- A gain change that found no zero crossing within ZC_TMO samples is applied (R426). -/
def zcTimeout (i : Nat) (d : Dev) : Dev :=
  let p := pathOf d i
  match p.wait with
  | some n =>
    if p.cur != gainTarget d i && decide (max 1 (getF d (gainFlds i).2) ≤ n) then
      audEvent 2 (setPath d i { p with cur := gainTarget d i, wait := none })
    else d
  | none => d

/-- ZC_TIMEOUT. -/
def execZcTimeout (output : Bool) (path : BitVec 4) (s : State) : Host.Outcome State Fault Refusal :=
  .next (whenAlive (onDev (zcTimeout (path.toNat + 16 * b2n output))) s)

/-- FSYNC is absent for 2 frame periods at a clock slave, or returns (R423). -/
def fsync (p : Nat) (absent : Bool) (d : Dev) : Dev :=
  if !flag d (AUD_P_CFG_EN p) || flag d (AUD_P_CFG_MASTER p) || (audOf d p).absent == absent then d
  else setF (setAud d p { audOf d p with absent := absent }) (AUD_P_STAT_ERR p) (b2n absent)

/-- FSYNC_ABSENT. -/
def execFsyncAbsent (p : BitVec 1) (s : State) : Host.Outcome State Fault Refusal := .next (whenAlive (onDev (fsync p.toNat true)) s)

/-- FSYNC_RETURN. -/
def execFsyncReturn (p : BitVec 1) (s : State) : Host.Outcome State Fault Refusal := .next (whenAlive (onDev (fsync p.toNat false)) s)

end Sys2Proof.Machine
end

