-- ==== Sys2Proof/Machine/Entry.lean ====
section
/-! DEFINITION. A guide core's registers, exception entry, NMI, EXTINT, debug events and what follows them (R316, R330, R336,
R347-R350, R440, R441). -/

namespace Sys2Proof.Machine

/-- ST.S: supervisor mode. -/
def supervisor (g : GCore) : Bool := g.st.getLsbD 4

/-- ST.IE: interrupts enabled. -/
def intEnabled (g : GCore) : Bool := g.st.getLsbD 5

/-- ST.LD: the loop depth. -/
def loopDepth (g : GCore) : Nat := bitsOf g.st.toNat 10 8

/-- ST with another loop depth. -/
def withDepth (st : Word) (n : Nat) : Word := withField st ⟨0, 10, 8⟩ n

/-- ST as a write or a restore leaves it (R317): reserved bits 0, a loop depth of 5-7 stored as 4. -/
def cutSt (v : Word) : Word :=
  let v := v &&& 0x7FF#32
  if 4 < bitsOf v.toNat 10 8 then withDepth v 4 else v

/-- The home of general register `r`: w0-w14 by number, the user stack pointer as 15, the supervisor stack pointer as 16
(R316). -/
def homeOf (g : GCore) (r : Nat) : Nat := if r == 15 && supervisor g then 16 else r

/-- The register at a home. -/
def getHome (g : GCore) (h : Nat) : Word :=
  if h == 15 then g.usp else if h == 16 then g.ssp else sget (fun _ => 0#32) g.w h

/-- Replace the register at a home. -/
def setHome (h : Nat) (v : Word) (g : GCore) : GCore :=
  if h == 15 then { g with usp := v } else if h == 16 then { g with ssp := v }
  else { g with w := sset (fun _ => 0#32) g.w h v }

/-- General register `r` as ST.S names it. -/
def getW (g : GCore) (r : Nat) : Word := getHome g (homeOf g r)

/-- No outstanding load still writes the register at a home: a later instruction has written it. -/
def unload (h : Nat) (g : GCore) : GCore :=
  { g with loads := g.loads.map fun l => { regs := l.regs.filter fun x => x.1 != h } }

/-- An instruction writes general register `r`. -/
def putW (r : Nat) (v : Word) (g : GCore) : GCore := setHome (homeOf g r) v (unload (homeOf g r) g)

/-- A load's data reaches its registers. -/
def landLoad (l : PendLoad) (g : GCore) : GCore := l.regs.foldl (fun g x => setHome x.1 x.2 g) g

/-- Every outstanding load completes. -/
def deliverAll (g : GCore) : GCore := { g.loads.foldl (fun g l => landLoad l g) g with loads := [] }

/-- Change a guide core. -/
def onCore (c : Nat) (f : GCore → GCore) (d : Dev) : Dev := setCore d c (f (coreOf d c))

/-- Put a store into the store buffer; a full buffer drains its oldest entry first (R345). -/
def bufStore (c ta : Nat) (bs : List Byte) (s : State) : State :=
  let s := if 8 ≤ (coreOf s.dev c).sbuf.length then drainOne c s else s
  onDev (onCore c fun g => { g with sbuf := g.sbuf ++ [⟨ta, bs⟩] }) s

/-- The check of the supervisor stack pointer (R348 step 2). -/
def stackOk (sp : Word) : Bool := sp.toNat % 4 == 0 && decide (8 ≤ sp.toNat) && decide (sp.toNat ≤ 0x20000)

/-- Whether a word of program SRAM meets an uncorrectable error. -/
def progBad (d : Dev) (c a : Nat) : Bool := decide (2 ≤ popcount (eccMask d (eccKey 7 (65536 * c + a))))

/-- Exception entry (R348): ST and the return PC go to the supervisor stack, CAUSE and FADDR are written, and the core runs from the
vector in supervisor mode with interrupts off and loop depth 0; a bad stack or vector fetch locks it up. -/
def enter (c vector detail : Nat) (addr : Option Word) (ret : BitVec 20) (s : State) : State :=
  let s := onDev (onCore c deliverAll) s
  let g := coreOf s.dev c
  if !stackOk g.ssp then onDev (lockUp c 1 vector) s
  else
    let sp := g.ssp.toNat
    let s := bufStore c (localBase c + sp - 4) (bytesOf 4 g.st.toNat) s
    let s := bufStore c (localBase c + sp - 8) (bytesOf 4 ret.toNat) s
    onDev (fun d =>
      let g := coreOf d c
      let sp := g.ssp - 8
      let d := setCore d c { g with
        ssp := sp
        cause := BitVec.ofNat 32 (vector + 16 * (detail % 16))
        faddr := addr.getD g.faddr
        resv := none
        st := withDepth ((g.st ||| 0x10#32) &&& ~~~0x20#32) 0
        nmi := if vector == 1 then some sp else g.nmi
        vector := vector
        pc := BitVec.ofNat 20 (8 * vector)
        waiting := false
        group := none }
      if progBad d c (8 * vector) then lockUp c 2 vector d else d) s

/-- Whether core `c` can take an NMI now (R347). -/
def nmiDue (d : Dev) (c : Nat) : Bool := c == 0 && d.cn.nmi && (coreOf d c).nmi.isNone

/-- Take the NMI through vector 1. -/
def enterNmi (c : Nat) (s : State) : State :=
  enter c 1 0 none (coreOf s.dev c).pc (onDev (fun d => { d with cn := { d.cn with nmi := false } }) s)

/-- What DBG_CORE_STAT names for a debug event. -/
def debugReason (c reason unit : Nat) (d : Dev) : Dev :=
  setF (setF d (DBG_CORE_STAT_REASON c) reason) (DBG_CORE_STAT_UNIT c) unit

/-- Core halt (R441): nothing is saved, the reservation ends. -/
def haltCore (c : Nat) (d : Dev) : Dev :=
  onCore c (fun g => { g with halted := true, waiting := false, resv := none, group := none }) d

/-- A debug event (R440, R441): vector 8 and monitor mode with MONITOR = 1, core halt with MONITOR = 0. -/
def debugEvent (c reason unit detail : Nat) (s : State) : State :=
  let s := onDev (debugReason c reason unit) s
  if !flag s.dev (DBG_CORE_CTL_MONITOR c) then onDev (haltCore c) s
  else
    let s := enter c 8 detail none (coreOf s.dev c).pc s
    onDev (fun d =>
      let g := coreOf d c
      if g.locked then d else swapThresh c (setCore d c { g with monitor := some g.ssp })) s

/-- A debug event between groups: an NMI that is due is taken first (R347). -/
def debugBetween (c reason : Nat) (s : State) : State :=
  let s := if nmiDue s.dev c then enterNmi c s else s
  if (coreOf s.dev c).locked then s else debugEvent c reason 0 0 s

/-- Whether STEP makes a debug event of an instruction's end (R440, R441). -/
def stepping (d : Dev) (c : Nat) : Bool := flag d (DBG_CORE_CTL_STEP c) && (coreOf d c).monitor.isNone

/-- A WAIT that an interrupt or an NMI ends is over, and with it a step over the WAIT (R330, R440). -/
def endWait (c : Nat) (s : State) : State :=
  if (coreOf s.dev c).waiting && awakens s.dev c && !parked s.dev c then
    let s := onDev (onCore c fun g => { g with waiting := false }) s
    if stepping s.dev c then debugBetween c 4 s else s
  else s

/-- Whether core `c` executes: running or in monitor mode, its domain powered, not in WAIT. -/
def executing (d : Dev) (c : Nat) : Bool :=
  (coreState d c == 1 || coreState d c == 5) && !parked d c && !(coreOf d c).waiting

/-- Whether an interrupt is taken before the next group (R347). -/
def extDue (d : Dev) (c : Nat) : Bool := intEnabled (coreOf d c) && presents d c

/-- EXTINT at a group boundary (R347, R349). -/
def takeExt (c : Nat) (s : State) : State :=
  let s := endWait c s
  if executing s.dev c && extDue s.dev c && !nmiDue s.dev c then enter c 9 0 none (coreOf s.dev c).pc s else s

/-- EXTINT. -/
def execExtint (c : BitVec 5) (s : State) : Host.Outcome State Fault Refusal := .next (whenGranted (takeExt c.toNat) s)

/-- The NMI at a group boundary (R347): a step over the WAIT it ends follows it. -/
def takeNmi (s : State) : State :=
  let s := endWait 0 s
  if executing s.dev 0 && nmiDue s.dev 0 then enterNmi 0 s else s

/-- NMI. -/
def execNmi (s : State) : Host.Outcome State Fault Refusal := .next (whenGranted takeNmi s)

/-- The oldest outstanding load returns its data (R337). -/
def loadReturn (c : Nat) (d : Dev) : Dev :=
  onCore c (fun g => match g.loads with
    | l :: r => landLoad l { g with loads := r }
    | [] => g) d

/-- DATA_LOAD_RETURN. -/
def execDataLoadReturn (c : BitVec 5) (s : State) : Host.Outcome State Fault Refusal :=
  .next (whenGranted (onDev (loadReturn c.toNat)) s)

/-- A debug request (R441): it powers up a parked domain (R389) and ends a WAIT. A locked or stopped core does not take it, and a
core in monitor mode takes it only as a core halt. -/
def debugRequest (c : Nat) (s : State) : State :=
  let s := if parked s.dev c then onDev (fun d => setFlag d (MBX_CTL_PARKED c) false) s else s
  let st := coreState s.dev c
  if st == 1 || st == 2 || (st == 5 && !flag s.dev (DBG_CORE_CTL_MONITOR c)) then debugBetween c 5 s else s

/-- RESUME (R441, R444): a core in core halt goes on. -/
def resumeCore (c : Nat) (d : Dev) : Dev :=
  if (coreOf d c).halted then watchGrace c (onCore c (fun g => { g with halted := false }) d) else d

/-- A write of DBG_CORE_CTL: the fields, then RESUME and HALTREQ. -/
def writeDbgCtl (c : Nat) (v : Word) (s : State) : State :=
  let s := onDev (fun d =>
    let d := plainWrite (DBG_CORE_CTL c) v d
    if v.getLsbD 2 then resumeCore c d else d) s
  if v.getLsbD 3 then debugRequest c s else s

/-- HALTREQ. -/
def execHaltreq (a : Agent) (c : BitVec 5) (v : Word) (s : State) : Host.Outcome State Fault Refusal :=
  .next (whenWritable a (writeDbgCtl c.toNat v) s)

/-- DBG_RESUME. -/
def execDbgResume (a : Agent) (c : BitVec 5) (v : Word) (s : State) : Host.Outcome State Fault Refusal :=
  .next (whenWritable a (writeDbgCtl c.toNat v) s)

end Sys2Proof.Machine
end

