-- ==== Sys2Proof/Machine/Halt.lean ====
section
/-! DEFINITION. Device debug halt and the stimulus ports (R331, R413, R442-R445). -/

namespace Sys2Proof.Machine

/-- Whether the system has a device beside this one. -/
def hasOthers (d : Dev) : Bool := !(systemDevs d).isEmpty || (List.range 18).any (ropeUp d)

/-- A halt request (R442, R443): refused on the manager of a larger system; it clears every reservation and closes every group. -/
def haltDevice (d : Dev) : Dev :=
  if flag d DBG_HALT_HALTED then d
  else if isMgr d && hasOthers d then setFlag d DBG_HALT_ERR true
  else
    let d := setFlag (setFlag (setFlag d DBG_HALT_REQ true) DBG_HALT_HALTED true) DBG_HALT_ERR false
    let d := { d with vid := { d.vid with halted := true } }
    each (d.gc.map (·.1)) (fun c d => onCore c (fun g => { g with resv := none, group := none }) d) d

/-- The C2 or C3 action that a debug halt held back starts (R224, R442). -/
def heldActions (d : Dev) : Dev :=
  let c3 := d.md.keptC3
  let c2 := d.md.keptC2
  if d.md.trans.isSome then d
  else
    let d := { d with md := { d.md with keptC3 := false, keptC2 := false } }
    let m := mode d
    if c3 then
      if m == 3 || m == 4 || m == 5 || m == 6 then toRecover true (raiseBelay 0x10 (if m == 5 then endReplay 7 d else d)) else d
    else if c2 then
      if m == 3 || m == 4 || m == 6 then toRecover false (raiseBelay 0x11 d)
      else if m == 5 then endReplay 7 d
      else if m == 2 then { d with hs := { d.hs with loadFault := true } }
      else d
    else d

/-- The release of a debug halt (R442, R444): watchdogs go on with the grace, held actions start, submitted commands are taken. -/
def releaseDevice (d : Dev) : Dev :=
  if !flag d DBG_HALT_HALTED then d
  else
    let d := setFlag (setFlag d DBG_HALT_REQ false) DBG_HALT_HALTED false
    let d := each (List.range 32) watchGrace d
    each (List.range 4) takeAll (heldActions d)

/-- A write of DBG_HALT. -/
def writeHalt (v : Word) (d : Dev) : Dev := if v.getLsbD 0 then haltDevice d else releaseDevice d

/-- DEBUG_HALT. -/
def execDebugHalt (a : Agent) (v : Word) (s : State) : Host.Outcome State Fault Refusal :=
  .next (whenWritable a (fun s => settle (onDev (writeHalt v) s)) s)

/-- DEBUG_RELEASE. -/
def execDebugRelease (a : Agent) (v : Word) (s : State) : Host.Outcome State Fault Refusal :=
  .next (whenWritable a (fun s => settle (onDev (writeHalt v) s)) s)

/-- Packets the trace buffer holds (R445). -/
def traceRoom : Nat := 8192

/-- Put one packet into the trace buffer, with LOST after a drop; a full buffer drops it. -/
def putPacket (kind low : Nat) (mid : Nat) (d : Dev) : Dev :=
  if traceRoom ≤ d.dbg.trace.length then { d with dbg := { d.dbg with lost := true } }
  else
    let p := low % 2 ^ 32 + mid % 2 ^ 10 * 2 ^ 32 + kind * 2 ^ 42 + b2n d.dbg.lost * 2 ^ 44 + sysTime d % 2 ^ 19 * 2 ^ 45
    { d with dbg := { d.dbg with trace := d.dbg.trace ++ [BitVec.ofNat 64 p], lost := false, last := some (sysTime d / 2 ^ 19) } }

/-- A stimulus write (R445): a time packet first when the upper part of SYS_TIME has changed; its port and core fields are free. -/
def stimulus (c n : Nat) (v : Word) (d : Dev) : Dev :=
  if !bitOf (getR d DBG_STIM_EN).toNat n then d
  else
    let t := sysTime d / 2 ^ 19
    let d := if d.dbg.last == some t then d
      else
        let (k, d) := fresh d
        putPacket 1 t (Config.freeChoice k) d
    putPacket 0 v.toNat (n + 32 * c) d

/-- A write of DBG_STIM_n of core c: only a guide core makes supervisor writes. -/
def writeStim (a : Agent) (c n : Nat) (v : Word) (d : Dev) : Dev :=
  match a with
  | .core _ => stimulus c n v d
  | .port _ | .dap | .executor => d

/-- DBG_STIM. -/
def execDbgStim (a : Agent) (c : BitVec 5) (n : BitVec 5) (v : Word) (s : State) : Host.Outcome State Fault Refusal :=
  .next (whenWritable a (onDev (writeStim a c.toNat n.toNat v)) s)

end Sys2Proof.Machine
end

