-- ==== Sys2Proof/Machine/Bus.lean ====
section
/-! DEFINITION. Reads and writes of the control space and of BAR0 (R3, R5-R8, R32, R275). -/

namespace Sys2Proof.Machine

/-- Whether a _LO register of a 64-bit pair lies at an offset (R7). -/
def isLo (off : Nat) : Bool :=
  ([(0x80008, []), (0x80010, []), (0x80018, []), (0x80030, []), (0xA0014, []), (0xC0000, []), (0xC0008, []), (0x10001C, []),
    (0x100024, []), (0x100040, []), (0x110008, []), (0x110058, []), (0x110088, []), (0x110098, []), (0x111010, [(64, 0x20)]),
    (0x111018, [(64, 0x20)]), (0x10204, []), (0x140008, [(4, 0x100)]), (0x140020, [(4, 0x100)]), (0x180400, []), (0x180408, []),
    (0x1A0000, [(16, 0x40)]), (0x1A0008, [(16, 0x40)]), (0x1A0024, [(16, 0x40)]), (0x1B0004, []), (0x1B0010, []),
    (0x1C1C00, [(32, 0x2000)]), (0x1C1C0C, [(32, 0x2000)]), (0x2001C, []), (0x280010, [])] :
    List (Nat × List (Nat × Nat))).any fun e => decide (e.1 ≤ off) && dimsMatch e.2 (off - e.1)

/-- The word of a set of bits [lo + 31:lo]. -/
def bitWord (f : Nat → Bool) (lo : Nat) : Word :=
  BitVec.ofNat 32 ((List.range 32).foldl (fun n i => n + b2n (f (lo + i)) * 2 ^ i) 0)

/-- TRV_GATE: the target with the lowest floor, their number, and whether it keeps a tile's gate closed (R72). -/
def gateWord (d : Dev) : Word :=
  let fl := fun (p : Nat) => sget zeroAt d.tv.floors p
  let low := d.tv.targets.foldl (fun (b : Option Nat) p => match b with
    | none => some p
    | some q => if fl p < fl q then some p else some q) none
  match low with
  | none => 0#32
  | some p =>
    let limits := (List.range 256).any fun t =>
      let x := tileOf d t
      x.wait == 9 && decide (x.count ≤ floorOf d + 1) && decide (fl p + 1 < x.count)
    BitVec.ofNat 32 ((pmap d p).getD 0 + d.tv.targets.length * 2 ^ 10 + b2n limits * 2 ^ 31)

/-- A selected history checkpoint (R171). -/
def histSel (d : Dev) : Nat × Nat :=
  match (d.ck.kept.drop 2)[getF d CKP_HIST_SEL_INDEX]? with
  | some c => (c.seq, c.k)
  | none => (0, 0)

/-- The share of the ring area that rings occupy, in percent (R184). -/
def ringShare (d : Dev) : Nat :=
  let used := fun (st : Store QDesc) => ((st.filter fun e => e.2.bound).map fun e => ceilTo 4096 (slotBytes e.2 * slots e.2)).foldl (· + ·) 0
  let size := getF d QUE_AREA_RING_MIB * 2 ^ 20
  if size == 0 then 0 else min 100 ((used d.qu.desc + used d.qu.rdesc) * 100 / size)

/-- GCORE_STAT. -/
def coreStat (d : Dev) (c : Nat) : Word :=
  let g := coreOf d c
  BitVec.ofNat 32 (coreState d c + b2n (supervisor g) * 8 + b2n (intEnabled g) * 16 + b2n g.nmi.isSome * 32 +
    b2n g.sbuf.isEmpty * 64 + b2n g.resv.isSome * 128 + g.vector * 256)

/-- ICU_SRC_s: the writable fields, KIND, PENDING and ACTIVE. -/
def srcWord (d : Dev) (s : Nat) : Word :=
  getR d (0x171000 + 4 * s) ||| BitVec.ofNat 32 (b2n (isLevel d s) * 2 ^ 9 + b2n (isPending d s) * 2 ^ 10 + b2n (isActive d s) * 2 ^ 11)

/-- The pad levels of a bank (R371). -/
def inputs (d : Dev) (lo : Nat) : Word := bitWord (pinLevel d) lo

/-- A channel's FULL bits at a receiving core. -/
def fullWord (d : Dev) (c lo n : Nat) : Word := bitWord (fun k => decide (k < lo + n) && mbFull d c k) lo

/-- What mailbox registers read, for the accessing agent (R387, R388). -/
def mailView (d : Dev) (src : Agent) (off : Nat) : Option Word :=
  let c := (off - 0x1C0000) / 0x2000
  let r := (off - 0x1C0000) % 0x2000
  if r < 0x40 then some (match senderOf src with
    | some k => mbWord d c k (r / 4)
    | none => 0#32)
  else if r == 0x40 then some (match senderOf src with
    | some k => BitVec.ofNat 32 (b2n (mbFull d c k))
    | none => 0#32)
  else if 0x800 ≤ r ∧ r < 0x1A00 then
    (if (r - 0x800) % 0x80 < 0x40 then some (mbWord d c ((r - 0x800) / 0x80) ((r - 0x800) % 0x80 / 4)) else none)
  else if r == 0x1C00 then some (fullWord d c 0 32)
  else if r == 0x1C04 then some (fullWord d c 32 4)
  else none

/-- What a register of the guide cores, interrupts, pins, mailboxes, bridges or debug port reads that is not stored. -/
def viewHigh (d : Dev) (src : Agent) (off : Nat) : Option Word :=
  let c := off % 0x1000 / 0x40
  if 0x160000 ≤ off ∧ off < 0x160800 then
    (if off % 0x40 == 4 then some (coreStat d c) else if off % 0x40 == 8 then some ((coreOf d c).pc.setWidth 32) else none)
  else if off == GCORE_LOCKED then some (BitVec.ofNat 32 (lockedCores d))
  else if 0x170080 ≤ off ∧ off < 0x1700C0 then some (bitWord (fun s => s != 0 && isPending d s) ((off - 0x170080) * 8))
  else if 0x1700C0 ≤ off ∧ off < 0x170100 then some (bitWord (isActive d) ((off - 0x1700C0) * 8))
  else if 0x170400 ≤ off ∧ off < 0x170600 ∧ off % 0x10 == 0xC then some (BitVec.ofNat 32 (runPri d ((off - 0x170400) / 0x10)))
  else if 0x171004 ≤ off ∧ off < 0x171800 then some (srcWord d ((off - 0x171000) / 4))
  else if 0x190000 ≤ off ∧ off < 0x190100 then
    some (getR d off ||| BitVec.ofNat 32 (b2n (pinLevel d ((off - 0x190000) / 4)) * 2 ^ 14))
  else if off == GPIO_IN_A then some (inputs d 0)
  else if off == GPIO_IN_B then some (inputs d 32)
  else if off == GPIO_BANK then some (BitVec.ofNat 32 (b2n d.pw.vioA + 2 * b2n d.pw.vioB))
  else if 0x1C0000 ≤ off ∧ off < 0x200000 then mailView d src off
  else if off == VID_DP_STAT then
    some (getR d off ||| BitVec.ofNat 32 (b2n (flag d AUD_STAT_LOCK) + b2n (dpVideo d) * 4 + b2n (dpOver d) * 32))
  else if off == DBG_TRACE_FILL then some (BitVec.ofNat 32 d.dbg.trace.length)
  else if off == DBG_TRACE_DATA_LO then some ((d.dbg.trace.headD 0).setWidth 32)
  else if off == DBG_TRACE_DATA_HI then some (((d.dbg.trace.headD 0) >>> 32).setWidth 32)
  else none

/-- What a register reads that is not stored as such. -/
def viewOf (d : Dev) (src : Agent) (off : Nat) : Option Word :=
  let sel := getF d TRV_TILE_SEL_TILE
  if 0x160000 ≤ off ∧ off < 0x300000 then viewHigh d src off
  else if 0x310000 ≤ off then some (BitVec.ofNat 32 (natOf ((d.nvm.drop (off - 0x310000)).take 4)))
  else if 0x18000 ≤ off ∧ off < 0x20000 then some (sget (fun _ => 0#32) d.cn.ring ((off - 0x18000) / 4))
  else if off == CAIRN_STATUS then some (getR d off ||| BitVec.ofNat 32 (b2n (lockedCores d != 0) * 2 ^ 12))
  else if off == TRV_STATUS then some (getR d off ||| BitVec.ofNat 32 (b2n (d.fab.tiles.any fun e => e.2.wait == 9) * 16))
  else if off == TRV_GATE then some (gateWord d)
  else if off == TRV_TILE_STAT then some (BitVec.ofNat 32 (tileStat d sel))
  else if off == TRV_TILE_COUNT then some (BitVec.ofNat 32 (tileOf d sel).count)
  else if off == MEM_REGION then
    some (getR d off ||| BitVec.ofNat 32 (b2n ((streamSpare d).isSome || (role d == 3 && !holds d && isProtected d)) * 256))
  else if off == MEM_WIN_BASE then some (BitVec.ofNat 32 (sget zeroAt d.fab.winBase (getF d MEM_WIN_SEL_TILE)))
  else if off == MEM_WIN_SIZE then some (BitVec.ofNat 32 (sget zeroAt d.fab.winSize (getF d MEM_WIN_SEL_TILE)))
  else if off == CKP_HIST_SEQ then some (BitVec.ofNat 32 (histSel d).1)
  else if off == CKP_HIST_BOUND_LO then some (BitVec.ofNat 32 (histSel d).2)
  else if off == CKP_HIST_BOUND_HI then some (BitVec.ofNat 32 ((histSel d).2 / 2 ^ 32))
  else if off == QUE_AREA then some (getR d off ||| BitVec.ofNat 32 (ringShare d * 2 ^ 16))
  else if off == QUE_ERR then some (sget (fun _ => 0#32) d.qu.errs (agentKey src))
  else if off == VIS_TRG_ARMED0 then some (bitWord (unitArmed d) 0)
  else if off == VIS_TRG_ARMED1 then some (bitWord (unitArmed d) 32)
  else none

/-- What an ordinary register reads as, with no effect of the read. -/
def liveWord (d : Dev) (src : Agent) (off : Nat) : Word := (viewOf d src off).getD (getR d off)

/-- The key of an agent's shadow of the upper half at an offset (R7). -/
def shadowKey (sh : Agent) (off : Nat) : Nat := agentKey sh * 2 ^ 25 + off

/-- The value of a read of a pair's half, and the shadow it leaves (R7). -/
def pairRead (sh src : Agent) (nse : Bool) (off : Nat) (d : Dev) : Word × Dev :=
  let live := liveWord d src off
  let put := fun (k : Nat) (v : Option Word) => { d with hiShadow := sset (fun _ => none) d.hiShadow k v }
  if isLo off then (live, if nse then d else put (shadowKey sh (off + 4)) (some (liveWord d src (off + 4))))
  else if 4 ≤ off && isLo (off - 4) then
    match sget (fun _ => none) d.hiShadow (shadowKey sh off) with
    | some w => (w, if nse then d else put (shadowKey sh off) none)
    | none => (live, d)
  else (live, d)

/-- The bits of a register that an ordinary read clears (R3). -/
def readClears (off : Nat) : Word := match regDesc? off with
  | some r => BitVec.ofNat 32 r.rc
  | none => 0#32

/-- A read of a stored or viewed register: its value, then RC bits clear, QUE_ERR for its own source only. -/
def plainRead (sh src : Agent) (nse : Bool) (off : Nat) (d : Dev) : Dev :=
  let (v, d) := pairRead sh src nse off d
  let d := { d with busRead := v }
  if nse then d
  else if off == QUE_ERR then { d with qu := { d.qu with errs := sset (fun _ => 0#32) d.qu.errs (agentKey src) 0#32 } }
  else if readClears off == 0#32 then d
  else setR d off (getR d off &&& ~~~readClears off)

/-- A read of DBG_TRACE_DATA_HI removes the oldest packet unless it has no side effect (R445). -/
def readTraceHi (sh src : Agent) (nse : Bool) (d : Dev) : Dev :=
  let d := plainRead sh src nse DBG_TRACE_DATA_HI d
  if nse then d else { d with dbg := { d.dbg with trace := d.dbg.trace.drop 1 } }

/-- An aligned 32-bit read of the control space (R3, R5-R7): `busRead` is what the reader gets. `sh` names whose shadow it uses,
`src` the source of the access. -/
def readReg (sh src : Agent) (nse : Bool) (off : Nat) (d : Dev) : Dev :=
  if off % 4 != 0 || 0x1000000 ≤ off then { d with busRead := 0#32 }
  else if 0x170400 ≤ off ∧ off < 0x170600 ∧ off % 0x10 == 4 then claim nse ((off - 0x170400) / 0x10) d
  else if off == GCORE_PDATA then accessProg false nse 0 d
  else if 0x180000 ≤ off ∧ off < 0x180400 ∧ off % 0x40 == 8 ∧ nse == false then readCount ((off - 0x180000) / 0x40) d
  else if 0x180000 ≤ off ∧ off < 0x180400 ∧ (off % 0x40 == 0x28 || off % 0x40 == 0x2C) then
    readCapture nse ((off - 0x180000) / 0x40) (off % 0x40 / 4 - 10) d
  else if off == DBG_TRACE_DATA_HI then readTraceHi sh src nse d
  else plainRead sh src nse off d

/-- A write to the Cairn's block. -/
def writeCairn (off : Nat) (v : Word) (d : Dev) : Dev :=
  if off == CAIRN_STATUS then clearLatches v d
  else if off == CAIRN_INJ_CTRL then writeInject v d
  else if 0x10020 ≤ off ∧ off < 0x10034 then acknowledge ((off - 0x10020) / 4) v.toNat d
  else if 0x10104 ≤ off ∧ off ≤ 0x10190 then writeSrc ((off - 0x10100) / 4) v d
  else plainWrite off v d

/-- A write to the LINK block: a changed route lets waiting flits go (R118). -/
def writeLink (off : Nat) (v : Word) (d : Dev) : Dev :=
  let k := (off - 0x41000) / 0x40
  if off == LINK_BELAY_RAISE then belayRaise v d
  else if 0x41000 ≤ off ∧ k < 18 ∧ off % 0x40 == 0x14 then retrainWrite k v d
  else if 0x40040 ≤ off ∧ off < 0x40088 then detourWrite off v d
  else if off < 0x40200 then retryWaiting (plainWrite off v d)
  else plainWrite off v d

/-- A write to the VIS block. -/
def writeVis (off : Nat) (v : Word) (d : Dev) : Dev :=
  let u := (off - 0x111000) / 0x20
  if 0x110020 ≤ off ∧ off < 0x110040 then writeTraceMask ((off - 0x110020) / 4) v d
  else if 0x111000 ≤ off ∧ u < 64 then writeUnit u (off % 0x20 / 4) v d
  else if off == VIS_TRACE_CTRL ∧ v.getLsbD 0 then setFlag (plainWrite off v d) VIS_TRACE_CTRL_FULL false
  else plainWrite off v d

/-- Descriptors of a command ring that no command says: free words. -/
def freeDescs (n : Nat) (d : Dev) : List (List Word) × Dev :=
  let (k, d) := fresh d
  ((List.range n).map fun i => (List.range 16).map fun j =>
    BitVec.ofNat 32 (natOf ((List.range 4).map fun b => Config.freeByte (2 ^ 24 * k + 64 * i + 4 * j + b))), d)

/-- A write to the PWR block (R450, R451): the cap and the limits take the nearest permitted value. -/
def writePower (off : Nat) (v : Word) (d : Dev) : Dev :=
  if off == PWR_CAP then setF d PWR_CAP_WATTS (max 150 (min 720 (v.toNat % 1024)))
  else if off == PWR_TLIMIT then
    let warn := max 70 (min 100 (bitsOf v.toNat 7 0))
    setF (setF d PWR_TLIMIT_WARN warn) PWR_TLIMIT_CRIT (max (warn + 5) (min 110 (bitsOf v.toNat 15 8)))
  else plainWrite off v d

/-- A write to the HOST block (R281, R282). -/
def writeHost (off : Nat) (v : Word) (d : Dev) : Dev :=
  let p := (off - 0x140000) / 0x100
  let r := off % 0x100
  if 4 ≤ p then plainWrite off v d
  else if r == 0x14 then
    let n := ringNew d p (v.toNat % 4096)
    if n == 0 then doorbell p v [] d
    else
      let (fs, d) := freeDescs n d
      doorbell p v fs d
  else if r == 0x20 || r == 0x24 then (if ringSize (getF d (HOST_PP_CQ_CFG_SIZE_LOG2 p)) == 0 then plainWrite off v d else d)
  else if r == 0x28 then cplConfig p v d
  else if r == 0x2C then cplHead p v d
  else plainWrite off v d

/-- A write to the GCORE block. -/
def writeGcore (off : Nat) (v : Word) (s : State) : State :=
  let n := (off - 0x160000) / 0x40
  let r := off % 0x40
  if off == GCORE_PDATA then onDev (accessProg true false v) s
  else if 32 ≤ n then onDev (plainWrite off v) s
  else if r == 0 then writeCoreCtl n v s
  else if r == 0xC then onDev (fun d => onCore n (fun g => { g with dc := [] }) (plainWrite off v d)) s
  else onDev (plainWrite off v) s

/-- A write to the interrupt controller. -/
def writeIcu (off : Nat) (v : Word) (d : Dev) : Dev :=
  if off == ICU_SWI then irqEvent (256 + v.toNat % 64) d
  else if 0x170400 ≤ off ∧ off < 0x170600 ∧ off % 0x10 == 8 then complete ((off - 0x170400) / 0x10) v d
  else if 0x171004 ≤ off ∧ off < 0x171800 then writeIcuSrc ((off - 0x171000) / 4) v d
  else plainWrite off v d

/-- A write to the timers. -/
def writeTimer (off : Nat) (v : Word) (s : State) : State :=
  let n := (off - 0x180000) / 0x40
  let w := (off - 0x180800) / 0x20
  if off < 0x180400 then
    (if off % 0x40 == 8 then onDev (writeCount n v) s else if off % 0x40 == 0x20 then onDev (writeOut n v) s
     else onDev (plainWrite off v) s)
  else if off == TMR_ALARM_HI then onDev (armAlarm v) s
  else if 0x180800 ≤ off ∧ w < 32 then
    (if off % 0x20 == 0 then onDev (writeWdt w v) s else if off % 0x20 == 0xC then writeKick w v s else onDev (plainWrite off v) s)
  else onDev (plainWrite off v) s

/-- A write to the pins. -/
def writeGpio (off : Nat) (v : Word) (d : Dev) : Dev :=
  if off < 0x190100 then writePin ((off - 0x190000) / 4) v d
  else if off == GPIO_SET_A || off == GPIO_SET_B then writeOuts (off == GPIO_SET_B) true v d
  else if off == GPIO_CLR_A || off == GPIO_CLR_B then writeOuts (off == GPIO_CLR_B) false v d
  else plainWrite off v d

/-- A write to the DMA channels (R380, R385): the programming registers are ignored while BUSY. What a STOP finds moved is open. -/
def writeDma (off : Nat) (v : Word) (s : State) : State :=
  let n := (off - 0x1A0000) / 0x40
  let r := off % 0x40
  if 16 ≤ n then s
  else if r == 0x18 then
    let s := if v.getLsbD 0 then onDev (dmaStart n) s else s
    if v.getLsbD 1 && flag s.dev (DMA_STAT_BUSY n) then
      let (k, d) := fresh s.dev
      dmaStopAt n (Config.freeChoice k % (getF d (DMA_LEN_LEN n) + 1)) { s with dev := d }
    else s
  else if r < 0x18 && flag s.dev (DMA_STAT_BUSY n) then s
  else onDev (plainWrite off v) s

/-- A write to the Float engine. -/
def writeFloat (off : Nat) (v : Word) (s : State) : State :=
  if off == FLOAT_CTRL then
    let s := if v.getLsbD 0 then onDev floatStart s else s
    if v.getLsbD 1 && flag s.dev FLOAT_STAT_BUSY then floatCut s else s
  else if off < FLOAT_CTRL && flag s.dev FLOAT_STAT_BUSY then s
  else onDev (plainWrite off v) s

/-- A write to the mailboxes. -/
def writeMail (src : Agent) (off : Nat) (v : Word) (d : Dev) : Dev :=
  let c := (off - 0x1C0000) / 0x2000
  let r := (off - 0x1C0000) % 0x2000
  if r < 0x40 then (match senderOf src with
    | some k => mbSetWord c k (r / 4) v d
    | none => d)
  else if r == 0x40 then (match senderOf src with
    | some k => mbGo c k v d
    | none => d)
  else if r == 0x1C08 then mbRelease c v d
  else plainWrite off v d

/-- A write to the video bridge: a bound capture port takes only EN. A write of 0 to VID_COMMIT.GO leaves a pending commit as it is
(R398 gives the write of 1 only: DESIGN CHOICE, assumptions row 118). -/
def writeVideo (off : Nat) (v : Word) (d : Dev) : Dev :=
  let p := (off - 0x202000) / 0x40
  if off == VID_COMMIT then (if v.getLsbD 0 then setFlag d VID_COMMIT_GO true else d)
  else if off == VID_DP_CTL then writeDp v d
  else if off == VID_AUX_CMD then writeAux v d
  else if 0x202000 ≤ off ∧ p < 4 then
    (if off % 0x40 == 0 then writeCapture p v d else if flag d (VID_C_CFG_EN p) then d else plainWrite off v d)
  else plainWrite off v d

/-- A write to the audio bridge: RATE only while no port is enabled, a port's other fields only while it is not. -/
def writeAudio (off : Nat) (v : Word) (d : Dev) : Dev :=
  let p := (off - 0x241000) / 0x40
  if off == AUD_CTRL then (if flag d (AUD_P_CFG_EN 0) || flag d (AUD_P_CFG_EN 1) then d else plainWrite off v d)
  else if 0x241000 ≤ off ∧ p < 2 then
    (if off % 0x40 == 0 then writeAudCfg p v d else if flag d (AUD_P_CFG_EN p) then d else plainWrite off v d)
  else if 0x242000 ≤ off ∧ off < 0x242200 ∧ off % 0x20 == 0xC then writeGain off ((off - 0x242000) / 0x20) v d
  else if 0x243000 ≤ off ∧ off < 0x243200 ∧ off % 0x20 == 0xC then writeGain off (16 + (off - 0x243000) / 0x20) v d
  else plainWrite off v d

/-- A write to the debug block. -/
def writeDebug (src : Agent) (off : Nat) (v : Word) (s : State) : State :=
  let c := (off - 0x281000) / 0x100
  let r := off % 0x100
  if off == DBG_HALT then onDev (writeHalt v) s
  else if 0x281000 ≤ off ∧ c < 32 then
    (if r == 0 then writeDbgCtl c v s
     else if 0x40 ≤ r ∧ r < 0xC0 then onDev (writeStim src c ((r - 0x40) / 4) v) s
     else onDev (plainWrite off v) s)
  else onDev (plainWrite off v) s

/-- An aligned 32-bit write of the control space (R3, R5, R6) by a source; requests to engines are not taken in a debug halt. -/
def writeReg (src : Agent) (off : Nat) (v : Word) (s : State) : State :=
  let b := off / 0x10000
  let on := !flag s.dev DBG_HALT_HALTED
  if off % 4 != 0 || 0x100 ≤ b then s
  else if off == QUE_PUBLISH then whenB on (publish src v) s
  else if off == QUE_RELEASE then whenB on (release src v) s
  else if off == 0x1B0028 || (b == 0x1A && off % 0x40 == 0x18) then
    whenB on (if b == 0x1A then writeDma off v else writeFloat off v) s
  else if b == 0x1 then onDev (writeCairn off v) s
  else if b == 0x2 then onDev (writePower off v) s
  else if 0x4 ≤ b ∧ b < 0x8 then onDev (writeLink off v) s
  else if b == 0x11 then onDev (writeVis off v) s
  else if b == 0x14 then onDev (writeHost off v) s
  else if b == 0x16 then writeGcore off v s
  else if b == 0x17 then onDev (writeIcu off v) s
  else if b == 0x18 then writeTimer off v s
  else if b == 0x19 then onDev (writeGpio off v) s
  else if b == 0x1A then writeDma off v s
  else if b == 0x1B then writeFloat off v s
  else if 0x1C ≤ b ∧ b < 0x20 then onDev (writeMail src off v) s
  else if 0x20 ≤ b ∧ b < 0x24 then onDev (writeVideo off v) s
  else if 0x24 ≤ b ∧ b < 0x28 then onDev (writeAudio off v) s
  else if 0x28 ≤ b ∧ b < 0x30 then writeDebug src off v s
  else onDev (plainWrite off v) s

/-- A vector is unmasked: a message that was pending is sent (R290). -/
def unmask (p vec : Nat) (d : Dev) : Dev :=
  let x := portOf d p
  if x.pba.contains vec && !bitOf (sget msix0 x.msix (16 * vec + 12)).toNat 0 then
    emit (.msix p vec) (setPort d p { x with pba := x.pba.filter (· != vec) })
  else d

/-- A write to a port's own part of BAR0 (R275, R280): the mailbox and the MSI-X table. -/
def writePort (p off : Nat) (v : Word) (d : Dev) : Dev :=
  let x := portOf d p
  if off < 0x1000040 then (if mailboxGo d p then d else setPort d p { x with mb := sset (fun _ => 0#32) x.mb ((off - 0x1000000) / 4) v })
  else if off == 0x1000040 then mailboxSubmit p v d
  else if off == 0x10000A0 then mailboxPop p v d
  else if 0x1010000 ≤ off ∧ off < 0x1010400 then
    let o := off - 0x1010000
    let v := if o % 16 == 12 then v &&& 1#32 else if o % 16 == 0 then v &&& ~~~3#32 else v
    unmask p (o / 16) (setPort d p { x with msix := sset msix0 x.msix o v })
  else d

/-- What a port's own part of BAR0 reads (R275). -/
def portWord (d : Dev) (p off : Nat) : Word :=
  let x := portOf d p
  if off < 0x1000040 then sget (fun _ => 0#32) x.mb ((off - 0x1000000) / 4)
  else if off == 0x1000040 then BitVec.ofNat 32 (b2n (mailboxGo d p))
  else if 0x1000080 ≤ off ∧ off < 0x10000A0 then (x.fifo.headD []).getD ((off - 0x1000080) / 4) 0#32
  else if off == 0x10000A4 then BitVec.ofNat 32 x.fifo.length
  else if 0x1010000 ≤ off ∧ off < 0x1010400 then sget msix0 x.msix (off - 0x1010000)
  else if off == 0x1018000 then bitWord (fun i => x.pba.contains i) 0
  else if off == 0x1018004 then bitWord (fun i => x.pba.contains i) 32
  else 0#32

/-- A write of a register by an agent, through BAR0 for a partner port (R5, R275): only aligned 32-bit writes take effect. -/
def busWrite (a : Agent) (width off : Nat) (v : Word) (s : State) : State :=
  if width != 4 || off % 4 != 0 then s
  else if off < 0x1000000 then settle (writeReg a off v s)
  else match a with
    | .port p => settle (onDev (writePort p.toNat off v) s)
    | .core _ | .dap | .executor => s

/-- A 32-bit read of a register by an agent, through BAR0 for a partner port. -/
def busRead (a : Agent) (nse : Bool) (off : Nat) (d : Dev) : Dev :=
  if off < 0x1000000 then readReg a a nse off d
  else match a with
    | .port p => { d with busRead := if off % 4 == 0 then portWord d p.toNat off else 0#32 }
    | .core _ | .dap | .executor => { d with busRead := 0#32 }

/-- REGISTER_WRITE. -/
def execRegisterWrite (a : Agent) (width : BitVec 4) (off : BitVec 25) (v : Word) (s : State) :
    Host.Outcome State Fault Refusal :=
  .next (whenWritable a (busWrite a width.toNat off.toNat v) s)

/-- A read of the control space: one of another width or alignment returns 0 and does nothing else (R5). -/
def busReadWide (a : Agent) (nse : Bool) (r : RegRead) (d : Dev) : Dev :=
  if r.width != 4#4 then { d with busRead := 0#32 } else busRead a nse r.off.toNat d

/-- READ_CLEAR. -/
def execReadClear (a : Agent) (nse : Bool) (r : RegRead) (s : State) : Host.Outcome State Fault Refusal :=
  .next (whenWritable a (onDev (busReadWide a nse r)) s)

/-- LO_READ. -/
def execLoRead (a : Agent) (nse : Bool) (r : RegRead) (s : State) : Host.Outcome State Fault Refusal :=
  .next (whenWritable a (onDev (busReadWide a nse r)) s)

/-- DBG_TRACE_DATA_HI. -/
def execDbgTraceDataHi (a : Agent) (nse : Bool) (s : State) : Host.Outcome State Fault Refusal :=
  .next (whenWritable a (onDev (readTraceHi a a nse)) s)

/-- The source of an access that a register command makes: the port of a host's own command, no channel for a relayed one
(R387). -/
def cmdSource (r : CmdRef) : Agent := match r with
  | .host p _ => .port p
  | .relay _ _ => .executor

/-- REG_READ (R7, R283): up to four consecutive registers, with the executor's shadow. -/
def regReadCmd (r : CmdRef) (c : Cmd) (d : Dev) : Dev :=
  let x := (List.range (param c.desc 1 % 4 + 1)).foldl (fun (x : List Nat × Dev) i =>
    let d := readReg .executor (cmdSource r) false (param c.desc 0 + 4 * i) x.2
    (x.1 ++ [d.busRead.toNat], d)) ([], d)
  okCmd r x.1 x.2

/-- REG_READ. -/
def execRegRead (r : CmdRef) (s : State) : Host.Outcome State Fault Refusal :=
  .next (whenGranted (runCmd r 0x02 fun c => onDev (regReadCmd r c)) s)

/-- REG_WRITE (R283). -/
def regWriteCmd (r : CmdRef) (c : Cmd) (s : State) : State :=
  settle (onDev (okCmd r []) (writeReg (cmdSource r) (param c.desc 0) (BitVec.ofNat 32 (param c.desc 1)) s))

/-- REG_WRITE. -/
def execRegWrite (r : CmdRef) (s : State) : Host.Outcome State Fault Refusal :=
  .next (whenGranted (runCmd r 0x03 (regWriteCmd r)) s)

end Sys2Proof.Machine
end

