-- ==== Sys2Proof/Machine/Flags.lean ====
section
/-! DEFINITION. The flags of ST and how guide-core instructions compute them (R317, R321-R325). -/

namespace Sys2Proof.Machine

/-- The four flags of ST. -/
structure Flags where
  z : Bool
  n : Bool
  c : Bool
  v : Bool
deriving DecidableEq, Repr

/-- The flags in ST. -/
def flagsOf (st : Word) : Flags where
  z := st.getLsbD 0
  n := st.getLsbD 1
  c := st.getLsbD 2
  v := st.getLsbD 3

/-- ST with other flags. -/
def withFlags (st : Word) (f : Flags) : Word :=
  (st &&& ~~~0xF#32) ||| BitVec.ofNat 32 (b2n f.z + 2 * b2n f.n + 4 * b2n f.c + 8 * b2n f.v)

/-- Z and N of a result. -/
def zeroNeg (r : Word) (f : Flags) : Flags := { f with z := r == 0#32, n := r.msb }

/-- Whether an exact signed value does not fit in 32 bits. -/
def overflows (x : Int) : Bool := decide (x < -2147483648) || decide (2147483647 < x)

/-- A sum with a carry in: the result and its flags (R321). -/
def addWith (a b : Word) (cin : Bool) (f : Flags) : Word × Flags :=
  let r := a + b + BitVec.ofNat 32 (b2n cin)
  (r, zeroNeg r { f with
    c := decide (2 ^ 32 ≤ a.toNat + b.toNat + b2n cin)
    v := overflows (a.toInt + b.toInt + (b2n cin : Int)) })

/-- A difference, one less when `cin` says there was a borrow: C is 1 for no borrow (R321). -/
def subWith (a b : Word) (cin : Bool) (f : Flags) : Word × Flags :=
  let r := a - b - BitVec.ofNat 32 (b2n (!cin))
  (r, zeroNeg r { f with
    c := decide (b.toNat + b2n (!cin) ≤ a.toNat)
    v := overflows (a.toInt - b.toInt - (b2n (!cin) : Int)) })

/-- A bitwise result: Z and N only. -/
def bitwise (r : Word) (f : Flags) : Word × Flags := (r, zeroNeg r f)

/-- LSL by `n` (R322). -/
def shiftLeft (a : Word) (n : Nat) (f : Flags) : Word × Flags :=
  let r := a <<< n
  (r, zeroNeg r { f with c := if n == 0 then f.c else if n ≤ 32 then a.getLsbD (32 - n) else false })

/-- LSR by `n` (R322). -/
def shiftRight (a : Word) (n : Nat) (f : Flags) : Word × Flags :=
  let r := a >>> n
  (r, zeroNeg r { f with c := if n == 0 then f.c else if n ≤ 32 then a.getLsbD (n - 1) else false })

/-- ASR by `n` (R322). -/
def shiftArith (a : Word) (n : Nat) (f : Flags) : Word × Flags :=
  let r := a.sshiftRight n
  (r, zeroNeg r { f with c := if n == 0 then f.c else if n ≤ 32 then a.getLsbD (n - 1) else a.msb })

/-- MUL: the low word, V when the signed product does not fit (R321). -/
def mulWith (a b : Word) (f : Flags) : Word × Flags :=
  let r := a * b
  (r, zeroNeg r { f with v := overflows (a.toInt * b.toInt) })

/-- DIV by a divisor that is not 0, truncated toward zero (R323). -/
def divSigned (a b : Word) (f : Flags) : Word × Flags :=
  let q := a.toInt.tdiv b.toInt
  let r := BitVec.ofInt 32 q
  (r, zeroNeg r { f with c := false, v := overflows q })

/-- DIVU by a divisor that is not 0. -/
def divUnsigned (a b : Word) (f : Flags) : Word × Flags :=
  let r := BitVec.ofNat 32 (a.toNat / b.toNat)
  (r, zeroNeg r { f with c := false, v := false })

/-- What a division by zero writes when DZE is 0 (R323). -/
def divZero : Word × Flags := (0#32, { z := true, n := false, c := false, v := true })

/-- Whether a branch condition holds (R328); 15 is reserved. -/
def condHolds (cond : Nat) (f : Flags) : Bool :=
  match cond with
  | 0 => f.z
  | 1 => !f.z
  | 2 => !f.c
  | 3 => f.c
  | 4 => !f.c || f.z
  | 5 => f.c && !f.z
  | 6 => f.n != f.v
  | 7 => f.n == f.v
  | 8 => f.z || f.n != f.v
  | 9 => !f.z && f.n == f.v
  | 10 => f.n
  | 11 => !f.n
  | 12 => f.v
  | 13 => !f.v
  | _ => true

end Sys2Proof.Machine
end

