-- ==== Sys2Proof/Machine/Operands.lean ====
section
/-! DEFINITION. Operand forms of guide-core instructions: prefixes, extended fields, addresses (R319, R320, R326). -/

namespace Sys2Proof.Machine

/-- The prefix value E: the prefix immediates, first prefix most significant (R320). -/
def prefixValue (ext : List (BitVec 10)) : Nat := ext.foldl (fun n e => n * 1024 + e.toNat) 0

/-- A number of `bits` bits read as signed. -/
def signedOf (bits v : Nat) : Int := if v < 2 ^ (bits - 1) then (v : Int) else (v : Int) - 2 ^ bits

/-- A field of `w` bits with the prefixes above it, sign-extended; bits above 32 are discarded (R320). -/
def extended (ext : List (BitVec 10)) (w field : Nat) : Word :=
  BitVec.ofInt 32 (signedOf (10 * ext.length + w) (prefixValue ext * 2 ^ w + field))

/-- The operand rs of the register class: register RS, or the extended value (R320, R321). -/
def operandS (g : GCore) (ext : List (BitVec 10)) (rs : Nat) : Word :=
  if ext.isEmpty then getW g rs else extended ext 4 rs

/-- The registers that operand reads. -/
def readsS (ext : List (BitVec 10)) (rs : Nat) : List Nat := if ext.isEmpty then [rs] else []

/-- A displacement of `w` bits, modulo 2^20 (R320). -/
def disp (ext : List (BitVec 10)) (w field : Nat) : BitVec 20 := (extended ext w field).setWidth 20

/-- The bytes of a memory access (R319, R326). -/
def sizeBytes (size : Nat) : Nat := 2 ^ size

/-- The address of a memory-class access (R326). -/
def memAddr (base : Word) (ext : List (BitVec 10)) : Word := if ext.isEmpty then base else base + extended ext 0 0

/-- RB after a memory-class access with P = 1 (R326). -/
def baseAfter (base : Word) (ext : List (BitVec 10)) (size : Nat) : Word :=
  if ext.isEmpty then base + BitVec.ofNat 32 (sizeBytes size) else memAddr base ext

end Sys2Proof.Machine
end

