-- ==== Sys2Proof/Machine/GuideMem.lean ====
section
/-! DEFINITION. Program space and data space of a guide core: the maps, the caches, loads and stores (R313-R315, R339-R346). -/

namespace Sys2Proof.Machine

/-- What a fetch gives: the word may be executed, the core waits, or FETCH with its DETAIL. -/
inductive Fetched where
  | ok
  | wait
  | err (detail : Nat)
deriving DecidableEq, Repr

/-- HBM byte address of a word of HBM-backed program space (R339). -/
def programAddr (d : Dev) (c a : Nat) : Nat := getF d (GCORE_PBASE_BASE c) * 0x200000 + 2 * (a - 0x10000)

/-- Whether core `c` is in deterministic mode. -/
def detMode (d : Dev) (c : Nat) : Bool := flag d (GCORE_CTL_DET c)

/-- The check of an HBM program word (R343). -/
def wordCheck (w : Nat) : Fetched := if w < 2 ^ 14 then .ok else .err 2

/-- Fetch one program word (R339, R343, R344): from program SRAM, where a single error is corrected and counted; from the program
cache, whose miss waits for PROGRAM_CACHE_FILL unless the line cannot be read; in deterministic mode from HBM. -/
def fetchWord (c a : Nat) (s : State) : Fetched × State :=
  let d := s.dev
  if a < 0x10000 then
    let k := eccKey 7 (65536 * c + a)
    let n := popcount (eccMask d k)
    if 2 ≤ n then (.err 1, s)
    else if n == 1 then (.ok, { s with dev := countF (eccClear k d) (GCORE_ECC_PROGRAM c) 1 })
    else (.ok, s)
  else
    let ha := programAddr d c a
    if !flag d (GCORE_PBASE_VALID c) || hbmSize ≤ ha then (.err 0, s)
    else if detMode d c then
      match hbmRead ha 2 s with
      | (.data bs, s) => (wordCheck (natOf bs), s)
      | (.wait, s) => (.wait, s)
      | (.fault _, s) => (.err 1, s)
    else
      match sget (fun _ => []) (coreOf d c).ic (a / 32) with
      | [] =>
        match hbmRead (ha / 64 * 64) 64 s with
        | (.fault _, s) => (.err 1, s)
        | _ => (.wait, s)
      | ws => (wordCheck (ws.getD (a % 32) 0).toNat, s)

/-- Fetch the words of an instruction, in order (R319, R320). -/
def fetchAll (c : Nat) : List Nat → State → Fetched × State
  | [], s => (.ok, s)
  | a :: r, s =>
    match fetchWord c a s with
    | (.ok, s) => fetchAll c r s
    | x => x

/-- Make room for a line in a 4-way cache of 128 sets: a way of a full set is given up, which one is open (R339, R340). -/
def makeRoom {α : Type} (line k : Nat) (st : Store α) : Store α :=
  let ways := (st.map (·.1)).filter fun l => l % 128 == line % 128
  if ways.length < 4 then st else sdel st (ways.getD (Config.freeChoice k % ways.length) 0)

/-- A line enters the program cache. -/
def cacheProgram (c line : Nat) (bs : List Byte) (d : Dev) : Dev :=
  let (k, d) := fresh d
  let ws := (List.range 32).map fun i => BitVec.ofNat 16 (u16 bs (2 * i))
  onCore c (fun g => { g with ic := sset (fun _ => []) (makeRoom line k g.ic) line ws }) d

/-- A program-cache fill completes (R337, R339): the missing line is read from HBM; the miss is counted. -/
def fillProgram (c line : Nat) (s : State) : State :=
  let d := s.dev
  let ha := programAddr d c (32 * line)
  if !executing d c || detMode d c || line < 0x800 || !flag d (GCORE_PBASE_VALID c) || hbmSize ≤ ha ||
      !(sget (fun _ => []) (coreOf d c).ic line).isEmpty then s
  else
    match hbmRead ha 64 s with
    | (.data bs, s) => onDev (fun d => cacheProgram c line bs (countF d (GCORE_MISS_IMISS c) 1)) s
    | _ => s

/-- PROGRAM_CACHE_FILL. -/
def execProgramCacheFill (c : BitVec 5) (line : BitVec 15) (s : State) : Host.Outcome State Fault Refusal :=
  .next (whenGranted (fillProgram c.toNat line.toNat) s)

/-- The regions of data space (R314). -/
inductive Area where
  | localMem
  | screed
  | aperture
  | control
deriving DecidableEq, Repr

/-- The region of a data address; none where nothing is mapped. -/
def areaOf (a : Nat) : Option Area :=
  if a < 0x20000 then some .localMem
  else if 0x20000000 ≤ a ∧ a < 0x26000000 then some .screed
  else if 0x40000000 ≤ a ∧ a < 0x80000000 then some .aperture
  else if 0xF0000000 ≤ a ∧ a < 0xF1000000 then some .control
  else none

/-- The transfer address of a data address of a core (R314, R379). -/
def transferOf (d : Dev) (c a : Nat) : Nat :=
  match areaOf a with
  | some .localMem => localBase c + a
  | some .screed => screedBase + (a - 0x20000000)
  | _ => getF d (GCORE_APBASE_BASE c) * 0x10000 + (a - 0x40000000)

/-- The data address a transfer address has at a core, as far as it has one. -/
def dataOf (d : Dev) (c ta : Nat) : Nat :=
  if 0x3000000000 ≤ ta then ta - localBase c
  else if screedBase ≤ ta then ta - screedBase + 0x20000000
  else ta - getF d (GCORE_APBASE_BASE c) * 0x10000 + 0x40000000

/-- Where an access is split (R341). -/
def splitAt (a : Nat) : Nat := if a < 0x20000 then 8 else 64

/-- The first byte of the part of an access that holds byte `x` (R318, R341). -/
def splitPart (a x : Nat) : Nat :=
  let b := splitAt a
  if x / b == a / b then a else x / b * b

/-- What the checks of R315 find before a data access: none, or DETAIL and FADDR. An access that runs from a mapped region into an
unmapped one meets two of them, and which DETAIL it shows is open. -/
def checkAccess (d : Dev) (c a n : Nat) : Option (Nat × Nat) :=
  let last := a + n - 1
  match areaOf a, areaOf last with
  | none, none => some (0, a)
  | some x, some y =>
    if x != y then some (2, last / 64 * 64)
    else if x == .control then (if supervisor (coreOf d c) then none else some (1, a))
    else if x == .aperture then
      if hbmSize ≤ transferOf d c a then some (0, a)
      else if hbmSize ≤ transferOf d c last then some (0, splitPart a last)
      else none
    else none
  | none, some _ => some (if Config.freeBit d.free then 0 else 2, a)
  | some _, none => some (if Config.freeBit d.free then 0 else 2, last / 64 * 64)

/-- What a load gives: its bytes with a mark for data that returns later, a wait, or DATA with DETAIL and FADDR. -/
inductive Loaded where
  | data (bs : List Byte) (later : Bool)
  | wait
  | fault (detail addr : Nat)
deriving DecidableEq, Repr

/-- Whether a region is cached for a core (R340, R344). -/
def isCached (d : Dev) (c a : Nat) : Bool :=
  !detMode d c &&
  match areaOf a with
  | some .screed => !flag d (GCORE_CTL_SCREED_NC c)
  | some .aperture => !flag d (GCORE_CTL_HBM_NC c)
  | _ => false

/-- The 64-byte lines of a range, by number. -/
def linesOf (ta n : Nat) : List Nat := (List.range ((ta + n - 1) / 64 - ta / 64 + 1)).map (ta / 64 + ·)

/-- A missing line of the data cache is read and enters it (R340); a line that meets an uncorrectable error does not. -/
def fillLine (c l : Nat) (s : State) : State :=
  match xferRead (64 * l) 64 s with
  | (.data bs, s) => onDev (fun d =>
      let (k, d) := fresh d
      onCore c (fun g => { g with dc := sset (fun _ => []) (makeRoom l k g.dc) l bs }) d) s
  | (_, s) => s

/-- A byte as the lines of a data cache show it; none where its line is absent. -/
def cachedByte (g : GCore) (ta : Nat) : Option Byte :=
  match sget (fun _ => []) g.dc (ta / 64) with
  | [] => none
  | bs => bs[ta % 64]?

/-- Read memory for a load (R337, R340, R343): local SRAM and cache hits at once, the rest later; a miss allocates its lines. -/
def readData (c a n : Nat) (s : State) : Loaded × State :=
  let ta := transferOf s.dev c a
  let g := coreOf s.dev c
  let at_ := (List.range n).map (ta + ·)
  let hits := at_.filterMap (cachedByte g)
  if isCached s.dev c a && hits.length == n then (.data hits false, s)
  else
    match xferRead ta n s with
    | (.wait, s) => (.wait, s)
    | (.fault x, s) => (.fault 4 (splitPart a (a + (x - ta))), s)
    | (.data bs, s) =>
      if !isCached s.dev c a then (.data bs (areaOf a != some .localMem), s)
      else
        let s := each ((linesOf ta n).filter fun l => (sget (fun _ => []) g.dc l).isEmpty) (fillLine c) s
        (.data (at_.zipIdx.map fun x => (cachedByte g x.1).getD (bs.getD x.2 0)) true, s)

/-- The youngest buffered store that overlaps a range. -/
def overlapping (g : GCore) (ta n : Nat) : Option SBuf :=
  g.sbuf.reverse.find? fun e => decide (e.at_ < ta + n) && decide (ta < e.at_ + e.bytes.length)

/-- A load of memory against the store buffer (R345): forwarded where the youngest overlapping entry holds all its bytes, waiting
for the buffer where it holds some, else read ahead of the stores. -/
def loadMem (c a n : Nat) (s : State) : Loaded × State :=
  let ta := transferOf s.dev c a
  match overlapping (coreOf s.dev c) ta n with
  | none => readData c a n s
  | some e =>
    if e.at_ ≤ ta ∧ ta + n ≤ e.at_ + e.bytes.length then (.data ((e.bytes.drop (ta - e.at_)).take n) false, s)
    else (.wait, s)

/-- A core's read of the control space, once its store buffer is empty (R5, R315, R345): a pair is two word accesses. -/
def loadControl (c a n : Nat) (s : State) : Loaded × State :=
  if !(coreOf s.dev c).sbuf.isEmpty then (.wait, s)
  else if n < 4 || a % 4 != 0 then (.data (List.replicate n 0#8) true, s)
  else
    let who := Agent.core (BitVec.ofNat 5 c)
    let d := busRead who false (a - 0xF0000000) s.dev
    let lo := bytesOf 4 d.busRead.toNat
    if n == 4 then (.data lo true, { s with dev := d })
    else
      let d := busRead who false (a + 4 - 0xF0000000) d
      (.data (lo ++ bytesOf 4 d.busRead.toNat) true, { s with dev := d })

/-- A load of `n` bytes at a data address (R314, R315, R345). -/
def loadData (c a n : Nat) (s : State) : Loaded × State :=
  match checkAccess s.dev c a n with
  | some (k, x) => (.fault k x, { s with dev := (fresh s.dev).2 })
  | none => if areaOf a == some .control then loadControl c a n s else loadMem c a n s

/-- What a store gives: it is in the store buffer, it goes to a register once the instruction has retired, it waits, or DATA. -/
inductive Stored where
  | buffered
  | register
  | wait
  | fault (detail addr : Nat)
deriving DecidableEq, Repr

/-- A store of bytes at a data address (R315, R345): into the store buffer; a store to the control space waits for it to empty. -/
def storeData (c a : Nat) (bs : List Byte) (s : State) : Stored × State :=
  match checkAccess s.dev c a bs.length with
  | some (k, x) => (.fault k x, { s with dev := (fresh s.dev).2 })
  | none =>
    let g := coreOf s.dev c
    if areaOf a == some .control then (if g.sbuf.isEmpty then .register else .wait, s)
    else if 8 ≤ g.sbuf.length then (.wait, s)
    else (.buffered, bufStore c (transferOf s.dev c a) bs s)

/-- A core's write of the control space (R5, R315): a pair is two word accesses in ascending order. -/
def storeControl (c a : Nat) (bs : List Byte) (s : State) : State :=
  let who := Agent.core (BitVec.ofNat 5 c)
  let put := fun (o : Nat) (s : State) => busWrite who 4 (a + o - 0xF0000000) (BitVec.ofNat 32 (u32 bs o)) s
  if bs.length < 4 || a % 4 != 0 then s else if bs.length == 4 then put 0 s else put 4 (put 0 s)

/-- The watchpoint a data access meets (R440). -/
def watchHit (d : Dev) (c a n : Nat) (write : Bool) : Option Nat :=
  if (coreOf d c).monitor.isSome then none
  else (List.range 2).find? fun j =>
    bitOf (getF d (DBG_WP_CTL_KIND c j)) (b2n write) && (List.range n).any fun i =>
      ((BitVec.ofNat 32 (a + i) ^^^ getR d (DBG_WP_ADDR c j)) &&& ~~~getR d (DBG_WP_MASK c j)) == 0#32

end Sys2Proof.Machine
end

