-- ==== Sys2Proof/Machine/Guide.lean ====
section
/-! DEFINITION. How a guide core executes one instruction: fetch, groups, the exceptions of an instruction in their order, and what
follows its retirement (R320, R333-R338, R344, R347-R350, R440). -/

namespace Sys2Proof.Machine

/-- What an instruction is to the pipeline (R320, R330, R334, R335). -/
structure Form where
  prefixes : Bool        -- EXT may precede it (R320)
  sys : Bool             -- a system operation that does not pair
  mem : Bool
  mul : Bool
  div : Bool
  reads : List Nat
  writes : List Nat
  readsFlags : Bool
  setsFlags : Bool
  cmp : Bool             -- CMP, CMPI or TST
  branch : Bool
  ends : Bool            -- it transfers control, or is predicted to
  bad : Bool             -- a reserved encoding (R334)
  illegal : Option Nat   -- DETAIL of an ILLEGAL it raises by itself
deriving DecidableEq, Repr

/-- An instruction of the register and immediate classes. -/
def plainForm (reads writes : List Nat) : Form where
  prefixes := true
  sys := false
  mem := false
  mul := false
  div := false
  reads := reads
  writes := writes
  readsFlags := false
  setsFlags := true
  cmp := false
  branch := false
  ends := false
  bad := false
  illegal := none

/-- A system operation with an OPD that must be 0, where one is required. -/
def sysForm (opd : Nat) : Form := { plainForm [] [] with prefixes := false, sys := true, setsFlags := false, bad := opd != 0 }

/-- What an instruction does once it issues: it retires, with what takes effect only then; it transfers control or skips the
loop-end action; it raises an exception, with FADDR and a saved PC of its own; it meets a debug event; it locks the core up; or it
waits and has done nothing. -/
inductive Eff where
  | retire (s : State)
  | retireThen (s : State) (post : State → State)
  | goto (pc : BitVec 20) (s : State)
  | trap (vector detail : Nat) (addr : Option Word) (ret : Option (BitVec 20)) (s : State)
  | debug (reason unit detail : Nat) (s : State)
  | lock (s : State)
  | wait (s : State)

/-- DETAIL of the ILLEGAL an instruction raises with these prefixes (R318, R320): 0 for the word 0x3FFF, then 2 for prefix misuse, then
1 for privilege. -/
def illegalDetail (ext : List (BitVec 10)) (fm : Form) : Option Nat :=
  if 4 ≤ ext.length then some 2
  else if fm.illegal == some 0 then some 0
  else if !ext.isEmpty && !fm.prefixes then some 2
  else fm.illegal

/-- Whether an instruction joins the open group as its second (R335, R337). -/
def pairs (d : Dev) (c words : Nat) (fm : Form) : Bool :=
  match (coreOf d c).group with
  | none => false
  | some h =>
    !fm.sys && !(h.mem && fm.mem) && !(h.mul && fm.mul) && !fm.div && fm.reads.all (fun r => !h.writes.contains r) &&
      !(fm.readsFlags && h.flags && !(fm.branch && h.cmp)) && fm.writes.all (fun r => !h.writes.contains r) &&
      decide (h.words + words ≤ 4) && !detMode d c

/-- Whether a word is LE of an active loop level. -/
def atLoopEnd (g : GCore) (a : Nat) : Bool :=
  (List.range (loopDepth g)).any fun i => (sget (fun _ => 0#20) g.le i).toNat == a

/-- The group an instruction leaves open for a second one (R335). -/
def opens (d : Dev) (c a words : Nat) (fm : Form) : Option GroupHead :=
  if fm.sys || fm.div || fm.ends || detMode d c || atLoopEnd (coreOf d c) a then none
  else some { mem := fm.mem, mul := fm.mul, writes := fm.writes, cmp := fm.cmp, flags := fm.setsFlags, words := words }

/-- The loop-end action of R333 for an instruction whose word is at `b`: the next PC, the loop counts and the loop depth. -/
def loopEnd (g : GCore) (b : BitVec 20) : Nat → GCore × BitVec 20
  | 0 => (g, b + 1)
  | n + 1 =>
    if sget (fun _ => 0#20) g.le n != b then (g, b + 1)
    else
      let lc := sget (fun _ => 0#32) g.lc n - 1
      let g := { g with lc := sset (fun _ => 0#32) g.lc n lc }
      if lc != 0#32 then (g, sget (fun _ => 0#20) g.ls n)
      else loopEnd { g with st := withDepth g.st n } b n

/-- The counts of a retirement. -/
def countRetired (c : Nat) (paired : Bool) (d : Dev) : Dev :=
  let d := countF d (whole (GCORE_RETIRED c)) 1
  if paired then countF d (whole (GCORE_PAIRED c)) 1 else d

/-- A retirement with the loop-end action (R333, R335). -/
def retireAt (c : Nat) (a : BitVec 20) (paired : Bool) (head : Option GroupHead) (d : Dev) : Dev :=
  let g := coreOf d c
  let (g, pc) := loopEnd g a (loopDepth g)
  countRetired c paired (setCore d c { g with pc := pc, group := if paired then none else head })

/-- A retirement that decides the PC itself. -/
def jumpTo (c : Nat) (pc : BitVec 20) (paired : Bool) (d : Dev) : Dev :=
  countRetired c paired (onCore c (fun g => { g with pc := pc, group := none }) d)

/-- The debug event after an instruction with STEP set (R440); a step over WAIT ends with the WAIT. -/
def afterStep (c : Nat) (armed : Bool) (s : State) : State :=
  if armed && executing s.dev c && stepping s.dev c then debugBetween c 4 s else s

/-- The effect of an issued instruction, at PC `pc` and word address `a`. -/
def applyEff (c : Nat) (pc a : BitVec 20) (paired : Bool) (head : Option GroupHead) (armed : Bool) : Eff → State
  | .retire s => afterStep c armed (onDev (retireAt c a paired head) s)
  | .retireThen s post => afterStep c armed (post (onDev (retireAt c a paired head) s))
  | .goto t s => afterStep c armed (onDev (jumpTo c t paired) s)
  | .trap v k addr ret s => enter c v k addr (ret.getD pc) s
  | .debug r u k s => debugEvent c r u k s
  | .lock s => s
  | .wait s => s

/-- The instruction breakpoint at a PC (R440). -/
def breakHit (d : Dev) (c : Nat) (pc : BitVec 20) : Option Nat :=
  if (coreOf d c).monitor.isSome then none
  else (List.range 4).find? fun i => flag d (DBG_BP_EN c i) && getF d (DBG_BP_ADDR c i) == pc.toNat

/-- One instruction of a core (R319, R320, R336, R347): it issues when the core executes, no NMI or eligible interrupt goes first,
its words are fetched (a fourth EXT ends them) and its operands usable. FETCH, ILLEGAL, then LOOP (`full`), a breakpoint, and the rest by the instruction
itself, in that order. A reserved encoding has undefined results (R334). -/
def issue (core : BitVec 5) (ext : List (BitVec 10)) (form : Dev → GCore → BitVec 20 → Form) (full : GCore → Bool)
    (body : BitVec 20 → State → Eff) (s : State) : Host.Outcome State Fault Refusal :=
  let c := core.toNat
  if !granted s.dev then .next s
  else
    let s := endWait c s
    let g := coreOf s.dev c
    let pc := g.pc
    let a := pc + BitVec.ofNat 20 ext.length
    let words := ext.length + 1
    let fm := form s.dev g a
    let paired := pairs s.dev c words fm
    if !executing s.dev c || (!paired && (nmiDue s.dev c || extDue s.dev c)) then .next s
    else
      match fetchAll c ((List.range (min 4 words)).map fun i => (pc + BitVec.ofNat 20 i).toNat) s with
      | (.wait, s) => .next s
      | (.err k, s) => .next (enter c 3 k none pc s)
      | (.ok, s) =>
        match illegalDetail ext fm with
        | some k => .next (enter c 2 k none pc s)
        | none =>
          if fm.bad then .fault .reservedEncoding
          else if fm.reads.any fun r => g.loads.any fun l => l.regs.any fun x => x.1 == homeOf g r then .next s
          else if full g then .next (enter c 10 0 none pc s)
          else
            match breakHit s.dev c pc with
            | some i => .next (debugEvent c 2 i 0 s)
            | none => .next (applyEff c pc a paired (opens s.dev c a.toNat words fm) (stepping s.dev c) (body a s))

/-- No LOOP exception. -/
def neverFull (_ : GCore) : Bool := false

end Sys2Proof.Machine
end

