-- ==== Sys2Proof/Machine/GuideAlu.lean ====
section
/-! DEFINITION. The register and immediate classes of the guide cores, and the system operations that compute (R321-R325, R330). -/

namespace Sys2Proof.Machine

/-- ST.OVE. -/
def overflowTraps (g : GCore) : Bool := g.st.getLsbD 7

/-- Write a register and the flags. -/
def writeResult (rd : Nat) (r : Word) (f : Flags) (g : GCore) : GCore := putW rd r { g with st := withFlags g.st f }

/-- An instruction that writes a result and flags; with `ovf` a V of 1 raises OVF when OVE is 1 (R325). -/
def aluBody (c rd : Nat) (ovf : Bool) (f : GCore → Word × Flags) (s : State) : Eff :=
  let g := coreOf s.dev c
  let x := f g
  if ovf && overflowTraps g && x.2.v then .trap 6 0 none none s
  else .retire (onDev (onCore c (writeResult rd x.1 x.2)) s)

/-- An instruction that sets flags only (CMP, CMPI, TST). -/
def flagBody (c : Nat) (f : GCore → Word × Flags) (s : State) : Eff :=
  .retire (onDev (onCore c fun g => { g with st := withFlags g.st (f g).2 }) s)

/-- An instruction that writes a register and no flag. -/
def moveBody (c rd : Nat) (f : GCore → Word) (s : State) : Eff := .retire (onDev (onCore c fun g => putW rd (f g) g) s)

/-- The pipeline's view of a register-class instruction that writes rd. -/
def aluForm (ext : List (BitVec 10)) (rd rs : Nat) : Form := plainForm (rd :: readsS ext rs) [rd]

/-- One that reads rd and rs and sets flags only. -/
def compareForm (reads : List Nat) : Form := { plainForm reads [] with cmp := true }

/-- One that writes rd from its own operand only, with no flag. -/
def moveForm (reads : List Nat) (rd : Nat) : Form := { plainForm reads [rd] with setsFlags := false }

/-- A register-class instruction rd = f rd rs with flags. -/
def execAlu (c : BitVec 5) (ext : List (BitVec 10)) (rd rs : BitVec 4) (form : Form) (ovf : Bool)
    (f : Word → Word → Flags → Word × Flags) (s : State) : Host.Outcome State Fault Refusal :=
  issue c ext (fun _ _ _ => form) neverFull (fun _ => aluBody c.toNat rd.toNat ovf fun g =>
    f (getW g rd.toNat) (operandS g ext rs.toNat) (flagsOf g.st)) s

/-- A register-class instruction that sets flags only. -/
def execCompare (c : BitVec 5) (ext : List (BitVec 10)) (rd rs : BitVec 4) (f : Word → Word → Flags → Word × Flags) (s : State) :
    Host.Outcome State Fault Refusal :=
  issue c ext (fun _ _ _ => compareForm (rd.toNat :: readsS ext rs.toNat)) neverFull (fun _ => flagBody c.toNat fun g =>
    f (getW g rd.toNat) (operandS g ext rs.toNat) (flagsOf g.st)) s

/-- MOV. -/
def execMov (c : BitVec 5) (ext : List (BitVec 10)) (rd rs : BitVec 4) (s : State) : Host.Outcome State Fault Refusal :=
  issue c ext (fun _ _ _ => moveForm (readsS ext rs.toNat) rd.toNat) neverFull
    (fun _ => moveBody c.toNat rd.toNat fun g => operandS g ext rs.toNat) s

/-- ADD. -/
def execAdd (c : BitVec 5) (ext : List (BitVec 10)) (rd rs : BitVec 4) (s : State) : Host.Outcome State Fault Refusal :=
  execAlu c ext rd rs (aluForm ext rd.toNat rs.toNat) true (fun a b f => addWith a b false f) s

/-- ADC. -/
def execAdc (c : BitVec 5) (ext : List (BitVec 10)) (rd rs : BitVec 4) (s : State) : Host.Outcome State Fault Refusal :=
  execAlu c ext rd rs { aluForm ext rd.toNat rs.toNat with readsFlags := true } true (fun a b f => addWith a b f.c f) s

/-- SUB. -/
def execSub (c : BitVec 5) (ext : List (BitVec 10)) (rd rs : BitVec 4) (s : State) : Host.Outcome State Fault Refusal :=
  execAlu c ext rd rs (aluForm ext rd.toNat rs.toNat) true (fun a b f => subWith a b true f) s

/-- SBC. -/
def execSbc (c : BitVec 5) (ext : List (BitVec 10)) (rd rs : BitVec 4) (s : State) : Host.Outcome State Fault Refusal :=
  execAlu c ext rd rs { aluForm ext rd.toNat rs.toNat with readsFlags := true } true (fun a b f => subWith a b f.c f) s

/-- CMP. -/
def execCmp (c : BitVec 5) (ext : List (BitVec 10)) (rd rs : BitVec 4) (s : State) : Host.Outcome State Fault Refusal :=
  execCompare c ext rd rs (fun a b f => subWith a b true f) s

/-- AND. -/
def execAnd (c : BitVec 5) (ext : List (BitVec 10)) (rd rs : BitVec 4) (s : State) : Host.Outcome State Fault Refusal :=
  execAlu c ext rd rs (aluForm ext rd.toNat rs.toNat) false (fun a b f => bitwise (a &&& b) f) s

/-- OR. -/
def execOr (c : BitVec 5) (ext : List (BitVec 10)) (rd rs : BitVec 4) (s : State) : Host.Outcome State Fault Refusal :=
  execAlu c ext rd rs (aluForm ext rd.toNat rs.toNat) false (fun a b f => bitwise (a ||| b) f) s

/-- XOR. -/
def execXor (c : BitVec 5) (ext : List (BitVec 10)) (rd rs : BitVec 4) (s : State) : Host.Outcome State Fault Refusal :=
  execAlu c ext rd rs (aluForm ext rd.toNat rs.toNat) false (fun a b f => bitwise (a ^^^ b) f) s

/-- TST. -/
def execTst (c : BitVec 5) (ext : List (BitVec 10)) (rd rs : BitVec 4) (s : State) : Host.Outcome State Fault Refusal :=
  execCompare c ext rd rs (fun a b f => bitwise (a &&& b) f) s

/-- LSL: the count is rs[7:0] (R321). -/
def execLsl (c : BitVec 5) (ext : List (BitVec 10)) (rd rs : BitVec 4) (s : State) : Host.Outcome State Fault Refusal :=
  execAlu c ext rd rs (aluForm ext rd.toNat rs.toNat) false (fun a b f => shiftLeft a (b.toNat % 256) f) s

/-- LSR. -/
def execLsr (c : BitVec 5) (ext : List (BitVec 10)) (rd rs : BitVec 4) (s : State) : Host.Outcome State Fault Refusal :=
  execAlu c ext rd rs (aluForm ext rd.toNat rs.toNat) false (fun a b f => shiftRight a (b.toNat % 256) f) s

/-- ASR. -/
def execAsr (c : BitVec 5) (ext : List (BitVec 10)) (rd rs : BitVec 4) (s : State) : Host.Outcome State Fault Refusal :=
  execAlu c ext rd rs (aluForm ext rd.toNat rs.toNat) false (fun a b f => shiftArith a (b.toNat % 256) f) s

/-- MUL. -/
def execMul (c : BitVec 5) (ext : List (BitVec 10)) (rd rs : BitVec 4) (s : State) : Host.Outcome State Fault Refusal :=
  execAlu c ext rd rs { aluForm ext rd.toNat rs.toNat with mul := true } true mulWith s

/-- A division (R323, R325): by zero it raises DIVZ while DZE is 1, and else writes what R323 says. -/
def divBody (c rd : Nat) (ext : List (BitVec 10)) (rs : Nat) (ovf : Bool) (f : Word → Word → Flags → Word × Flags) (s : State) :
    Eff :=
  let g := coreOf s.dev c
  let b := operandS g ext rs
  if b == 0#32 then
    if g.st.getLsbD 6 then .trap 5 0 none none s else aluBody c rd ovf (fun _ => divZero) s
  else aluBody c rd ovf (fun g => f (getW g rd) b (flagsOf g.st)) s

/-- DIV. -/
def execDiv (c : BitVec 5) (ext : List (BitVec 10)) (rd rs : BitVec 4) (s : State) : Host.Outcome State Fault Refusal :=
  issue c ext (fun _ _ _ => { aluForm ext rd.toNat rs.toNat with div := true }) neverFull
    (fun _ => divBody c.toNat rd.toNat ext rs.toNat true divSigned) s

/-- DIVU. -/
def execDivu (c : BitVec 5) (ext : List (BitVec 10)) (rd rs : BitVec 4) (s : State) : Host.Outcome State Fault Refusal :=
  issue c ext (fun _ _ _ => { aluForm ext rd.toNat rs.toNat with div := true }) neverFull
    (fun _ => divBody c.toNat rd.toNat ext rs.toNat false divUnsigned) s

/-- MOVI (R324). -/
def execMovi (c : BitVec 5) (ext : List (BitVec 10)) (imm6 : BitVec 6) (rd : BitVec 4) (s : State) :
    Host.Outcome State Fault Refusal :=
  issue c ext (fun _ _ _ => moveForm [] rd.toNat) neverFull (fun _ => moveBody c.toNat rd.toNat fun _ => extended ext 6 imm6.toNat) s

/-- ADDI. -/
def execAddi (c : BitVec 5) (ext : List (BitVec 10)) (imm6 : BitVec 6) (rd : BitVec 4) (s : State) :
    Host.Outcome State Fault Refusal :=
  issue c ext (fun _ _ _ => plainForm [rd.toNat] [rd.toNat]) neverFull
    (fun _ => aluBody c.toNat rd.toNat true fun g => addWith (getW g rd.toNat) (extended ext 6 imm6.toNat) false (flagsOf g.st)) s

/-- CMPI. -/
def execCmpi (c : BitVec 5) (ext : List (BitVec 10)) (imm6 : BitVec 6) (rd : BitVec 4) (s : State) :
    Host.Outcome State Fault Refusal :=
  issue c ext (fun _ _ _ => compareForm [rd.toNat]) neverFull
    (fun _ => flagBody c.toNat fun g => subWith (getW g rd.toNat) (extended ext 6 imm6.toNat) true (flagsOf g.st)) s

/-- SHI: IMM6[5] is the direction, IMM6[4:0] the count; no EXT (R320, R324). -/
def execShi (c : BitVec 5) (ext : List (BitVec 10)) (imm6 : BitVec 6) (rd : BitVec 4) (s : State) :
    Host.Outcome State Fault Refusal :=
  issue c ext (fun _ _ _ => { plainForm [rd.toNat] [rd.toNat] with prefixes := false }) neverFull
    (fun _ => aluBody c.toNat rd.toNat false fun g =>
      if imm6.getLsbD 5 then shiftRight (getW g rd.toNat) (imm6.toNat % 32) (flagsOf g.st)
      else shiftLeft (getW g rd.toNat) (imm6.toNat % 32) (flagsOf g.st)) s

/-- The pipeline's view of a system operation on rd alone. -/
def unaryForm (rd : Nat) (flags : Bool) : Form := { plainForm [rd] [rd] with prefixes := false, setsFlags := flags }

/-- NEG: flags as SUB (R330). -/
def execNeg (c : BitVec 5) (ext : List (BitVec 10)) (rd : BitVec 4) (s : State) : Host.Outcome State Fault Refusal :=
  issue c ext (fun _ _ _ => unaryForm rd.toNat true) neverFull
    (fun _ => aluBody c.toNat rd.toNat true fun g => subWith 0#32 (getW g rd.toNat) true (flagsOf g.st)) s

/-- NOT: Z and N. -/
def execNot (c : BitVec 5) (ext : List (BitVec 10)) (rd : BitVec 4) (s : State) : Host.Outcome State Fault Refusal :=
  issue c ext (fun _ _ _ => unaryForm rd.toNat true) neverFull
    (fun _ => aluBody c.toNat rd.toNat false fun g => bitwise (~~~(getW g rd.toNat)) (flagsOf g.st)) s

/-- A system operation rd = f rd that leaves the flags. -/
def execUnary (c : BitVec 5) (ext : List (BitVec 10)) (rd : BitVec 4) (f : Word → Word) (s : State) :
    Host.Outcome State Fault Refusal :=
  issue c ext (fun _ _ _ => unaryForm rd.toNat false) neverFull (fun _ => moveBody c.toNat rd.toNat fun g => f (getW g rd.toNat)) s

/-- SEXTB. -/
def execSextb (c : BitVec 5) (ext : List (BitVec 10)) (rd : BitVec 4) (s : State) : Host.Outcome State Fault Refusal :=
  execUnary c ext rd (fun v => (v.setWidth 8).signExtend 32) s

/-- SEXTH. -/
def execSexth (c : BitVec 5) (ext : List (BitVec 10)) (rd : BitVec 4) (s : State) : Host.Outcome State Fault Refusal :=
  execUnary c ext rd (fun v => (v.setWidth 16).signExtend 32) s

/-- ZEXTB. -/
def execZextb (c : BitVec 5) (ext : List (BitVec 10)) (rd : BitVec 4) (s : State) : Host.Outcome State Fault Refusal :=
  execUnary c ext rd (fun v => (v.setWidth 8).setWidth 32) s

/-- ZEXTH. -/
def execZexth (c : BitVec 5) (ext : List (BitVec 10)) (rd : BitVec 4) (s : State) : Host.Outcome State Fault Refusal :=
  execUnary c ext rd (fun v => (v.setWidth 16).setWidth 32) s

/-- Leading zero bits of a word, 0 to 32. -/
def leadingZeros (v : Word) : Nat := ((List.range 32).takeWhile fun i => !v.getLsbD (31 - i)).length

/-- CLZ. -/
def execClz (c : BitVec 5) (ext : List (BitVec 10)) (rd : BitVec 4) (s : State) : Host.Outcome State Fault Refusal :=
  execUnary c ext rd (fun v => BitVec.ofNat 32 (leadingZeros v)) s

/-- The bytes of a word in reverse order. -/
def reverseBytes (v : Word) : Word := BitVec.ofNat 32 (natOf (bytesOf 4 v.toNat).reverse)

/-- REV. -/
def execRev (c : BitVec 5) (ext : List (BitVec 10)) (rd : BitVec 4) (s : State) : Host.Outcome State Fault Refusal :=
  execUnary c ext rd reverseBytes s

end Sys2Proof.Machine
end

