-- ==== Sys2Proof/Machine/GuideData.lean ====
section
/-! DEFINITION. The memory class, PUSH, POP, LL, SC and SYNC (R315, R326, R327, R330, R331, R345). -/

namespace Sys2Proof.Machine

/-- The registers of a memory-class access: RD, and RD + 1 for a pair. -/
def dataRegs (size rd : Nat) : List Nat := if size == 3 then [rd, rd + 1] else [rd]

/-- The pipeline's view of a load. -/
def loadForm (size : Nat) (p : Bool) (rd rb : Nat) : Form :=
  { plainForm [rb] (dataRegs size rd ++ if p then [rb] else []) with mem := true, setsFlags := false, bad := size == 3 && rd % 2 == 1 }

/-- The pipeline's view of a store. -/
def storeForm (size : Nat) (p : Bool) (rd rb : Nat) : Form :=
  { plainForm (rb :: dataRegs size rd) (if p then [rb] else []) with mem := true, setsFlags := false, bad := size == 3 && rd % 2 == 1 }

/-- Loaded bytes reach their registers: at once, or when the data returns (R337). -/
def landData (regs : List Nat) (bs : List Byte) (later : Bool) (g : GCore) : GCore :=
  let ws := regs.zipIdx.map fun x => (homeOf g x.1, BitVec.ofNat 32 (u32 bs (4 * x.2)))
  let g := ws.foldl (fun g x => unload x.1 g) g
  if later then { g with loads := g.loads ++ [⟨ws⟩] } else ws.foldl (fun g x => setHome x.1 x.2 g) g

/-- A data access that a watchpoint or DATA stops, or that goes on. -/
def watched (c a n : Nat) (write : Bool) (s : State) (go : Eff) : Eff :=
  match watchHit s.dev c a n write with
  | some j => .debug 3 j 0 s
  | none => go

/-- DATA with DETAIL and FADDR. -/
def dataTrap (detail addr : Nat) (s : State) : Eff := .trap 4 detail (some (BitVec.ofNat 32 addr)) none s

/-- A load of `n` bytes at an address into registers, with the base it leaves (R326, R327). -/
def loadBody (c a n : Nat) (regs : List Nat) (base : Option (Nat × Word)) (more : GCore → GCore) (s : State) : Eff :=
  watched c a n false s (match loadData c a n s with
    | (.wait, s) => .wait s
    | (.fault k x, s) => dataTrap k x s
    | (.data bs later, s) => .retire (onDev (onCore c fun g =>
        let g := match base with
          | some b => putW b.1 b.2 g
          | none => g
        more (landData regs bs later g)) s))

/-- A store of bytes at an address, with the base it leaves; a register of the control space takes it once the instruction has
retired (R345). -/
def storeBody (c a : Nat) (bs : List Byte) (base : Option (Nat × Word)) (s : State) : Eff :=
  let upd := onDev (onCore c fun g => match base with
    | some b => putW b.1 b.2 g
    | none => g)
  watched c a bs.length true s (match storeData c a bs s with
    | (.wait, s) => .wait s
    | (.fault k x, s) => dataTrap k x s
    | (.buffered, s) => .retire (upd s)
    | (.register, s) => .retireThen (upd s) (storeControl c a bs))

/-- LD (R326). -/
def ldBody (c : Nat) (ext : List (BitVec 10)) (size : Nat) (p : Bool) (rd rb : Nat) (s : State) : Eff :=
  let b := getW (coreOf s.dev c) rb
  loadBody c (memAddr b ext).toNat (sizeBytes size) (dataRegs size rd) (if p then some (rb, baseAfter b ext size) else none) id s

/-- LD. -/
def execLd (c : BitVec 5) (ext : List (BitVec 10)) (size : BitVec 2) (p : Bool) (rd rb : BitVec 4) (s : State) :
    Host.Outcome State Fault Refusal :=
  issue c ext (fun _ _ _ => loadForm size.toNat p rd.toNat rb.toNat) neverFull
    (fun _ => ldBody c.toNat ext size.toNat p rd.toNat rb.toNat) s

/-- The bytes a store writes: the low bytes of RD, then RD + 1 for a pair (R326). -/
def storeBytes (g : GCore) (size rd : Nat) : List Byte :=
  ((dataRegs size rd).flatMap fun r => bytesOf 4 (getW g r).toNat).take (sizeBytes size)

/-- ST (R326, R327): RD is read before the base changes. -/
def stBody (c : Nat) (ext : List (BitVec 10)) (size : Nat) (p : Bool) (rd rb : Nat) (s : State) : Eff :=
  let g := coreOf s.dev c
  let b := getW g rb
  storeBody c (memAddr b ext).toNat (storeBytes g size rd) (if p then some (rb, baseAfter b ext size) else none) s

/-- ST. -/
def execSt (c : BitVec 5) (ext : List (BitVec 10)) (size : BitVec 2) (p : Bool) (rd rb : BitVec 4) (s : State) :
    Host.Outcome State Fault Refusal :=
  issue c ext (fun _ _ _ => storeForm size.toNat p rd.toNat rb.toNat) neverFull
    (fun _ => stBody c.toNat ext size.toNat p rd.toNat rb.toNat) s

/-- The pipeline's view of a system operation that accesses memory. -/
def sysMemForm (reads writes : List Nat) : Form := { sysForm 0 with mem := true, reads := reads, writes := writes }

/-- PUSH (R330). -/
def pushBody (c rs : Nat) (s : State) : Eff :=
  let g := coreOf s.dev c
  let sp := getW g 15 - 4
  storeBody c sp.toNat (bytesOf 4 (getW g rs).toNat) (some (15, sp)) s

/-- PUSH. -/
def execPush (c : BitVec 5) (ext : List (BitVec 10)) (rs : BitVec 4) (s : State) : Host.Outcome State Fault Refusal :=
  issue c ext (fun _ _ _ => sysMemForm [15, rs.toNat] [15]) neverFull (fun _ => pushBody c.toNat rs.toNat) s

/-- POP (R330). -/
def popBody (c rd : Nat) (s : State) : Eff :=
  let sp := getW (coreOf s.dev c) 15
  loadBody c sp.toNat 4 [rd] (some (15, sp + 4)) id s

/-- POP. -/
def execPop (c : BitVec 5) (ext : List (BitVec 10)) (rd : BitVec 4) (s : State) : Host.Outcome State Fault Refusal :=
  issue c ext (fun _ _ _ => sysMemForm [15] [15, rd.toNat]) neverFull (fun _ => popBody c.toNat rd.toNat) s

/-- LL (R331): with the store buffer empty, an aligned word of local SRAM, the Screed or the aperture is loaded and reserved. -/
def llBody (c rd : Nat) (s : State) : Eff :=
  let a := (getW (coreOf s.dev c) rd).toNat
  if !(coreOf s.dev c).sbuf.isEmpty then .wait s
  else if a % 4 != 0 || areaOf a == none || areaOf a == some .control then watched c a 4 false s (dataTrap 3 a s)
  else
    let ta := transferOf s.dev c a
    loadBody c a 4 [rd] none (fun g => { g with resv := some ta }) s

/-- LL. -/
def execLl (c : BitVec 5) (ext : List (BitVec 10)) (rd : BitVec 4) (s : State) : Host.Outcome State Fault Refusal :=
  issue c ext (fun _ _ _ => sysMemForm [rd.toNat] [rd.toNat]) neverFull (fun _ => llBody c.toNat rd.toNat) s

/-- A core's word reaches memory at a transfer address at once, its present cache lines with it (R331, R340). -/
def storeNow (c ta : Nat) (bs : List Byte) (s : State) : State :=
  let s := onDev (onCore c (updateLines ta bs)) s
  if ta < hbmSize then coreHbmWrite c ta bs s else onDev (sramWrite (some c) ta bs) s

/-- SC (R331): with the store buffer empty, rs goes to the reserved word and Z is 1; without a reservation nothing is stored and Z is
0. Either way no reservation stands. -/
def scBody (c rs : Nat) (s : State) : Eff :=
  let g := coreOf s.dev c
  let fin := fun (z : Bool) (g : GCore) => { g with resv := none, st := withFlags g.st { flagsOf g.st with z := z } }
  if !g.sbuf.isEmpty then .wait s
  else match g.resv with
    | none => .retire (onDev (onCore c (fin false)) s)
    | some ta =>
      watched c (dataOf s.dev c ta) 4 true s
        (.retire (onDev (onCore c (fin true)) (storeNow c ta (bytesOf 4 (getW g rs).toNat) s)))

/-- SC. -/
def execSc (c : BitVec 5) (ext : List (BitVec 10)) (rs : BitVec 4) (s : State) : Host.Outcome State Fault Refusal :=
  issue c ext (fun _ _ _ => { sysMemForm [rs.toNat] [] with setsFlags := true }) neverFull (fun _ => scBody c.toNat rs.toNat) s

/-- SYNC (R330): complete once the store buffer is empty. -/
def syncBody (c : Nat) (s : State) : Eff := if (coreOf s.dev c).sbuf.isEmpty then .retire s else .wait s

/-- SYNC. -/
def execSync (c : BitVec 5) (ext : List (BitVec 10)) (opd : BitVec 4) (s : State) : Host.Outcome State Fault Refusal :=
  issue c ext (fun _ _ _ => sysForm opd.toNat) neverFull (fun _ => syncBody c.toNat) s

end Sys2Proof.Machine
end

