-- ==== Sys2Proof/Machine/GuideCtl.lean ====
section
/-! DEFINITION. Control transfer, loops, special registers, WAIT, traps and the return from an exception (R317, R328-R334, R338,
R348-R350, R441). -/

namespace Sys2Proof.Machine

/-- The predictor's counter for a branch word (R338): weakly not-taken after reset. -/
def counterAt (g : GCore) (a : BitVec 20) : BitVec 2 := sget (fun _ => 1#2) g.pred (a.toNat % 1024)

/-- Whether a conditional branch is predicted taken; in deterministic mode none is (R344). -/
def predictTaken (d : Dev) (g : GCore) (c : Nat) (a : BitVec 20) : Bool := !detMode d c && decide (2 ≤ (counterAt g a).toNat)

/-- The counter moves toward the outcome. -/
def train (c : Nat) (a : BitVec 20) (taken : Bool) (d : Dev) : Dev :=
  if detMode d c then d
  else onCore c (fun g =>
    let n := (counterAt g a).toNat
    let n := if taken then min 3 (n + 1) else n - 1
    { g with pred := sset (fun _ => 1#2) g.pred (a.toNat % 1024) (BitVec.ofNat 2 n) }) d

/-- A mispredicted transfer is counted. -/
def countMiss (c : Nat) (wrong : Bool) (d : Dev) : Dev := if wrong then countF d (GCORE_MISS_MISPRED c) 1 else d

/-- A conditional branch (R328, R338). -/
def branchBody (c cond : Nat) (dist : BitVec 20) (a : BitVec 20) (s : State) : Eff :=
  let g := coreOf s.dev c
  let taken := condHolds cond (flagsOf g.st)
  let s := onDev (fun d => countMiss c (predictTaken d g c a != taken) (train c a taken d)) s
  if taken then .goto (a + 1 + dist) s else .retire s

/-- BRANCH. COND 15 is reserved (R334). -/
def execBranch (c : BitVec 5) (ext : List (BitVec 10)) (cond : BitVec 4) (disp6 : BitVec 6) (s : State) :
    Host.Outcome State Fault Refusal :=
  issue c ext (fun d g a => { plainForm [] [] with
      readsFlags := true, setsFlags := false, branch := true, ends := predictTaken d g c.toNat a, bad := cond == 15 }) neverFull
    (branchBody c.toNat cond.toNat (disp ext 6 disp6.toNat)) s

/-- An instruction that always transfers control. -/
def jumpForm (reads writes : List Nat) : Form := { plainForm reads writes with setsFlags := false, ends := true }

/-- JMP (R329). -/
def execJmp (c : BitVec 5) (ext : List (BitVec 10)) (disp9 : BitVec 9) (s : State) : Host.Outcome State Fault Refusal :=
  issue c ext (fun _ _ _ => jumpForm [] []) neverFull (fun a s => .goto (a + 1 + disp ext 9 disp9.toNat) s) s

/-- A call writes A + 1 to w14 and pushes it on the return stack of 4 entries (R329, R338). -/
def linkCall (c : Nat) (a : BitVec 20) (d : Dev) : Dev :=
  onCore c (fun g => putW 14 ((a + 1).setWidth 32) { g with ras := ((a + 1) :: g.ras).take 4 }) d

/-- CALL. -/
def execCall (c : BitVec 5) (ext : List (BitVec 10)) (disp9 : BitVec 9) (s : State) : Host.Outcome State Fault Refusal :=
  issue c ext (fun _ _ _ => jumpForm [] [14]) neverFull
    (fun a s => .goto (a + 1 + disp ext 9 disp9.toNat) (onDev (linkCall c.toNat a) s)) s

/-- NOP. -/
def execNop (c : BitVec 5) (ext : List (BitVec 10)) (opd : BitVec 4) (s : State) : Host.Outcome State Fault Refusal :=
  issue c ext (fun _ _ _ => { sysForm opd.toNat with sys := false }) neverFull (fun _ s => .retire s) s

/-- JR (R330, R338): a JR w14 whose target tops the return stack pops it, another top is a misprediction. -/
def jrBody (c rs : Nat) (s : State) : Eff :=
  let g := coreOf s.dev c
  let t := (getW g rs).setWidth 20
  let s := onDev (fun d =>
    if rs != 14 || detMode d c then d
    else match g.ras with
      | [] => d
      | x :: r => if x == t then onCore c (fun g => { g with ras := r }) d else countMiss c true d) s
  .goto t s

/-- JR. -/
def execJr (c : BitVec 5) (ext : List (BitVec 10)) (rs : BitVec 4) (s : State) : Host.Outcome State Fault Refusal :=
  issue c ext (fun _ _ _ => { sysForm 0 with reads := [rs.toNat] }) neverFull (fun _ => jrBody c.toNat rs.toNat) s

/-- CALLR: rs is read before w14 is written (R330). -/
def execCallr (c : BitVec 5) (ext : List (BitVec 10)) (rs : BitVec 4) (s : State) : Host.Outcome State Fault Refusal :=
  issue c ext (fun _ _ _ => { sysForm 0 with reads := [rs.toNat], writes := [14] }) neverFull
    (fun a s => .goto ((getW (coreOf s.dev c.toNat) rs.toNat).setWidth 20) (onDev (linkCall c.toNat a) s)) s

/-- What XRET reads from the stack: PC and ST; a wait for the store buffer; or an uncorrectable error. -/
def readFrame (c sp : Nat) (s : State) : Option (Option (Word × Word)) × State :=
  match loadMem c sp 4 s with
  | (.wait, s) => (none, s)
  | (.fault _ _, s) => (some none, s)
  | (.data p _, s) =>
    match loadMem c (sp + 4) 4 s with
    | (.wait, s) => (none, s)
    | (.fault _ _, s) => (some none, s)
    | (.data t _, s) => (some (some (BitVec.ofNat 32 (natOf p), BitVec.ofNat 32 (natOf t))), s)

/-- The return from an exception (R348): PC and ST come from the supervisor stack in one step, the reservation ends, and the XRET that
matches an NMI's or a monitor's entry ends it. A stack that fails the check or cannot be read locks the core up. -/
def xretBody (c : Nat) (s : State) : Eff :=
  let sp := (coreOf s.dev c).ssp
  if !stackOk sp || 0x20000 < sp.toNat + 8 then .lock (onDev (lockUp c 3 0) s)
  else match readFrame c sp.toNat s with
    | (none, s) => .wait s
    | (some none, s) => .lock (onDev (lockUp c 3 0) s)
    | (some (some (ret, st)), s) =>
      .goto (ret.setWidth 20) (onDev (fun d =>
        let g := coreOf d c
        let d := setCore d c { unload 16 g with
          ssp := sp + 8, st := cutSt st, resv := none, nmi := if g.nmi == some sp then none else g.nmi }
        if g.monitor == some sp then leaveMonitor c d else d) s)

/-- XRET (R330, R334). -/
def execXret (c : BitVec 5) (ext : List (BitVec 10)) (opd : BitVec 4) (s : State) : Host.Outcome State Fault Refusal :=
  issue c ext (fun _ g _ => { sysForm opd.toNat with reads := [15], illegal := if supervisor g then none else some 1 }) neverFull
    (fun _ => xretBody c.toNat) s

/-- TRAP n: saved PC A + 1 (R330, R349). -/
def execTrap (c : BitVec 5) (ext : List (BitVec 10)) (n : BitVec 4) (s : State) : Host.Outcome State Fault Refusal :=
  issue c ext (fun _ _ _ => sysForm 0) neverFull (fun a s => .trap 7 n.toNat none (some (a + 1)) s) s

/-- BKPT n (R330, R441): in monitor mode a NOP that sets NESTED, else the debug event. -/
def bkptBody (c n : Nat) (s : State) : Eff :=
  if (coreOf s.dev c).monitor.isSome then .retire (onDev (fun d => setFlag d (DBG_CORE_STAT_NESTED c) true) s)
  else .debug 1 0 n s

/-- BKPT. -/
def execBkpt (c : BitVec 5) (ext : List (BitVec 10)) (n : BitVec 4) (s : State) : Host.Outcome State Fault Refusal :=
  issue c ext (fun _ _ _ => sysForm 0) neverFull (fun _ => bkptBody c.toNat n.toNat) s

/-- WAIT (R330): the core suspends until an eligible interrupt, an NMI or a debug request; one that is there already ends it at
once. -/
def waitBody (c : Nat) (s : State) : Eff :=
  if awakens s.dev c then .retire s else .retire (onDev (onCore c fun g => { g with waiting := true }) s)

/-- WAIT. -/
def execWait (c : BitVec 5) (ext : List (BitVec 10)) (opd : BitVec 4) (s : State) : Host.Outcome State Fault Refusal :=
  issue c ext (fun _ _ _ => sysForm opd.toNat) neverFull (fun _ => waitBody c.toNat) s

/-- LOOP (R332): a count of 0 skips the body; else the next level starts. -/
def loopBody (c rc len : Nat) (a : BitVec 20) (s : State) : Eff :=
  let g := coreOf s.dev c
  let n := getW g rc
  if n == 0#32 then .goto (a + 1 + BitVec.ofNat 20 len) s
  else
    let d := loopDepth g
    .goto (a + 1) (onDev (onCore c fun g => { g with
      ls := sset (fun _ => 0#20) g.ls d (a + 1)
      le := sset (fun _ => 0#20) g.le d (a + BitVec.ofNat 20 len)
      lc := sset (fun _ => 0#32) g.lc d n
      st := withDepth g.st (d + 1) }) s)

/-- LOOP: a prefix value of at least 1 must precede it (R320); at depth 4 it raises LOOP. -/
def execLoop (c : BitVec 5) (ext : List (BitVec 10)) (rc : BitVec 4) (s : State) : Host.Outcome State Fault Refusal :=
  issue c ext (fun _ _ _ => { sysForm 0 with
      prefixes := true, reads := [rc.toNat], illegal := if prefixValue ext == 0 then some 2 else none })
    (fun g => loopDepth g == 4 && getW g rc.toNat != 0#32) (loopBody c.toNat rc.toNat (prefixValue ext)) s

/-- BREAKL (R330). -/
def breaklBody (c : Nat) (a : BitVec 20) (s : State) : Eff :=
  .goto (a + 1) (onDev (onCore c fun g => { g with st := withDepth g.st (loopDepth g - 1) }) s)

/-- BREAKL. -/
def execBreakl (c : BitVec 5) (ext : List (BitVec 10)) (opd : BitVec 4) (s : State) : Host.Outcome State Fault Refusal :=
  issue c ext (fun _ _ _ => sysForm opd.toNat) neverFull (breaklBody c.toNat) s

/-- Whether user mode may not name a special register (R317). -/
def privileged (sr : Nat) : Bool := 1 ≤ sr && sr ≤ 3

/-- DETAIL 1 in user mode for the special registers R317 marks. -/
def srForm (g : GCore) (sr : Nat) : Form :=
  { sysForm 0 with illegal := if !supervisor g && privileged sr then some 1 else none }

/-- A special register (R317). -/
def getSr (g : GCore) (sr : Nat) : Word :=
  if sr == 0 then g.st else if sr == 1 then g.usp else if sr == 2 then g.cause else if sr == 3 then g.faddr
  else if sr < 8 then (sget (fun _ => 0#20) g.ls (sr - 4)).setWidth 32
  else if sr < 12 then (sget (fun _ => 0#20) g.le (sr - 8)).setWidth 32
  else sget (fun _ => 0#32) g.lc (sr - 12)

/-- Write a special register (R317): in user mode a write of ST changes Z, N, C and V only. -/
def setSr (sr : Nat) (v : Word) (g : GCore) : GCore :=
  if sr == 0 then { g with st := if supervisor g then cutSt v else withFlags g.st (flagsOf v) }
  else if sr == 1 then { unload 15 g with usp := v }
  else if sr == 2 then { g with cause := v &&& 0xFF#32 }
  else if sr == 3 then { g with faddr := v }
  else if sr < 8 then { g with ls := sset (fun _ => 0#20) g.ls (sr - 4) (v.setWidth 20) }
  else if sr < 12 then { g with le := sset (fun _ => 0#20) g.le (sr - 8) (v.setWidth 20) }
  else { g with lc := sset (fun _ => 0#32) g.lc (sr - 12) v }

/-- MTS: it takes effect for the next instruction (R317, R349), after its own loop-end action. -/
def mtsBody (c sr rs : Nat) (s : State) : Eff :=
  let v := getW (coreOf s.dev c) rs
  .retireThen s (onDev (onCore c (setSr sr v)))

/-- MTS. -/
def execMts (c : BitVec 5) (ext : List (BitVec 10)) (sr rs : BitVec 4) (s : State) : Host.Outcome State Fault Refusal :=
  issue c ext (fun _ g _ => { srForm g sr.toNat with reads := [rs.toNat] }) neverFull (fun _ => mtsBody c.toNat sr.toNat rs.toNat) s

/-- MFS. USP may wait for a load that writes it. -/
def execMfs (c : BitVec 5) (ext : List (BitVec 10)) (sr rd : BitVec 4) (s : State) : Host.Outcome State Fault Refusal :=
  issue c ext (fun _ g _ => { srForm g sr.toNat with writes := [rd.toNat] }) neverFull
    (fun _ s => if sr.toNat == 1 && (coreOf s.dev c.toNat).loads.any (fun l => l.regs.any fun x => x.1 == 15) then .wait s
      else moveBody c.toNat rd.toNat (fun g => getSr g sr.toNat) s) s

/-- ILLEGAL: the word 0x3FFF (R334). -/
def execIllegal (c : BitVec 5) (ext : List (BitVec 10)) (s : State) : Host.Outcome State Fault Refusal :=
  issue c ext (fun _ _ _ => { sysForm 0 with illegal := some 0 }) neverFull (fun _ s => .wait s) s

end Sys2Proof.Machine
end

