-- ==== Sys2Proof/Machine/Tap.lean ====
section
/-! DEFINITION. The test access port and the debug access port (R435-R439). -/

namespace Sys2Proof.Machine

/-- The TAP works from VAUX (R435). -/
def tapOn (f : Dev → Dev) (s : State) : State := if s.dev.pw.vauxGood then onDev f s else s

/-- An instruction is shifted into the TAP; what leaves on TDO through its data register, nearest bit first. -/
def selectIr (ir : Nat) (tdo : List Bool) (d : Dev) : Dev := emit (.tdo tdo) { d with dbg := { d.dbg with ir := ir } }

/-- The bits of a number, least significant first. -/
def bitList (n v : Nat) : List Bool := (List.range n).map (bitOf v)

/-- TAP_RESET: IDCODE is selected, the rest of the device unchanged. -/
def execTapReset (s : State) : Host.Outcome State Fault Refusal :=
  .next (tapOn (fun d => { d with dbg := { d.dbg with ir := 1 } }) s)

/-- EXTEST. -/
def execExtest (s : State) : Host.Outcome State Fault Refusal :=
  .next (tapOn (fun d => selectIr 0 (bitList 225 d.dbg.boundary.toNat) d) s)

/-- IDCODE: the 32-bit identification (R435). -/
def execIdcode (s : State) : Host.Outcome State Fault Refusal := .next (tapOn (selectIr 1 (bitList 32 0xB960034F)) s)

/-- The three cells of scanned pin `k`: input, output, output enable (R436). The flash pins move between steps: free bits, but
high-impedance while RESET_N is low (R297). -/
def pinCells (d : Dev) (f k : Nat) : List Bool :=
  let drain := fun (low : Bool) => [!low, false, low]
  if k < 64 then [pinLevel d k, (padNow d k).value, (padNow d k).enable]
  else if k == 64 then [d.pw.resetN, false, false]
  else if k == 65 then drain (flag d CAIRN_STATUS_FLT)
  else if k == 66 then drain (lockedCores d != 0)
  else if k == 67 then drain (!d.pw.pwrGood)
  else if k == 68 then drain (!d.pw.thermN)
  else [Config.freeBit (256 * f + 3 * k), Config.freeBit (256 * f + 3 * k + 1), d.pw.resetN && Config.freeBit (256 * f + 3 * k + 2)]

/-- The boundary register as a sample of the pins. -/
def samplePins (d : Dev) : List Bool × Dev :=
  let (f, d) := fresh d
  ((List.range 75).flatMap (pinCells d f), d)

/-- A bit list as a number. -/
def bitsNat (l : List Bool) : Nat := l.foldr (fun b n => b2n b + 2 * n) 0

/-- SAMPLE/PRELOAD: the pins are sampled, and `pins` is shifted into the boundary register. -/
def samplePreload (pins : BitVec 225) (d : Dev) : Dev :=
  let (bs, d) := samplePins d
  selectIr 2 bs { d with dbg := { d.dbg with boundary := pins, sample := BitVec.ofNat 225 (bitsNat bs) } }

/-- SAMPLE_PRELOAD. -/
def execSamplePreload (pins : BitVec 225) (s : State) : Host.Outcome State Fault Refusal := .next (tapOn (samplePreload pins) s)

/-- CLAMP. -/
def execClamp (s : State) : Host.Outcome State Fault Refusal := .next (tapOn (selectIr 3 [false]) s)

/-- HIGHZ. -/
def execHighz (s : State) : Host.Outcome State Fault Refusal := .next (tapOn (selectIr 4 [false]) s)

/-- BYPASS. -/
def execBypass (s : State) : Host.Outcome State Fault Refusal := .next (tapOn (selectIr 0x1F [false]) s)

/-- A DAPACC scan (R437): the result of the previous request leaves; a request that runs shows busy, and the scan's own is
discarded; else a read or write request starts. -/
def scan (request : BitVec 80) (d : Dev) : Dev :=
  let x := d.dbg
  match x.request with
  | some _ => selectIr 8 (bitList 80 1) d
  | none =>
    let d := selectIr 8 (bitList 80 (x.status + x.data.toNat * 2 ^ 48)) d
    let op := request.toNat % 4
    if op == 1 || op == 2 then { d with dbg := { d.dbg with request := some request } } else d

/-- DAPACC. -/
def execDapacc (request : BitVec 80) (s : State) : Host.Outcome State Fault Refusal := .next (tapOn (scan request) s)

/-- The fields of a request: NSE, SPACE, CORE, ADDR. -/
def reqFields (r : BitVec 80) : Bool × Nat × Nat × Nat :=
  let v := r.toNat
  (bitOf v 2, bitsOf v 5 3, bitsOf v 10 6, bitsOf v 47 11)

/-- A request ends with STATUS and DATA (R437). -/
def answer (status : Nat) (data : Word) (d : Dev) : Dev := { d with dbg := { d.dbg with request := none, status := status, data := data } }

/-- Whether the debug port reaches a core's registers (R438): stopped, halted, or, to read, locked up. -/
def registersOpen (d : Dev) (c : Nat) (write : Bool) : Bool :=
  let st := coreState d c
  colUp d && (st == 0 || st == 4 || (st == 3 && !write))

/-- A core's register by index (R438). -/
def dapGet (g : GCore) (i : Nat) : Option Word :=
  if i < 16 then some (getW g i)
  else if i == 16 then some (g.pc.setWidth 32)
  else if i == 17 then some g.st
  else if i == 18 then some g.usp
  else if i == 19 then some g.ssp
  else if i == 20 then some g.cause
  else if i == 21 then some g.faddr
  else if 24 ≤ i ∧ i < 36 then some (getSr g (i - 20))
  else none

/-- Write a core's register by index. -/
def dapSet (i : Nat) (v : Word) (g : GCore) : GCore :=
  if i < 16 then putW i v g
  else if i == 16 then { g with pc := v.setWidth 20 }
  else if i == 17 then { g with st := cutSt v }
  else if i == 18 then { g with usp := v }
  else if i == 19 then { g with ssp := v }
  else if i == 20 then { g with cause := v &&& 0xFF#32 }
  else if i == 21 then { g with faddr := v }
  else setSr (i - 20) v g

/-- The space of R437 an address of a request lies in, as a transfer address for memories; none where nothing is mapped. -/
def dapTarget (space core a : Nat) : Option Nat :=
  if space == 1 then (if a < hbmSize then some a else none)
  else if space == 2 then (if a < screedSize then some (screedBase + a) else none)
  else if space == 3 then (if a < 0x20000 then some (localBase core + a) else none)
  else none

/-- A read request runs (R437-R439, R149). -/
def dapReadOp (r : BitVec 80) (s : State) : State :=
  let (nse, space, core, addr) := reqFields r
  let a := addr / 4 * 4
  if space == 0 then
    onDev (fun d =>
      if 0x1000000 ≤ addr then answer 2 0 d
      else
        let d := readReg .dap .dap nse addr d
        answer 0 d.busRead d) s
  else if space == 4 then
    onDev (fun d => if 0x10000 ≤ addr || progBad d core addr then answer 2 0 d else answer 0 ((progWord d core addr).setWidth 32) d) s
  else if space == 5 then
    onDev (fun d =>
      if !registersOpen d core false then answer 3 0 d
      else
        let d := onCore core deliverAll d
        match dapGet (coreOf d core) addr with
        | some v => answer 0 v d
        | none => answer 2 0 d) s
  else match dapTarget space core a with
    | none => onDev (answer 2 0) s
    | some ta =>
      match xferRead ta 4 s with
      | (.data bs, s) => onDev (answer 0 (BitVec.ofNat 32 (natOf bs))) s
      | (.wait, s) => s
      | (.fault _, s) => onDev (answer 2 0) s

/-- DAP_READ. -/
def execDapRead (s : State) : Host.Outcome State Fault Refusal :=
  .next (whenWritable .dap (fun s => match s.dev.dbg.request with
    | some r => if r.toNat % 4 == 1 then dapReadOp r s else s
    | none => s) s)

/-- A write request runs: a write of program SRAM that R342 does not allow is ignored and recorded. -/
def dapWriteOp (r : BitVec 80) (s : State) : State :=
  let (nse, space, core, addr) := reqFields r
  let v := BitVec.ofNat 32 (r.toNat / 2 ^ 48)
  let bs := bytesOf 4 v.toNat
  if space == 0 then
    (if 0x1000000 ≤ addr then onDev (answer 2 0) s
     else if addr == GCORE_PDATA then onDev (fun d => answer 0 0 (accessProg true nse v d)) s
     else onDev (answer 0 0) (settle (writeReg .dap addr v s)))
  else if space == 4 then
    onDev (fun d => if 0x10000 ≤ addr then answer 2 0 d else answer 0 0 (writeProg core addr (v.setWidth 14) d)) s
  else if space == 5 then
    onDev (fun d =>
      if !registersOpen d core true then answer 3 0 d
      else if (dapGet (coreOf d core) addr).isNone then answer 2 0 d
      else answer 0 0 (onCore core (fun g => dapSet addr v { deliverAll g with group := none }) d)) s
  else match dapTarget space core (addr / 4 * 4) with
    | none => onDev (answer 2 0) s
    | some ta => onDev (answer 0 0) (if space == 1 then hbmWrite ta bs s else onDev (sramWrite none ta bs) s)

/-- DAP_WRITE. -/
def execDapWrite (s : State) : Host.Outcome State Fault Refusal :=
  .next (whenWritable .dap (fun s => match s.dev.dbg.request with
    | some r => if r.toNat % 4 == 2 then dapWriteOp r s else s
    | none => s) s)

end Sys2Proof.Machine
end

