-- ==== Sys2Proof/Machine/Dispatch.lean ====
section
/-! DEFINITION. One arm per command of the opcode table, each a direct call of its meaning. -/

namespace Sys2Proof.Machine

/-- The effect of one command. -/
def exec (i : Instr) (s : State) : Host.Outcome State Fault Refusal :=
  match i with
  | .registerWrite a width off v => Sys2Proof.Machine.execRegisterWrite a width off v s
  | .readClear a nse r => Sys2Proof.Machine.execReadClear a nse r s
  | .loRead a nse r => Sys2Proof.Machine.execLoRead a nse r s
  | .resetN => Sys2Proof.Machine.execResetN s
  | .vauxFirstGood => Sys2Proof.Machine.execVauxFirstGood s
  | .vauxLoss => Sys2Proof.Machine.execVauxLoss s
  | .vinGood => Sys2Proof.Machine.execVinGood s
  | .vioChange bankB good => Sys2Proof.Machine.execVioChange bankB good s
  | .railOutOfWindow rail => Sys2Proof.Machine.execRailOutOfWindow rail s
  | .powerMeasurement watts vinMv vinCa mj capMv excess => Sys2Proof.Machine.execPowerMeasurement watts vinMv vinCa mj capMv excess s
  | .temperatureReading face col reg0 reg1 hbm tempMv => Sys2Proof.Machine.execTemperatureReading face col reg0 reg1 hbm tempMv s
  | .configurationRead copyA copyB sfdp quad sizeLog2 => Sys2Proof.Machine.execConfigurationRead copyA copyB sfdp quad sizeLog2 s
  | .baseCampStart => Sys2Proof.Machine.execBaseCampStart s
  | .hbmTrainingComplete => Sys2Proof.Machine.execHbmTrainingComplete s
  | .engineInitComplete => Sys2Proof.Machine.execEngineInitComplete s
  | .bootWindowExpiry => Sys2Proof.Machine.execBootWindowExpiry s
  | .transitionEnd => Sys2Proof.Machine.execTransitionEnd s
  | .managerTimeout => Sys2Proof.Machine.execManagerTimeout s
  | .strand => Sys2Proof.Machine.execStrand s
  | .strandTimeout => Sys2Proof.Machine.execStrandTimeout s
  | .traverseBegin tile => Sys2Proof.Machine.execTraverseBegin tile s
  | .tileStep tile => Sys2Proof.Machine.execTileStep tile s
  | .tileNetworkArrival index => Sys2Proof.Machine.execTileNetworkArrival index s
  | .portAccessComplete port => Sys2Proof.Machine.execPortAccessComplete port s
  | .traverseEnd tile => Sys2Proof.Machine.execTraverseEnd tile s
  | .traceRecordWrite => Sys2Proof.Machine.execTraceRecordWrite s
  | .stepMemoryScrub evaluator step => Sys2Proof.Machine.execStepMemoryScrub evaluator step s
  | .patrolScrub word => Sys2Proof.Machine.execPatrolScrub word s
  | .stall => Sys2Proof.Machine.execStall s
  | .hostwaitLimit => Sys2Proof.Machine.execHostwaitLimit s
  | .rateWindow => Sys2Proof.Machine.execRateWindow s
  | .hold rx => Sys2Proof.Machine.execHold rx s
  | .high rx h => Sys2Proof.Machine.execHigh rx h s
  | .stop rx sv => Sys2Proof.Machine.execStop rx sv s
  | .arrived rx sv => Sys2Proof.Machine.execArrived rx sv s
  | .feeder rx => Sys2Proof.Machine.execFeeder rx s
  | .hostwaitOn rx endpoint => Sys2Proof.Machine.execHostwaitOn rx endpoint s
  | .hostwaitOff rx endpoint => Sys2Proof.Machine.execHostwaitOff rx endpoint s
  | .ropeLost rx lastSeq rope => Sys2Proof.Machine.execRopeLost rx lastSeq rope s
  | .floor rx count restores => Sys2Proof.Machine.execFloor rx count restores s
  | .signal rx parity values => Sys2Proof.Machine.execSignal rx parity values s
  | .signalFlitClose partition parity => Sys2Proof.Machine.execSignalFlitClose partition parity s
  | .belay rope reason origin epoch => Sys2Proof.Machine.execBelay rope reason origin epoch s
  | .heartbeat rope pos mode role stranded => Sys2Proof.Machine.execHeartbeat rope pos mode role stranded s
  | .linkBelayRaise a v => Sys2Proof.Machine.execLinkBelayRaise a v s
  | .lcTrain rope pos peerRope fallback lanes ready => Sys2Proof.Machine.execLcTrain rope pos peerRope fallback lanes ready s
  | .lcStatus rope payload => Sys2Proof.Machine.execLcStatus rope payload s
  | .lcNak rope expSeq lanes => Sys2Proof.Machine.execLcNak rope expSeq lanes s
  | .lcStatusTimer rope => Sys2Proof.Machine.execLcStatusTimer rope s
  | .ropeTrainingTimeout rope => Sys2Proof.Machine.execRopeTrainingTimeout rope s
  | .resendTimeout rope => Sys2Proof.Machine.execResendTimeout rope s
  | .ropeAckTimeout rope => Sys2Proof.Machine.execRopeAckTimeout rope s
  | .laneLoss rope lane => Sys2Proof.Machine.execLaneLoss rope lane s
  | .laneDis a rope v => Sys2Proof.Machine.execLaneDis a rope v s
  | .retrainPeriod rope lane => Sys2Proof.Machine.execRetrainPeriod rope lane s
  | .laneRejoin rope lane => Sys2Proof.Machine.execLaneRejoin rope lane s
  | .retrain a rope v => Sys2Proof.Machine.execRetrain a rope v s
  | .deviceSilence rope => Sys2Proof.Machine.execDeviceSilence rope s
  | .timeExchangePeriod t1 => Sys2Proof.Machine.execTimeExchangePeriod t1 s
  | .timeRequest rope t1 t2 t3 => Sys2Proof.Machine.execTimeRequest rope t1 t2 t3 s
  | .timeReply rope t1 t2 t3 t4 => Sys2Proof.Machine.execTimeReply rope t1 t2 t3 t4 s
  | .parity rx seq8 deltas => Sys2Proof.Machine.execParity rx seq8 deltas s
  | .parityMark rx ckpSeq count => Sys2Proof.Machine.execParityMark rx ckpSeq count s
  | .parityFlitClose => Sys2Proof.Machine.execParityFlitClose s
  | .rebuildWords rx seq8 words => Sys2Proof.Machine.execRebuildWords rx seq8 words s
  | .rebuildPageEnd rx page count => Sys2Proof.Machine.execRebuildPageEnd rx page count s
  | .bar2Read port addr len => Sys2Proof.Machine.execBar2Read port addr len s
  | .bar2Write port addr data => Sys2Proof.Machine.execBar2Write port addr data s
  | .pageRestore page => Sys2Proof.Machine.execPageRestore page s
  | .wallCapExpiry => Sys2Proof.Machine.execWallCapExpiry s
  | .request rx => Sys2Proof.Machine.execRequest rx s
  | .reply rx fence => Sys2Proof.Machine.execReply rx fence s
  | .boundary rx seq k => Sys2Proof.Machine.execBoundary rx seq k s
  | .ready rx seq k fromSpare asks => Sys2Proof.Machine.execReady rx seq k fromSpare asks s
  | .commit rx seq k => Sys2Proof.Machine.execCommit rx seq k s
  | .abandon rx seq k => Sys2Proof.Machine.execAbandon rx seq k s
  | .rollback rx seq k => Sys2Proof.Machine.execRollback rx seq k s
  | .restoreComplete => Sys2Proof.Machine.execRestoreComplete s
  | .jack rx seq offset stored => Sys2Proof.Machine.execJack rx seq offset stored s
  | .ckpdataState rx seq7 offset words => Sys2Proof.Machine.execCkpdataState rx seq7 offset words s
  | .ckpdataTram rx seq7 offset words => Sys2Proof.Machine.execCkpdataTram rx seq7 offset words s
  | .ckpdataQpos rx seq7 offset words => Sys2Proof.Machine.execCkpdataQpos rx seq7 offset words s
  | .ckpdataJrnl rx seq7 offset words => Sys2Proof.Machine.execCkpdataJrnl rx seq7 offset words s
  | .ckpdataEnd rx seq k flits => Sys2Proof.Machine.execCkpdataEnd rx seq k flits s
  | .quePublish a v => Sys2Proof.Machine.execQuePublish a v s
  | .queRelease a v => Sys2Proof.Machine.execQueRelease a v s
  | .entry rx queue chunk last index data => Sys2Proof.Machine.execEntry rx queue chunk last index data s
  | .prod rx queue value => Sys2Proof.Machine.execProd rx queue value s
  | .cons rx queue value => Sys2Proof.Machine.execCons rx queue value s
  | .refuse rx queue entry code => Sys2Proof.Machine.execRefuse rx queue entry code s
  | .reattach rx queue resume => Sys2Proof.Machine.execReattach rx queue resume s
  | .trigLine rx line t unit => Sys2Proof.Machine.execTrigLine rx line t unit s
  | .trigFreeze rx t unit => Sys2Proof.Machine.execTrigFreeze rx t unit s
  | .triggerUnitWrite a unit reg v => Sys2Proof.Machine.execTriggerUnitWrite a unit reg v s
  | .traceMaskWrite a n v => Sys2Proof.Machine.execTraceMaskWrite a n v s
  | .trace rx source tag offset data => Sys2Proof.Machine.execTrace rx source tag offset data s
  | .replayEnd => Sys2Proof.Machine.execReplayEnd s
  | .cairnEvent source detail traverse => Sys2Proof.Machine.execCairnEvent source detail traverse s
  | .ackWindowExpiry n => Sys2Proof.Machine.execAckWindowExpiry n s
  | .cairnAck a n v => Sys2Proof.Machine.execCairnAck a n v s
  | .latchClear a v => Sys2Proof.Machine.execLatchClear a v s
  | .fltNPulseEnd => Sys2Proof.Machine.execFltNPulseEnd s
  | .cairnSrcWrite a source v => Sys2Proof.Machine.execCairnSrcWrite a source v s
  | .inject a v => Sys2Proof.Machine.execInject a v s
  | .report rx rec => Sys2Proof.Machine.execReport rx rec s
  | .silent rx pos => Sys2Proof.Machine.execSilent rx pos s
  | .safe rx seq rec => Sys2Proof.Machine.execSafe rx seq rec s
  | .settleExpiry => Sys2Proof.Machine.execSettleExpiry s
  | .mode rx epoch arg value period wallcap lead => Sys2Proof.Machine.execMode rx epoch arg value period wallcap lead s
  | .topo rx epoch pos value => Sys2Proof.Machine.execTopo rx epoch pos value s
  | .map rx epoch partition value => Sys2Proof.Machine.execMap rx epoch partition value s
  | .lost rx epoch pos => Sys2Proof.Machine.execLost rx epoch pos s
  | .ack rx epoch pos value => Sys2Proof.Machine.execAck rx epoch pos value s
  | .beat rx epoch pos bound seq restores => Sys2Proof.Machine.execBeat rx epoch pos bound seq restores s
  | .beatPeriod => Sys2Proof.Machine.execBeatPeriod s
  | .census rx epoch pos => Sys2Proof.Machine.execCensus rx epoch pos s
  | .censusReply rx epoch pos bound seq role edited => Sys2Proof.Machine.execCensusReply rx epoch pos bound seq role edited s
  | .censusClose => Sys2Proof.Machine.execCensusClose s
  | .adopt rx epoch partition k seq => Sys2Proof.Machine.execAdopt rx epoch partition k seq s
  | .adoptImageLoaded => Sys2Proof.Machine.execAdoptImageLoaded s
  | .adopted rx epoch partition => Sys2Proof.Machine.execAdopted rx epoch partition s
  | .takeover rx epoch pos k seq oldMgr => Sys2Proof.Machine.execTakeover rx epoch pos k seq oldMgr s
  | .done rx epoch pos bound h => Sys2Proof.Machine.execDone rx epoch pos bound h s
  | .appoint rx epoch pos => Sys2Proof.Machine.execAppoint rx epoch pos s
  | .rebuildReq rx epoch partition addr oneWord => Sys2Proof.Machine.execRebuildReq rx epoch partition addr oneWord s
  | .stepword rx epoch partition tile evaluator step isReply word => Sys2Proof.Machine.execStepword rx epoch partition tile evaluator step isReply word s
  | .probe rx epoch pos count mapEpoch => Sys2Proof.Machine.execProbe rx epoch pos count mapEpoch s
  | .probePeriod => Sys2Proof.Machine.execProbePeriod s
  | .hostMbGo port v => Sys2Proof.Machine.execHostMbGo port v s
  | .hostMbPop port v => Sys2Proof.Machine.execHostMbPop port v s
  | .hostPpSqTail a port v fetched => Sys2Proof.Machine.execHostPpSqTail a port v fetched s
  | .hostPpCqHead a port v => Sys2Proof.Machine.execHostPpCqHead a port v s
  | .hostPpCqCfg a port v => Sys2Proof.Machine.execHostPpCqCfg a port v s
  | .portReset port cause => Sys2Proof.Machine.execPortReset port cause s
  | .portLinkUp port gen width => Sys2Proof.Machine.execPortLinkUp port gen width s
  | .status r => Sys2Proof.Machine.execStatus r s
  | .regRead r => Sys2Proof.Machine.execRegRead r s
  | .regWrite r => Sys2Proof.Machine.execRegWrite r s
  | .belayCommand r => Sys2Proof.Machine.execBelayCommand r s
  | .load r => Sys2Proof.Machine.execLoad r s
  | .loadPart r image busError => Sys2Proof.Machine.execLoadPart r image busError s
  | .loadComplete => Sys2Proof.Machine.execLoadComplete s
  | .loadAbort r => Sys2Proof.Machine.execLoadAbort r s
  | .unload r => Sys2Proof.Machine.execUnload r s
  | .run r => Sys2Proof.Machine.execRun r s
  | .step r => Sys2Proof.Machine.execStep r s
  | .freeze r => Sys2Proof.Machine.execFreeze r s
  | .resume r => Sys2Proof.Machine.execResume r s
  | .replay r => Sys2Proof.Machine.execReplay r s
  | .replayAbort r => Sys2Proof.Machine.execReplayAbort r s
  | .memRead r => Sys2Proof.Machine.execMemRead r s
  | .memWrite r data busError => Sys2Proof.Machine.execMemWrite r data busError s
  | .fabricRead r => Sys2Proof.Machine.execFabricRead r s
  | .fabricWrite r data busError => Sys2Proof.Machine.execFabricWrite r data busError s
  | .traceRead r => Sys2Proof.Machine.execTraceRead r s
  | .queueAttach r => Sys2Proof.Machine.execQueueAttach r s
  | .commandSlice r => Sys2Proof.Machine.execCommandSlice r s
  | .cmd rx rtag part data => Sys2Proof.Machine.execCmd rx rtag part data s
  | .cmdResp rx rtag part data => Sys2Proof.Machine.execCmdResp rx rtag part data s
  | .bulk rx kind rtag offset data => Sys2Proof.Machine.execBulk rx kind rtag offset data s
  | .mov c ext rd rs => Sys2Proof.Machine.execMov c ext rd rs s
  | .add c ext rd rs => Sys2Proof.Machine.execAdd c ext rd rs s
  | .adc c ext rd rs => Sys2Proof.Machine.execAdc c ext rd rs s
  | .sub c ext rd rs => Sys2Proof.Machine.execSub c ext rd rs s
  | .sbc c ext rd rs => Sys2Proof.Machine.execSbc c ext rd rs s
  | .cmp c ext rd rs => Sys2Proof.Machine.execCmp c ext rd rs s
  | .and c ext rd rs => Sys2Proof.Machine.execAnd c ext rd rs s
  | .or c ext rd rs => Sys2Proof.Machine.execOr c ext rd rs s
  | .xor c ext rd rs => Sys2Proof.Machine.execXor c ext rd rs s
  | .tst c ext rd rs => Sys2Proof.Machine.execTst c ext rd rs s
  | .lsl c ext rd rs => Sys2Proof.Machine.execLsl c ext rd rs s
  | .lsr c ext rd rs => Sys2Proof.Machine.execLsr c ext rd rs s
  | .asr c ext rd rs => Sys2Proof.Machine.execAsr c ext rd rs s
  | .mul c ext rd rs => Sys2Proof.Machine.execMul c ext rd rs s
  | .div c ext rd rs => Sys2Proof.Machine.execDiv c ext rd rs s
  | .divu c ext rd rs => Sys2Proof.Machine.execDivu c ext rd rs s
  | .movi c ext imm6 rd => Sys2Proof.Machine.execMovi c ext imm6 rd s
  | .addi c ext imm6 rd => Sys2Proof.Machine.execAddi c ext imm6 rd s
  | .cmpi c ext imm6 rd => Sys2Proof.Machine.execCmpi c ext imm6 rd s
  | .shi c ext imm6 rd => Sys2Proof.Machine.execShi c ext imm6 rd s
  | .ld c ext size p rd rb => Sys2Proof.Machine.execLd c ext size p rd rb s
  | .st c ext size p rd rb => Sys2Proof.Machine.execSt c ext size p rd rb s
  | .branch c ext cond disp6 => Sys2Proof.Machine.execBranch c ext cond disp6 s
  | .jmp c ext disp9 => Sys2Proof.Machine.execJmp c ext disp9 s
  | .call c ext disp9 => Sys2Proof.Machine.execCall c ext disp9 s
  | .nop c ext opd => Sys2Proof.Machine.execNop c ext opd s
  | .jr c ext rs => Sys2Proof.Machine.execJr c ext rs s
  | .callr c ext rs => Sys2Proof.Machine.execCallr c ext rs s
  | .xret c ext opd => Sys2Proof.Machine.execXret c ext opd s
  | .trap c ext n => Sys2Proof.Machine.execTrap c ext n s
  | .bkpt c ext n => Sys2Proof.Machine.execBkpt c ext n s
  | .wait c ext opd => Sys2Proof.Machine.execWait c ext opd s
  | .loop c ext rc => Sys2Proof.Machine.execLoop c ext rc s
  | .breakl c ext opd => Sys2Proof.Machine.execBreakl c ext opd s
  | .ll c ext rd => Sys2Proof.Machine.execLl c ext rd s
  | .sc c ext rs => Sys2Proof.Machine.execSc c ext rs s
  | .push c ext rs => Sys2Proof.Machine.execPush c ext rs s
  | .pop c ext rd => Sys2Proof.Machine.execPop c ext rd s
  | .sync c ext opd => Sys2Proof.Machine.execSync c ext opd s
  | .neg c ext rd => Sys2Proof.Machine.execNeg c ext rd s
  | .not c ext rd => Sys2Proof.Machine.execNot c ext rd s
  | .mts c ext sr rs => Sys2Proof.Machine.execMts c ext sr rs s
  | .mfs c ext sr rd => Sys2Proof.Machine.execMfs c ext sr rd s
  | .sextb c ext rd => Sys2Proof.Machine.execSextb c ext rd s
  | .sexth c ext rd => Sys2Proof.Machine.execSexth c ext rd s
  | .zextb c ext rd => Sys2Proof.Machine.execZextb c ext rd s
  | .zexth c ext rd => Sys2Proof.Machine.execZexth c ext rd s
  | .clz c ext rd => Sys2Proof.Machine.execClz c ext rd s
  | .rev c ext rd => Sys2Proof.Machine.execRev c ext rd s
  | .illegal c ext => Sys2Proof.Machine.execIllegal c ext s
  | .extint c => Sys2Proof.Machine.execExtint c s
  | .nmi => Sys2Proof.Machine.execNmi s
  | .dataLoadReturn c => Sys2Proof.Machine.execDataLoadReturn c s
  | .programCacheFill c line => Sys2Proof.Machine.execProgramCacheFill c line s
  | .storeBufferDrain c => Sys2Proof.Machine.execStoreBufferDrain c s
  | .gcoreRun a c v => Sys2Proof.Machine.execGcoreRun a c v s
  | .gcoreReset a c v => Sys2Proof.Machine.execGcoreReset a c v s
  | .det a c v => Sys2Proof.Machine.execDet a c v s
  | .icinv a c v => Sys2Proof.Machine.execIcinv a c v s
  | .dcinv a c v => Sys2Proof.Machine.execDcinv a c v s
  | .gcorePdata a write nse v => Sys2Proof.Machine.execGcorePdata a write nse v s
  | .claim a nse c => Sys2Proof.Machine.execClaim a nse c s
  | .complete a c v => Sys2Proof.Machine.execComplete a c v s
  | .swi a v => Sys2Proof.Machine.execSwi a v s
  | .clrpend a source v => Sys2Proof.Machine.execClrpend a source v s
  | .disable a v => Sys2Proof.Machine.execDisable a v s
  | .glitchFilter pin level => Sys2Proof.Machine.execGlitchFilter pin level s
  | .countTick timer => Sys2Proof.Machine.execCountTick timer s
  | .tmrCountLatch a timer => Sys2Proof.Machine.execTmrCountLatch a timer s
  | .capture timer k edge => Sys2Proof.Machine.execCapture timer k edge s
  | .tmrCapRead a nse timer k => Sys2Proof.Machine.execTmrCapRead a nse timer k s
  | .alarmArm a v => Sys2Proof.Machine.execAlarmArm a v s
  | .alarm => Sys2Proof.Machine.execAlarm s
  | .kick a c v => Sys2Proof.Machine.execKick a c v s
  | .watchdogWarning c => Sys2Proof.Machine.execWatchdogWarning c s
  | .watchdogExpiry c => Sys2Proof.Machine.execWatchdogExpiry c s
  | .gpioPinWrite a pin v => Sys2Proof.Machine.execGpioPinWrite a pin v s
  | .gpioSet a bankB v => Sys2Proof.Machine.execGpioSet a bankB v s
  | .gpioClr a bankB v => Sys2Proof.Machine.execGpioClr a bankB v s
  | .pulseEnd p => Sys2Proof.Machine.execPulseEnd p s
  | .dmaStart a ch v => Sys2Proof.Machine.execDmaStart a ch v s
  | .dmaStop a ch v moved => Sys2Proof.Machine.execDmaStop a ch v moved s
  | .dmaComplete ch => Sys2Proof.Machine.execDmaComplete ch s
  | .fill a v => Sys2Proof.Machine.execFill a v s
  | .copy a v => Sys2Proof.Machine.execCopy a v s
  | .blend a v => Sys2Proof.Machine.execBlend a v s
  | .floatAbort a v => Sys2Proof.Machine.execFloatAbort a v s
  | .floatComplete => Sys2Proof.Machine.execFloatComplete s
  | .mbxSendGo a c v => Sys2Proof.Machine.execMbxSendGo a c v s
  | .mbxRxRelease a c v => Sys2Proof.Machine.execMbxRxRelease a c v s
  | .park c => Sys2Proof.Machine.execPark c s
  | .unpark c => Sys2Proof.Machine.execUnpark c s
  | .frameBoundary => Sys2Proof.Machine.execFrameBoundary s
  | .vidCommit a v => Sys2Proof.Machine.execVidCommit a v s
  | .lineListApply line => Sys2Proof.Machine.execLineListApply line s
  | .captureBind a p v => Sys2Proof.Machine.execCaptureBind a p v s
  | .captureEntry p => Sys2Proof.Machine.execCaptureEntry p s
  | .auxStart a v => Sys2Proof.Machine.execAuxStart a v s
  | .auxReply reply data => Sys2Proof.Machine.execAuxReply reply data s
  | .hpdChange e => Sys2Proof.Machine.execHpdChange e s
  | .blockBoundary => Sys2Proof.Machine.execBlockBoundary s
  | .audioPortBind a p v => Sys2Proof.Machine.execAudioPortBind a p v s
  | .outputEntryRead p => Sys2Proof.Machine.execOutputEntryRead p s
  | .zcTimeout output path => Sys2Proof.Machine.execZcTimeout output path s
  | .fsyncAbsent p => Sys2Proof.Machine.execFsyncAbsent p s
  | .tapReset => Sys2Proof.Machine.execTapReset s
  | .extest => Sys2Proof.Machine.execExtest s
  | .idcode => Sys2Proof.Machine.execIdcode s
  | .samplePreload pins => Sys2Proof.Machine.execSamplePreload pins s
  | .clamp => Sys2Proof.Machine.execClamp s
  | .highz => Sys2Proof.Machine.execHighz s
  | .bypass => Sys2Proof.Machine.execBypass s
  | .dapacc request => Sys2Proof.Machine.execDapacc request s
  | .dapRead => Sys2Proof.Machine.execDapRead s
  | .dapWrite => Sys2Proof.Machine.execDapWrite s
  | .debugHalt a v => Sys2Proof.Machine.execDebugHalt a v s
  | .debugRelease a v => Sys2Proof.Machine.execDebugRelease a v s
  | .haltreq a c v => Sys2Proof.Machine.execHaltreq a c v s
  | .dbgResume a c v => Sys2Proof.Machine.execDbgResume a c v s
  | .dbgStim a c n v => Sys2Proof.Machine.execDbgStim a c n v s
  | .dbgTraceDataHi a nse => Sys2Proof.Machine.execDbgTraceDataHi a nse s
  | .resetNRelease => Sys2Proof.Machine.execResetNRelease s
  | .refclkDetected => Sys2Proof.Machine.execRefclkDetected s
  | .flitDiscard rope cause seq => Sys2Proof.Machine.execFlitDiscard rope cause seq s
  | .linkProtocolFault rope type => Sys2Proof.Machine.execLinkProtocolFault rope type s
  | .replayRecordWrite => Sys2Proof.Machine.execReplayRecordWrite s
  | .audioFrame p din slip => Sys2Proof.Machine.execAudioFrame p din slip s
  | .fsyncReturn p => Sys2Proof.Machine.execFsyncReturn p s

end Sys2Proof.Machine
end

