-- ==== Sys2Proof/Machine/Idle.lean ====
section
/-! DEFINITION. What passes with no command waiting: one tick of TBCLK. A step on an empty queue is a tick (DESIGN CHOICE,
assumptions row 2): SYS_TIME, the local tick count, TRV_RUNTIME and the watchdogs advance, heartbeats leave, and the next page
of a parity stream leaves. Whatever else the spec lets happen in time is a command of its own. -/

namespace Sys2Proof.Machine

/-- The timebase one tick later (R365), slewed toward the offset R131 left in `adjusting`: 1/64 tick more or less in every 79 ticks,
198 ppm (DESIGN CHOICE, assumptions row 2). -/
def tickTime (d : Dev) : Dev :=
  if d.ticks % 79 == 0 && decide (0 < d.lk.adjusting) then
    setTime (fineTime d + 65) { d with lk := { d.lk with adjusting := d.lk.adjusting - 1 } }
  else if d.ticks % 79 == 0 && decide (d.lk.adjusting < 0) then
    setTime (fineTime d + 63) { d with lk := { d.lk with adjusting := d.lk.adjusting + 1 } }
  else setTime (fineTime d + 64) d

/-- A HEARTBEAT on every rope in use, in every mode (R100, R125): one of those a tick has room for (DESIGN CHOICE, assumptions
row 2). -/
def heartbeats (d : Dev) : Dev :=
  let body := heartbeatBody (myPos d) (mode d) (role d) d.md.stranded
  each (upRopes d) (fun k d => emit (.ordered k false body (orderedSymbols false body)) d) d

/-- TRV_RUNTIME counts ticks with MODE = 3 outside debug halt (03_traverse.md). -/
def tickRuntime (d : Dev) : Dev :=
  if mode d == 3 && !flag d DBG_HALT_HALTED then set2 d TRV_RUNTIME_LO (get2 d TRV_RUNTIME_LO + 1) else d

/-- One watchdog counts one unit of 100 ticks (R366, R367); it rests at 1 until WATCHDOG_EXPIRY brings it to 0. -/
def tickWatchdog (c : Nat) (d : Dev) : Dev :=
  if watchdogCounts d c && decide (2 ≤ (getR d (TMR_WDT_COUNT c)).toNat) then
    setR d (TMR_WDT_COUNT c) (getR d (TMR_WDT_COUNT c) - 1#32)
  else d

/-- Every hundredth tick the watchdogs of the 32 guide cores count. -/
def tickWatchdogs (d : Dev) : Dev := if d.ticks % 100 == 0 then each (List.range 32) tickWatchdog d else d

/-- One tick of TBCLK in a module that has it: power good, out of reset, reference clock seen. -/
def idleTick (s : State) : State :=
  if alive s.dev && s.dev.pw.tbclk then
    let s := onDev (fun d => heartbeats (tickWatchdogs (tickRuntime (tickTime { d with ticks := d.ticks + 1 })))) s
    if flag s.dev DBG_HALT_HALTED then s else streamNextPage s
  else s

end Sys2Proof.Machine
end

