-- ==== Sys2Proof/WellFormed.lean ====
section
/-! DEFINITION. What a command can carry: the bounds the rules put on operands whose types are wider. The machine is total
on the rest too; a bound here is one that a wire, a bus or an encoding cannot exceed. -/

namespace Sys2Proof

/-- There are 18 ropes (R92). -/
def ropeOk (r : BitVec 5) : Bool := decide (r.toNat < 18)

/-- An access is one, two, four or eight bytes wide (R5). -/
def widthOk (w : BitVec 4) : Bool := w == 1#4 || w == 2#4 || w == 4#4 || w == 8#4

/-- A flit carries no more than this many of something, and at least one (R106, R153). -/
def countOk {α : Type} (n : Nat) (l : List α) : Bool := decide (1 ≤ l.length ∧ l.length ≤ n)

/-- The bounds of one command's operands. -/
def wellFormed (i : Instr) : Bool :=
  match i with
  | .registerWrite _ width _ _ => widthOk width
  | .railOutOfWindow rail => decide (rail.toNat < 12)                 -- R448 codes
  | .patrolScrub word => decide (word.toNat < 12 * 2 ^ 30)            -- 96 GiB of 64-bit words (R133)
  | .hold rx | .high rx _ | .stop rx _ | .arrived rx _ | .feeder rx | .hostwaitOn rx _ | .hostwaitOff rx _
  | .floor rx _ _ | .request rx | .reply rx _ | .boundary rx _ _ | .ready rx _ _ _ _ | .commit rx _ _
  | .abandon rx _ _ | .rollback rx _ _ | .jack rx _ _ _ => ropeOk rx.rope
  | .parityMark rx _ _ | .rebuildPageEnd rx _ _ | .ckpdataState rx _ _ _ | .ckpdataTram rx _ _ _
  | .ckpdataQpos rx _ _ _ | .ckpdataJrnl rx _ _ _ | .ckpdataEnd rx _ _ _ | .entry rx _ _ _ _ _ | .prod rx _ _
  | .cons rx _ _ | .refuse rx _ _ _ | .reattach rx _ _ | .trigLine rx _ _ _ | .trigFreeze rx _ _ | .trace rx _ _ _ _
  | .report rx _ | .silent rx _ | .safe rx _ _ | .mode rx _ _ _ _ _ _ | .topo rx _ _ _ | .map rx _ _ _ | .lost rx _ _
  | .ack rx _ _ _ | .beat rx _ _ _ _ _ | .census rx _ _ | .censusReply rx _ _ _ _ _ _ | .adopt rx _ _ _ _
  | .adopted rx _ _ | .takeover rx _ _ _ _ _ | .done rx _ _ _ _ | .appoint rx _ _ | .rebuildReq rx _ _ _ _
  | .stepword rx _ _ _ _ _ _ _ | .probe rx _ _ _ _ | .cmd rx _ _ _ | .cmdResp rx _ _ _ | .bulk rx _ _ _ _ => ropeOk rx.rope
  | .ropeLost rx _ rope => ropeOk rx.rope && ropeOk rope
  | .signal rx _ values => ropeOk rx.rope && countOk 12 values        -- R106 COUNT
  | .belay rope _ _ _ | .heartbeat rope _ _ _ _ | .lcStatus rope _ | .lcNak rope _ _ | .lcStatusTimer rope
  | .ropeTrainingTimeout rope | .resendTimeout rope | .ropeAckTimeout rope | .laneLoss rope _ | .laneDis _ rope _
  | .retrainPeriod rope _ | .laneRejoin rope _ | .retrain _ rope _ | .deviceSilence rope | .timeRequest rope _ _ _
  | .timeReply rope _ _ _ _ | .flitDiscard rope _ _ | .linkProtocolFault rope _ => ropeOk rope
  | .lcTrain rope _ peer _ _ _ => ropeOk rope && ropeOk peer
  | .parity rx _ deltas => ropeOk rx.rope && countOk 3 deltas         -- R153 COUNT; 3 is reserved
  | .rebuildWords rx _ words => ropeOk rx.rope && countOk 2 words     -- R256
  | .bar2Read _ _ len => decide (1 ≤ len.toNat ∧ len.toNat ≤ 4096)
  | .bar2Write _ _ data => countOk 4096 data
  | .hostPpSqTail _ _ _ fetched => fetched.all fun e => e.length == 16   -- R277
  | .loadPart _ image _ => decide (image.length < 2 ^ 40)                -- R283: P3[7:0], P2
  | .auxReply _ data => decide (data.length ≤ 16)
  | .audioFrame _ din _ => din.length == 8                            -- R422 slots
  | .readClear _ _ _ | .loRead _ _ _ | .resetN | .vauxFirstGood | .vauxLoss | .vinGood | .vioChange _ _
  | .powerMeasurement _ _ _ _ _ _ | .temperatureReading _ _ _ _ _ _ | .configurationRead _ _ _ _ _ | .baseCampStart
  | .hbmTrainingComplete | .engineInitComplete | .bootWindowExpiry | .transitionEnd | .managerTimeout | .strand
  | .strandTimeout | .traverseBegin _ | .tileStep _ | .tileNetworkArrival _ | .portAccessComplete _
  | .traverseEnd _ | .traceRecordWrite | .stepMemoryScrub _ _ | .stall | .hostwaitLimit | .rateWindow
  | .signalFlitClose _ _ | .linkBelayRaise _ _ | .timeExchangePeriod _ | .parityFlitClose | .pageRestore _
  | .wallCapExpiry | .restoreComplete | .quePublish _ _ | .queRelease _ _ | .triggerUnitWrite _ _ _ _
  | .traceMaskWrite _ _ _ | .replayEnd | .cairnEvent _ _ _ | .ackWindowExpiry _ | .cairnAck _ _ _ | .latchClear _ _
  | .fltNPulseEnd | .cairnSrcWrite _ _ _ | .inject _ _ | .settleExpiry | .beatPeriod | .censusClose
  | .adoptImageLoaded | .probePeriod | .hostMbGo _ _ | .hostMbPop _ _ | .hostPpCqHead _ _ _ | .hostPpCqCfg _ _ _
  | .portReset _ _ | .portLinkUp _ _ _ | .status _ | .regRead _ | .regWrite _ | .belayCommand _ | .load _
  | .loadComplete | .loadAbort _ | .unload _ | .run _ | .step _ | .freeze _ | .resume _ | .replay _
  | .replayAbort _ | .memRead _ | .memWrite _ _ _ | .fabricRead _ | .fabricWrite _ _ _ | .traceRead _
  | .queueAttach _ | .commandSlice _ | .mov _ _ _ _ | .add _ _ _ _ | .adc _ _ _ _ | .sub _ _ _ _ | .sbc _ _ _ _
  | .cmp _ _ _ _ | .and _ _ _ _ | .or _ _ _ _ | .xor _ _ _ _ | .tst _ _ _ _ | .lsl _ _ _ _ | .lsr _ _ _ _
  | .asr _ _ _ _ | .mul _ _ _ _ | .div _ _ _ _ | .divu _ _ _ _ | .movi _ _ _ _ | .addi _ _ _ _ | .cmpi _ _ _ _
  | .shi _ _ _ _ | .ld _ _ _ _ _ _ | .st _ _ _ _ _ _ | .branch _ _ _ _ | .jmp _ _ _ | .call _ _ _ | .nop _ _ _
  | .jr _ _ _ | .callr _ _ _ | .xret _ _ _ | .trap _ _ _ | .bkpt _ _ _ | .wait _ _ _ | .loop _ _ _ | .breakl _ _ _
  | .ll _ _ _ | .sc _ _ _ | .push _ _ _ | .pop _ _ _ | .sync _ _ _ | .neg _ _ _ | .not _ _ _ | .mts _ _ _ _
  | .mfs _ _ _ _ | .sextb _ _ _ | .sexth _ _ _ | .zextb _ _ _ | .zexth _ _ _ | .clz _ _ _ | .rev _ _ _
  | .illegal _ _ | .extint _ | .nmi | .dataLoadReturn _ | .programCacheFill _ _ | .storeBufferDrain _
  | .gcoreRun _ _ _ | .gcoreReset _ _ _ | .det _ _ _ | .icinv _ _ _ | .dcinv _ _ _ | .gcorePdata _ _ _ _
  | .claim _ _ _ | .complete _ _ _ | .swi _ _ | .clrpend _ _ _ | .disable _ _ | .glitchFilter _ _ | .countTick _
  | .tmrCountLatch _ _ | .capture _ _ _ | .tmrCapRead _ _ _ _ | .alarmArm _ _ | .alarm | .kick _ _ _
  | .watchdogWarning _ | .watchdogExpiry _ | .gpioPinWrite _ _ _ | .gpioSet _ _ _ | .gpioClr _ _ _ | .pulseEnd _
  | .dmaStart _ _ _ | .dmaStop _ _ _ _ | .dmaComplete _ | .fill _ _ | .copy _ _ | .blend _ _ | .floatAbort _ _
  | .floatComplete | .mbxSendGo _ _ _ | .mbxRxRelease _ _ _ | .park _ | .unpark _ | .frameBoundary | .vidCommit _ _
  | .lineListApply _ | .captureBind _ _ _ | .captureEntry _ | .auxStart _ _ | .hpdChange _ | .blockBoundary
  | .audioPortBind _ _ _ | .outputEntryRead _ | .zcTimeout _ _ | .fsyncAbsent _ | .tapReset | .extest | .idcode
  | .samplePreload _ | .clamp | .highz | .bypass | .dapacc _ | .dapRead | .dapWrite | .debugHalt _ _
  | .debugRelease _ _ | .haltreq _ _ _ | .dbgResume _ _ _ | .dbgStim _ _ _ _ | .dbgTraceDataHi _ _ | .resetNRelease
  | .refclkDetected | .replayRecordWrite | .fsyncReturn _ => true

end Sys2Proof
end

