-- ==== Sys2Proof/Safety.lean ====
section
/-! DEFINITION. What counts as a safe run, in the terms the statements use. -/

namespace Sys2Proof.Safety

open Sys2Proof.Machine

/-- The state a step leaves keeps a property: nothing is claimed of a stop. -/
def Keeps (P : State → Prop) (o : Host.Outcome State Fault Refusal) : Prop :=
  match o with
  | .next t => P t
  | .fault _ => True
  | .refused _ => True

/-- A step goes on. -/
def GoesOn (o : Host.Outcome State Fault Refusal) : Prop := ∃ t, o = .next t

/-- Two states hold the same control space: shadow, copies in force and the line list's overlay. -/
def SameRegs (s t : State) : Prop :=
  t.dev.regs = s.dev.regs ∧ t.dev.inForce = s.dev.inForce ∧ t.dev.llOver = s.dev.llOver

/-- Two states hold the same HBM and the same queue of waiting commands. -/
def SameRest (s t : State) : Prop := t.mem = s.mem ∧ t.pending = s.pending

/-- A state with another device: HBM and the queue of commands stay. -/
abbrev setDev (s : State) (d : Dev) : State := { s with dev := d }

/-- A data flit of this type and SUB is delivered here (R109, R115, R117, R242): no halt withholds the handshakes, its rope is up, its
source is not LOST or the flit is one a LOST position may send, and it is addressed to this device by position, or by the
partition this device holds. -/
def Delivered (ty sub : Nat) (rx : Rx) (s : State) : Prop :=
  granted s.dev = true ∧ ropeUp s.dev rx.rope.toNat = true ∧ (isLost s.dev rx.src.toNat = false ∨ fromLost s.dev rx.src.toNat ty sub = true) ∧
    if rx.dkind then rx.dest.toNat = myPos s.dev
    else pmap s.dev rx.dest.toNat = some (myPos s.dev) ∧ holds s.dev = true ∧ myPart s.dev = rx.dest.toNat

/-- The device as a delivered flit leaves its link layer (R109, R114, R119): accepted in sequence, its receive buffer free again, and
the copies of a party cast sent. -/
def taken (ty sub : Nat) (rx : Rx) (body : Nat) (s : State) : Dev :=
  repeatFlit rx ty sub body (pumpAll rx.rope.toNat
    (freeBuffer rx.rope.toNat ((vcOf ty).getD 0) rx.hops.toNat rx.rsv (acceptSeq rx.rope.toNat s.dev)))

/-- The delivered flit is taken, an effect on the device follows, and what became possible with it happens. -/
def takes (ty sub : Nat) (rx : Rx) (body : Nat) (f : Dev → Dev) (s : State) : State :=
  settle (setDev s (f (taken ty sub rx body s)))

/-- The body of a SYSCTL flit (R241). -/
def sysBody (epoch : BitVec 16) (arg value extra : Nat) : Nat := at8 8 epoch.toNat + at8 10 arg + at8 12 value + at8 20 extra

/-- A SYSCTL flit of this GENERATION is delivered (R241, R243). -/
def Ordered (sub : Nat) (rx : Rx) (epoch : BitVec 16) (arg value extra : Nat) (s : State) : Prop :=
  Delivered 0x12 sub rx s ∧ epoch.toNat / 4096 = generation (taken 0x12 sub rx (sysBody epoch arg value extra) s)

/-- Address A of an instruction's own word, its prefixes before it (R319). -/
def instrAt (core : BitVec 5) (ext : List (BitVec 10)) (s : State) : BitVec 20 :=
  (coreOf s.dev core.toNat).pc + BitVec.ofNat 20 ext.length

/-- A core is to issue an instruction next (R335, R336, R347): it executes, no interrupt goes first, and the fetch of the words, which
leaves `s1`, meets no error. -/
def Fetches (core : BitVec 5) (ext : List (BitVec 10)) (fm : Form) (s s1 : State) : Prop :=
  granted s.dev = true ∧ endWait core.toNat s = s ∧ executing s.dev core.toNat = true ∧
    (pairs s.dev core.toNat (ext.length + 1) fm = true ∨ nmiDue s.dev core.toNat = false ∧ extDue s.dev core.toNat = false) ∧
    fetchAll core.toNat ((List.range (min 4 (ext.length + 1))).map fun i =>
      ((coreOf s.dev core.toNat).pc + BitVec.ofNat 20 i).toNat) s = (.ok, s1)

/-- A core issues an instruction (R318, R320, R334, R336, R440): it is fetched, its prefixes and privilege are right, its encoding
is not reserved, no outstanding load writes what it reads, LOOP does not stop it, and no breakpoint stands at it. -/
def Ready (core : BitVec 5) (ext : List (BitVec 10)) (fm : Form) (full : GCore → Bool) (s s1 : State) : Prop :=
  Fetches core ext fm s s1 ∧ illegalDetail ext fm = none ∧ fm.bad = false ∧
    (fm.reads.any fun r => (coreOf s.dev core.toNat).loads.any fun l => l.regs.any fun x =>
      x.1 == homeOf (coreOf s.dev core.toNat) r) = false ∧
    full (coreOf s.dev core.toNat) = false ∧ breakHit s1.dev core.toNat (coreOf s.dev core.toNat).pc = none

/-- The state after an issued instruction's effect: retirement with its counts, group and loop end, or the transfer. -/
def doneBy (core : BitVec 5) (ext : List (BitVec 10)) (fm : Form) (s s1 : State) (e : Eff) : State :=
  applyEff core.toNat (coreOf s.dev core.toNat).pc (instrAt core ext s) (pairs s.dev core.toNat (ext.length + 1) fm)
    (opens s1.dev core.toNat (instrAt core ext s).toNat (ext.length + 1) fm) (stepping s1.dev core.toNat) e

/-- Change the core that issues, and retire. -/
def retires (core : BitVec 5) (f : GCore → GCore) (s1 : State) : Eff := .retire (onDev (onCore core.toNat f) s1)

/-- HBM is in its canonical form: addresses rising, no listed byte 0. -/
def MemOk (s : State) : Prop := Mem.wf s.mem = true

end Sys2Proof.Safety
end

