-- ==== Sys2Proof/Certificates/Slice0/Obligations.lean ====
section
/-! DEFINITION. The statements for the provers. They come from the numbered rules of the spec; where one rests on a choice of the
model, its docstring says so and names the log entry. -/

open Sys2Proof Sys2Proof.Machine Sys2Proof.Safety

/-- RESET_N, RESET_N_RELEASE, VAUX_FIRST_GOOD, VAUX_LOSS, VIN_GOOD, VIO_CHANGE and REFCLK_DETECTED complete (R25, R234, R297, R298,
R365, R447): the state each leaves. -/
def Obligations.SupplyAndResetEventsComplete : Prop := ∀ s : State,
  (s.dev.pw.vauxGood = true → s.dev.pw.resetN = true →
    exec .resetN s = .next (setDev s (resetDev { s.dev with pw := { s.dev.pw with resetN := false } }))) ∧
  (s.dev.pw.resetN = false → exec .resetNRelease s = .next (setDev s ({ s.dev with pw := { s.dev.pw with
    resetN := true, bootTick := s.dev.ticks, tbclk := s.dev.pw.refclk, bootStep := b2n s.dev.pw.refclk } }))) ∧
  (s.dev.pw.vauxGood = false → exec .vauxFirstGood s = .next (setDev s (powerOn s.dev))) ∧
  exec .vauxLoss s = .next (setDev s ({ s.dev with pw := { s.dev.pw with vauxGood := false } })) ∧
  (alive s.dev = true →
    exec .vinGood s = .next (setDev s (railsUp { s.dev with pw := { s.dev.pw with vinGood := true } }))) ∧
  (∀ good, exec (.vioChange false good) s =
    .next (setDev s (setFlag { s.dev with pw := { s.dev.pw with vioA := good } } GPIO_BANK_A_GOOD good))) ∧
  (∀ good, exec (.vioChange true good) s =
    .next (setDev s (setFlag { s.dev with pw := { s.dev.pw with vioB := good } } GPIO_BANK_B_GOOD good))) ∧
  (alive s.dev = true → exec .refclkDetected s = .next (setDev s ({ s.dev with pw := { s.dev.pw with
    refclk := true, tbclk := true, bootStep := max 1 s.dev.pw.bootStep } })))

/-- RAIL_OUT_OF_WINDOW, POWER_MEASUREMENT and TEMPERATURE_READING complete in a module that works (R448-R452). A rail takes the event
once it has been in its window. -/
def Obligations.PowerControllerCommandsComplete : Prop := ∀ s : State, alive s.dev = true →
  (∀ rail : BitVec 4, rail.toNat ≠ 0 → rail.toNat < 12 → bitOf s.dev.pw.railSeen rail.toNat = true →
    exec (.railOutOfWindow rail) s = .next (settle (setDev s (raise 0x1D rail.toNat
      (setFlag (setFlag { s.dev with pw := { s.dev.pw with pwrGood := false } } (bitFld PWR_RAILS rail.toNat) false)
        (bitFld PWR_RAILS (16 + rail.toNat)) true))))) ∧
  (bitOf s.dev.pw.railSeen 0 = true →
    exec (.railOutOfWindow 0) s = .next (settle (setDev s (raise 0x1D 0
      (setFlag (setFlag { s.dev with pw := { s.dev.pw with vinGood := false, pwrGood := false } } (bitFld PWR_RAILS 0) false)
        (bitFld PWR_RAILS 16) true))))) ∧
  (∀ watts vinMv vinCa mj capMv excess, exec (.powerMeasurement watts vinMv vinCa mj capMv excess) s = .next (settle (setDev s (measurePower watts.toNat vinMv.toNat vinCa.toNat mj.toNat capMv.toNat excess.toNat s.dev)))) ∧
  (∀ face col reg0 reg1 hbm tempMv, exec (.temperatureReading face col reg0 reg1 hbm tempMv) s = .next (settle (setDev s (readTemps face.toNat col.toNat reg0.toNat reg1.toNat hbm.toNat tempMv.toNat s.dev))))

/-- The steps of the boot sequence complete in BOOT, in their order (R20, R298-R301): the configuration read with a valid copy A,
with only copy B valid (source 0x1F) and with none (source 0x18); base camp; HBM training; engine initialisation; and the boot
window at the manager and at another device. -/
def Obligations.BootSequenceCommandsComplete : Prop := ∀ s : State, alive s.dev = true →
  (∀ a b sfdp quad size, mode s.dev = 0 → s.dev.pw.tbclk = true → flag s.dev SYS_READY_CFG = false →
    let stat := fun used fa fb => setF (setFlag (setF (setF (setF s.dev NVM_STATUS_USED used) NVM_STATUS_A_FAIL fa)
      NVM_STATUS_B_FAIL fb) NVM_STATUS_QUAD (sfdp && quad)) NVM_FLASH_SIZE_LOG2 (if sfdp then size.toNat else 0)
    (kncfFail a = 0 → exec (.configurationRead a b sfdp quad size) s =
      .next (settle (setDev s (applyContainer a (stat 1 0 0))))) ∧
    (kncfFail a ≠ 0 → kncfFail b = 0 → exec (.configurationRead a b sfdp quad size) s =
      .next (settle (setDev s (raise 0x1F 0 (applyContainer b (stat 2 (kncfFail a) 0)))))) ∧
    (kncfFail a ≠ 0 → kncfFail b ≠ 0 → exec (.configurationRead a b sfdp quad size) s =
      .next (settle (setDev s (raise 0x18 0 (stat 3 (kncfFail a) (kncfFail b))))))) ∧
  (mode s.dev = 0 → s.dev.pw.vinGood = true → flag s.dev SYS_READY_CFG = true → flag s.dev SYS_READY_BASECAMP = false →
    exec .baseCampStart s = .next (settle (setDev s (startBaseCamp s.dev)))) ∧
  (mode s.dev = 0 → s.dev.pw.vinGood = true → flag s.dev SYS_READY_CFG = true → flag s.dev SYS_READY_HBM = false →
    ∃ t, exec .hbmTrainingComplete s = .next t ∧ t.mem = sclear s.mem 0 hbmSize ∧ flag t.dev SYS_READY_HBM = true) ∧
  (flag s.dev SYS_READY_HBM = true → s.dev.pw.vinGood = true → flag s.dev SYS_READY_CKP = false →
    ∃ t, exec .engineInitComplete s = .next t ∧
      (∀ f ∈ [SYS_READY_CKP, SYS_READY_QUE, SYS_READY_VIS, SYS_READY_VID, SYS_READY_AUD], flag t.dev f = true) ∧
      flag t.dev AUD_STAT_LOCK = true ∧ t.mem = s.mem) ∧
  (mode s.dev = 0 → s.dev.pw.bootWindow = true → s.dev.md.trans = none →
    let d := { s.dev with pw := { s.dev.pw with bootWindow := false, windowOver := true } }
    (isMgr s.dev = true → exec .bootWindowExpiry s = .next (settle (setDev s (topoCheck d)))) ∧
    (isMgr s.dev = false → exec .bootWindowExpiry s = .next (settle (setDev s d))))

/-- COUNT_TICK, TMR_COUNT_LATCH, CAPTURE, TMR_CAP_READ, ALARM_ARM and ALARM complete (R360-R365): a timer that no gate holds
advances, a read of COUNT latches its chain, a selected edge or master event captures, and an armed alarm whose time has come sets
source 7. -/
def Obligations.TimerCommandsComplete : Prop := ∀ s : State,
  (∀ n : BitVec 4, alive s.dev = true → slaveOf s.dev n.toNat ≠ 1 → slaveOf s.dev n.toNat ≠ 3 →
    exec (.countTick n) s = .next (setDev s (spread n.toNat (advance n.toNat s.dev)))) ∧
  (∀ a (n : BitVec 4), writable s.dev a = true →
    exec (.tmrCountLatch a n) s = .next (setDev s (readCount n.toNat s.dev))) ∧
  (∀ (n : BitVec 4) (k : BitVec 1) edge, alive s.dev = true → captures s.dev n.toNat k.toNat edge = true →
    exec (.capture n k edge) s = .next (setDev s (captureNow n.toNat k.toNat s.dev))) ∧
  (∀ a (n : BitVec 4) (k : BitVec 1), writable s.dev a = true →
    exec (.tmrCapRead a true n k) s = .next (setDev s ({ s.dev with busRead := getR s.dev (TMR_CAP n.toNat k.toNat) })) ∧
    exec (.tmrCapRead a false n k) s = .next (setDev s (setFlag { s.dev with busRead := getR s.dev (TMR_CAP n.toNat k.toNat) } (bitFld (TMR_STAT n.toNat) (5 + k.toNat)) false))) ∧
  (∀ a v, writable s.dev a = true → exec (.alarmArm a v) s =
    .next (setDev s ({ setR s.dev TMR_ALARM_HI v with tm := { s.dev.tm with alarmArmed := true } }))) ∧
  (alive s.dev = true → s.dev.tm.alarmArmed = true → get2 s.dev TMR_ALARM_LO ≤ sysTime s.dev →
    exec .alarm s = .next (setDev s (irqEvent 7 { s.dev with tm := { s.dev.tm with alarmArmed := false } })))

/-- KICK, WATCHDOG_WARNING and WATCHDOG_EXPIRY complete (R366): a kick with the key reloads COUNT, any other value expires the
watchdog; a watchdog that counts warns at WARN, and expires. -/
def Obligations.WatchdogCommandsComplete : Prop := ∀ (s : State) (c : BitVec 5),
  (∀ a v, writable s.dev a = true → v.toNat % 65536 = 0xC1A0 → exec (.kick a c v) s =
    .next (settle (setDev s (setR s.dev (TMR_WDT_COUNT c.toNat) (getR s.dev (TMR_WDT_LOAD c.toNat)))))) ∧
  (∀ a v, writable s.dev a = true → v.toNat % 65536 ≠ 0xC1A0 → exec (.kick a c v) s = .next (settle (expire c.toNat s))) ∧
  (alive s.dev = true → watchdogCounts s.dev c.toNat = true → getR s.dev (TMR_WDT_WARN c.toNat) ≠ 0#32 →
    (getR s.dev (TMR_WDT_WARN c.toNat)).toNat ≤ (getR s.dev (TMR_WDT_COUNT c.toNat)).toNat → exec (.watchdogWarning c) s =
      .next (setDev s (irqEvent (128 + c.toNat) (setR s.dev (TMR_WDT_COUNT c.toNat) (getR s.dev (TMR_WDT_WARN c.toNat)))))) ∧
  (alive s.dev = true → watchdogCounts s.dev c.toNat = true → exec (.watchdogExpiry c) s = .next (settle (expire c.toNat s)))

/-- GPIO_PIN_WRITE, GPIO_SET, GPIO_CLR, PULSE_END and GLITCH_FILTER complete (R354, R368, R371, R373, R374). -/
def Obligations.PinCommandsComplete : Prop := ∀ s : State,
  (∀ a (n : BitVec 6) v, writable s.dev a = true → exec (.gpioPinWrite a n v) s = .next (setDev s (writePin n.toNat v s.dev))) ∧
  (∀ a bankB v, writable s.dev a = true →
    exec (.gpioSet a bankB v) s = .next (setDev s (writeOuts bankB true v s.dev)) ∧
    exec (.gpioClr a bankB v) s = .next (setDev s (writeOuts bankB false v s.dev))) ∧
  (∀ p, alive s.dev = true → exec (.pulseEnd p) s = .next (setDev s (endPulse p s.dev))) ∧
  (∀ (n : BitVec 6) level, alive s.dev = true → bankGood s.dev n.toNat = true →
    sget (fun _ => false) s.dev.pins.ext n.toNat = !level → (padOut s.dev n.toNat).enable = false →
    let d := { s.dev with pins := { s.dev.pins with ext := sset (fun _ => false) s.dev.pins.ext n.toNat level } }
    let k := senseOf s.dev (160 + n.toNat)
    ((k = 2 ∨ (k = 0 ∧ level = true) ∨ (k = 1 ∧ level = false)) →
      exec (.glitchFilter n level) s = .next (setDev s (irqEvent (160 + n.toNat) d))) ∧
    (¬(k = 2 ∨ (k = 0 ∧ level = true) ∨ (k = 1 ∧ level = false)) → exec (.glitchFilter n level) s = .next (setDev s d)))

/-- CLAIM, COMPLETE, SWI, CLRPEND and DISABLE complete (R352, R353, R356-R358): a claim of an eligible source makes it active with its
priority and clears its pending bit, and returns it with its priority. -/
def Obligations.InterruptCommandsComplete : Prop := ∀ (s : State) (a : Agent), writable s.dev a = true →
  (∀ (c : BitVec 5) x, bestSource s.dev c.toNat = some x → exec (.claim a false c) s = .next (setDev s ({ s.dev with
    busRead := BitVec.ofNat 32 (x + getF s.dev (ICU_SRC_PRIO x) * 2 ^ 12)
    icu := { pend := sset (fun _ => false) s.dev.icu.pend x false
             active := s.dev.icu.active ++ [(x, c.toNat, getF s.dev (ICU_SRC_PRIO x))] } }))) ∧
  (∀ (c : BitVec 5), bestSource s.dev c.toNat = none →
    exec (.claim a false c) s = .next (setDev s ({ s.dev with busRead := 0x80000000#32 }))) ∧
  (∀ (c : BitVec 5) v, exec (.complete a c v) s = .next (setDev s ({ s.dev with icu := { s.dev.icu with
    active := s.dev.icu.active.filter fun x => !(x.1 == v.toNat % 512 && x.2.1 == c.toNat) } }))) ∧
  (∀ v, exec (.swi a v) s = .next (setDev s (irqEvent (256 + v.toNat % 64) s.dev))) ∧
  (∀ (x : BitVec 9) v, exec (.clrpend a x v) s = .next (setDev s (writeIcuSrc x.toNat v s.dev))) ∧
  (∀ v, exec (.disable a v) s = .next (setDev s (plainWrite ICU_GCTRL v s.dev)))

/-- GCORE_RUN, GCORE_RESET, DET, ICINV and DCINV are writes of GCORE_CTL and complete (R344, R351): RUN and the other fields are
written; RESET, with RUN 0 and no buffered store, leaves the core as a reset leaves it, waiting for RUN; ICINV and DCINV leave
their cache empty.
GCORE_PDATA completes (R342): a read gives the selected word and a write of a stopped, halted or locked core's program SRAM
stores it; ADDR moves on with AUTOINC, but for an access without side effects. -/
def Obligations.GuideCoreControlCommandsComplete : Prop :=
  (∀ (s : State) (a : Agent) (c : BitVec 5) (v : Word),
  writable s.dev a = true →
  exec (.gcoreRun a c v) s = .next (writeCoreCtl c.toNat v s) ∧
  exec (.det a c v) s = .next (writeCoreCtl c.toNat v s) ∧
  exec (.gcoreReset a c v) s = .next (writeCoreCtl c.toNat v s) ∧
  (v.getLsbD 0 = false → v.getLsbD 1 = true → (coreOf s.dev c.toNat).sbuf = [] → ∃ t, exec (.gcoreReset a c v) s = .next t ∧
    coreOf t.dev c.toNat = { gcore0 c.toNat with resetDue := true, wake := (coreOf t.dev c.toNat).wake } ∧ t.mem = s.mem) ∧
  (v.getLsbD 1 = false → v.getLsbD 5 = true →
    ∃ t, exec (.icinv a c v) s = .next t ∧ (coreOf t.dev c.toNat).ic = [] ∧ t.mem = s.mem) ∧
  (v.getLsbD 1 = false → v.getLsbD 6 = true →
    ∃ t, exec (.dcinv a c v) s = .next t ∧ (coreOf t.dev c.toNat).dc = [] ∧ t.mem = s.mem)) ∧
  (∀ (s : State) (a : Agent) (v : Word), writable s.dev a = true →
  let c := getF s.dev GCORE_PSEL_CORE
  let i := getF s.dev GCORE_PSEL_ADDR
  let read := { s.dev with busRead := (progWord s.dev c i).setWidth 32 }
  exec (.gcorePdata a false true v) s = .next (setDev s read) ∧
  (flag s.dev GCORE_PSEL_AUTOINC = false → exec (.gcorePdata a false false v) s = .next (setDev s read)) ∧
  (flag s.dev GCORE_PSEL_AUTOINC = true →
    exec (.gcorePdata a false false v) s = .next (setDev s (setF read GCORE_PSEL_ADDR (i + 1)))) ∧
  (∀ nse, progWritable s.dev c = true → flag s.dev GCORE_PSEL_AUTOINC = false →
    exec (.gcorePdata a true nse v) s = .next (setDev s (setProgWord c i (v.setWidth 14) s.dev))) ∧
  (progWritable s.dev c = true → flag s.dev GCORE_PSEL_AUTOINC = true →
    exec (.gcorePdata a true true v) s = .next (setDev s (setProgWord c i (v.setWidth 14) s.dev)) ∧
    exec (.gcorePdata a true false v) s =
      .next (setDev s (setF (setProgWord c i (v.setWidth 14) s.dev) GCORE_PSEL_ADDR (i + 1)))))

/-- GCORE_RUN, DET, ICINV, DCINV, GCORE_RESET and GCORE_PDATA complete, whatever is written (R342, R344, R351): without RESET a write of
GCORE_CTL sets RUN and DET to its bits, a change of DET empties the predictor and both caches, ICINV empties the program cache and DCINV the
data cache, and memory stays; RESET of a core with no buffered store leaves it as a reset does, due to take RESET only while RUN is 0; a
read of GCORE_PDATA gives the selected word, a write stores it, and ADDR moves on with AUTOINC, but for an access without side effects. -/
def Obligations.CoreControlAndProgramPortComplete : Prop := ∀ (s : State) (a : Agent) (c : BitVec 5) (v : Word),
  writable s.dev a = true →
  let n := c.toNat
  (v.getLsbD 1 = false → ∀ i ∈ [Instr.gcoreRun a c v, .det a c v, .icinv a c v, .dcinv a c v],
    ∃ t, exec i s = .next t ∧ t.mem = s.mem ∧ flag t.dev (GCORE_CTL_RUN n) = v.getLsbD 0 ∧ flag t.dev (GCORE_CTL_DET n) = v.getLsbD 2 ∧
      (v.getLsbD 5 = true → (coreOf t.dev n).ic = []) ∧ (v.getLsbD 6 = true → (coreOf t.dev n).dc = []) ∧
      (flag s.dev (GCORE_CTL_DET n) ≠ v.getLsbD 2 → (coreOf t.dev n).pred = [] ∧ (coreOf t.dev n).ic = [] ∧ (coreOf t.dev n).dc = [])) ∧
  (v.getLsbD 1 = true → (coreOf s.dev n).sbuf = [] → (v.getLsbD 0 = true → popcount (eccMask s.dev (eccKey 7 (65536 * n))) < 2) →
    ∃ t, exec (.gcoreReset a c v) s = .next t ∧ t.mem = s.mem ∧ flag t.dev (GCORE_CTL_RUN n) = v.getLsbD 0 ∧
      coreOf t.dev n = { gcore0 n with resetDue := !v.getLsbD 0, wake := (coreOf t.dev n).wake }) ∧
  let p := getF s.dev GCORE_PSEL_CORE
  let i := getF s.dev GCORE_PSEL_ADDR
  (∀ nse, ∃ t, exec (.gcorePdata a false nse v) s = .next t ∧ t.mem = s.mem ∧ t.dev.busRead = (progWord s.dev p i).setWidth 32 ∧
    getF t.dev GCORE_PSEL_ADDR = if flag s.dev GCORE_PSEL_AUTOINC && !nse then (i + 1) % 65536 else i) ∧
  (∀ nse, progWritable s.dev p = true → ∃ t, exec (.gcorePdata a true nse v) s = .next t ∧ t.mem = s.mem ∧
    progWord t.dev p i = v.setWidth 14 ∧
    getF t.dev GCORE_PSEL_ADDR = if flag s.dev GCORE_PSEL_AUTOINC && !nse then (i + 1) % 65536 else i)

/-- PARK, UNPARK, MBX_SEND_GO and MBX_RX_RELEASE complete (R387-R389): the domain of a core that waits, with nothing left to do,
parks; a parked one powers up; a GO on a channel that is not FULL fills it, and a release empties a channel. -/
def Obligations.MailboxAndParkingCommandsComplete : Prop := ∀ (s : State) (c : BitVec 5),
  (granted s.dev = true → flag s.dev (MBX_CTL_PARK c.toNat) = true → parked s.dev c.toNat = false →
    coreState s.dev c.toNat = 2 → (coreOf s.dev c.toNat).sbuf = [] → (coreOf s.dev c.toNat).loads = [] →
    presents s.dev c.toNat = false → (c.toNat = 0 → s.dev.cn.nmi = false) →
    exec (.park c) s = .next (setDev s (setFlag (setCore s.dev c.toNat { coreOf s.dev c.toNat with wake := false, group := none })
      (MBX_CTL_PARKED c.toNat) true))) ∧
  (granted s.dev = true → parked s.dev c.toNat = true → ((coreOf s.dev c.toNat).wake = true ∨ presents s.dev c.toNat = true) →
    exec (.unpark c) s = .next (setDev s (setFlag (setCore s.dev c.toNat { coreOf s.dev c.toNat with wake := false })
      (MBX_CTL_PARKED c.toNat) false))) ∧
  (∀ a v k, writable s.dev a = true → senderOf a = some k → v.getLsbD 0 = true → mbFull s.dev c.toNat k = false →
    let d := wakeCore c.toNat { s.dev with mbxFull := sset (fun _ => false) s.dev.mbxFull (36 * c.toNat + k) true }
    exec (.mbxSendGo a c v) s = .next (setDev s (if flag d (MBX_CTL_WAKE_RUN c.toNat) && !flag d (GCORE_CTL_RUN c.toNat) then
      runCore c.toNat d else d))) ∧
  (∀ a v, writable s.dev a = true → v.toNat % 64 < 36 → exec (.mbxRxRelease a c v) s =
    .next (setDev s { s.dev with mbxFull := sset (fun _ => false) s.dev.mbxFull (36 * c.toNat + v.toNat % 64) false }))

/-- STORE_BUFFER_DRAIN, DATA_LOAD_RETURN and PROGRAM_CACHE_FILL complete (R337, R339, R345): the oldest buffered store reaches HBM or an
SRAM and leaves the buffer; the oldest outstanding load reaches its registers; a missing line of the program cache is filled. -/
def Obligations.GuideMemoryEventsComplete : Prop := ∀ (s : State) (c : BitVec 5), granted s.dev = true →
  (∀ e r, (coreOf s.dev c.toNat).sbuf = e :: r →
    let s1 := setDev s (setCore s.dev c.toNat (updateLines e.at_ e.bytes { coreOf s.dev c.toNat with sbuf := r }))
    (regionOf e.at_ = some 0 → exec (.storeBufferDrain c) s = .next (coreHbmWrite c.toNat e.at_ e.bytes s1)) ∧
    (∀ n, regionOf e.at_ = some (n + 1) → exec (.storeBufferDrain c) s =
      .next (onDev (sramWrite (some c.toNat) e.at_ e.bytes) s1))) ∧
  (∀ l r, (coreOf s.dev c.toNat).loads = l :: r → exec (.dataLoadReturn c) s =
    .next (setDev s (setCore s.dev c.toNat (landLoad l { coreOf s.dev c.toNat with loads := r })))) ∧
  (∀ (line : BitVec 15) bs s1, let d := s.dev
    let ha := programAddr d c.toNat (32 * line.toNat)
    executing d c.toNat = true → detMode d c.toNat = false → 0x800 ≤ line.toNat → flag d (GCORE_PBASE_VALID c.toNat) = true →
    ha < hbmSize → sget (fun _ => []) (coreOf d c.toNat).ic line.toNat = [] → hbmRead ha 64 s = (.data bs, s1) →
    exec (.programCacheFill c line) s =
      .next (setDev s1 (cacheProgram c.toNat line.toNat bs (countF s1.dev (GCORE_MISS_IMISS c.toNat) 1))))

/-- EXTINT, NMI, HALTREQ and DBG_RESUME complete (R347, R441): a core between groups, with no WAIT left to end, enters vector 9 for
an eligible source with IE set, and vector 1 for an NMI that is not active; a request brings the debug event, and RESUME releases. -/
def Obligations.CoreEntryEventsComplete : Prop := ∀ (s : State) (c : BitVec 5),
  (granted s.dev = true → endWait c.toNat s = s → executing s.dev c.toNat = true → extDue s.dev c.toNat = true →
    nmiDue s.dev c.toNat = false → exec (.extint c) s = .next (enter c.toNat 9 0 none (coreOf s.dev c.toNat).pc s)) ∧
  (granted s.dev = true → endWait 0 s = s → executing s.dev 0 = true → nmiDue s.dev 0 = true →
    exec .nmi s = .next (enter 0 1 0 none (coreOf s.dev 0).pc (setDev s { s.dev with cn := { s.dev.cn with nmi := false } }))) ∧
  (∀ a v, writable s.dev a = true → v.getLsbD 2 = false → v.getLsbD 3 = true →
    exec (.haltreq a c v) s = .next (debugRequest c.toNat (setDev s (plainWrite (DBG_CORE_CTL c.toNat) v s.dev)))) ∧
  (∀ a v, writable s.dev a = true → v.getLsbD 2 = true → v.getLsbD 3 = false →
    exec (.dbgResume a c v) s = .next (setDev s (resumeCore c.toNat (plainWrite (DBG_CORE_CTL c.toNat) v s.dev))))

/-- DMA_START, DMA_COMPLETE and DMA_STOP complete (R380, R384, R385): a good transfer makes its channel BUSY, one of length 0 ends
at once; a busy channel moves all its bytes, or those before the burst boundary of a STOP, code 5. -/
def Obligations.DmaCommandsComplete : Prop := ∀ (s : State) (ch : BitVec 4),
  (∀ a v, writable s.dev a = true → flag s.dev DBG_HALT_HALTED = false → v.getLsbD 0 = true →
    flag s.dev (DMA_STAT_BUSY ch.toNat) = false → engineStopped s.dev = false → dmaParamBad s.dev ch.toNat = false →
    (getF s.dev (DMA_LEN_LEN ch.toNat) ≠ 0 →
      exec (.dmaStart a ch v) s = .next (setDev s (setFlag s.dev (DMA_STAT_BUSY ch.toNat) true))) ∧
    (getF s.dev (DMA_LEN_LEN ch.toNat) = 0 →
      exec (.dmaStart a ch v) s = .next (setDev s (dmaEnd ch.toNat 0 0 s.dev)))) ∧
  (granted s.dev = true → flag s.dev (DMA_STAT_BUSY ch.toNat) = true → engineStopped s.dev = false →
    exec (.dmaComplete ch) s = .next (settle (dmaMove ch.toNat (getF s.dev (DMA_LEN_LEN ch.toNat)) 0 s))) ∧
  (∀ a v (moved : BitVec 24), writable s.dev a = true → flag s.dev DBG_HALT_HALTED = false → v.getLsbD 1 = true →
    flag s.dev (DMA_STAT_BUSY ch.toNat) = true → engineStopped s.dev = false →
    moved.toNat < getF s.dev (DMA_LEN_LEN ch.toNat) →
    exec (.dmaStop a ch v moved) s = .next (settle (dmaMove ch.toNat (moved.toNat / 64 * 64) 5 s)))

/-- FILL, COPY, BLEND, FLOAT_ABORT and FLOAT_COMPLETE complete (R391-R395): an operation that passes every check makes Float BUSY; a
busy one writes all its rows, or stops at a row boundary. -/
def Obligations.FloatCommandsComplete : Prop := ∀ s : State,
  (∀ a v, writable s.dev a = true → flag s.dev DBG_HALT_HALTED = false → v.getLsbD 0 = true →
    flag s.dev FLOAT_STAT_BUSY = false → engineStopped s.dev = false → floatCheck (floatOp s.dev) = 0 →
    (getF s.dev FLOAT_OP_OP = 0 → exec (.fill a v) s = .next (setDev s (setFlag s.dev FLOAT_STAT_BUSY true))) ∧
    (getF s.dev FLOAT_OP_OP = 1 → exec (.copy a v) s = .next (setDev s (setFlag s.dev FLOAT_STAT_BUSY true))) ∧
    (getF s.dev FLOAT_OP_OP = 2 → exec (.blend a v) s = .next (setDev s (setFlag s.dev FLOAT_STAT_BUSY true)))) ∧
  (∀ a v, writable s.dev a = true → flag s.dev DBG_HALT_HALTED = false → v.getLsbD 1 = true →
    flag s.dev FLOAT_STAT_BUSY = true → exec (.floatAbort a v) s = .next (settle (floatCut s))) ∧
  (granted s.dev = true → flag s.dev FLOAT_STAT_BUSY = true → engineStopped s.dev = false →
    exec .floatComplete s = .next (settle (floatRows (floatOp s.dev).h 0 s)))

/-- FRAME_BOUNDARY, VID_COMMIT, LINE_LIST_APPLY, CAPTURE_BIND, CAPTURE_ENTRY, AUX_START, AUX_REPLY and HPD_CHANGE complete (R397-R402,
R411, R417, R418). -/
def Obligations.VideoCommandsComplete : Prop := ∀ s : State,
  (granted s.dev = true → flag s.dev VID_CTRL_ENABLE = true → mode s.dev ≠ 0 → flag s.dev SYS_READY_VID = true →
    exec .frameBoundary s = .next (settle (setDev s (frameBoundary s.dev)))) ∧
  (∀ a v, writable s.dev a = true → v.getLsbD 0 = true →
    exec (.vidCommit a v) s = .next (setDev s (setFlag s.dev VID_COMMIT_GO true))) ∧
  (∀ line : BitVec 12, granted s.dev = true → flag s.dev VID_CTRL_ENABLE = true → mode s.dev ≠ 0 →
    line.toNat < getSh s.dev VID_VTIM_VACTIVE →
    let d := setF (setFlag s.dev VID_STAT_VBLANK false) VID_STAT_LINE line.toNat
    (getSh s.dev VID_LL_BASE_EN = 1 → exec (.lineListApply line) s =
      .next (setDev s (runList line.toNat (screedSize / 8) d))) ∧
    (getSh s.dev VID_LL_BASE_EN ≠ 1 → exec (.lineListApply line) s = .next (setDev s d))) ∧
  (∀ a (p : BitVec 2) v, writable s.dev a = true →
    (flag s.dev (VID_C_CFG_EN p.toNat) = true →
      exec (.captureBind a p v) s = .next (setDev s (setFlag s.dev (VID_C_CFG_EN p.toNat) (v.getLsbD 0)))) ∧
    (flag s.dev (VID_C_CFG_EN p.toNat) = false → v.getLsbD 0 = true →
      let d := setFlag (plainWrite (VID_C_CFG p.toNat) v s.dev) (VID_C_CFG_EN p.toNat) false
      captureCode d p.toNat = 0 → exec (.captureBind a p v) s =
        .next (setDev s (setFlag (setF d (VID_C_STAT_ERR p.toNat) 0) (VID_C_CFG_EN p.toNat) true)))) ∧
  (∀ p : BitVec 2, granted s.dev = true → exec (.captureEntry p) s = .next (settle (captureEntry p.toNat s))) ∧
  (∀ a v, writable s.dev a = true → v.getLsbD 31 = true →
    let d := plainWrite VID_AUX_CMD v s.dev
    flag d VID_AUX_STAT_BUSY = false →
    let data := if getF d VID_AUX_CMD_REQ % 2 == 0 then (auxBytes d).take (getF d VID_AUX_CMD_LEN) else []
    exec (.auxStart a v) s =
      .next (setDev s (emit (.aux (getF d VID_AUX_CMD_REQ) (getF d VID_AUX_CMD_ADDR) data) (setFlag d VID_AUX_STAT_BUSY true)))) ∧
  (∀ (reply : BitVec 3) data, alive s.dev = true → flag s.dev VID_AUX_STAT_BUSY = true → reply.toNat ≠ 7 → data.length ≤ 16 →
    exec (.auxReply reply data) s = .next (setDev s (auxReply reply.toNat data s.dev))) ∧
  (alive s.dev = true →
    exec (.hpdChange .irq) s = .next (setDev s (vidEvent 4 (setFlag s.dev VID_DP_STAT_IRQ_HPD true)))) ∧
  (∀ h, alive s.dev = true → flag s.dev VID_DP_STAT_HPD = !h → exec (.hpdChange (.level h)) s =
    .next (setDev s (vidEvent 4 (setFlag (setFlag s.dev VID_DP_STAT_HPD h) VID_DP_STAT_PLUG true))))

/-- BLOCK_BOUNDARY, AUDIO_PORT_BIND, OUTPUT_ENTRY_READ, ZC_TIMEOUT, FSYNC_ABSENT, FSYNC_RETURN and AUDIO_FRAME complete (R421-R423,
R426, R431, R433). -/
def Obligations.AudioCommandsComplete : Prop := ∀ s : State,
  (alive s.dev = true → flag s.dev AUD_STAT_LOCK = true → mode s.dev ≠ 0 → exec .blockBoundary s = .next (settle (setDev s
    (each ((List.range 2).filter fun p => flag (audEvent 0 (bumpF s.dev (whole AUD_BLOCKS))) (AUD_P_CFG_EN p))
      (fun p d => startOutput p (endInput p d)) (audEvent 0 (bumpF s.dev (whole AUD_BLOCKS))))))) ∧
  (∀ a (p : BitVec 1) v, writable s.dev a = true → exec (.audioPortBind a p v) s = .next (setDev s (writeAudCfg p.toNat v s.dev))) ∧
  (∀ p : BitVec 1, granted s.dev = true → exec (.outputEntryRead p) s = .next (settle (outputEntry p.toNat s))) ∧
  (∀ output (path : BitVec 4) n, let i := path.toNat + 16 * b2n output
    alive s.dev = true → (pathOf s.dev i).wait = some n → (pathOf s.dev i).cur ≠ gainTarget s.dev i →
    max 1 (getF s.dev (gainFlds i).2) ≤ n → exec (.zcTimeout output path) s = .next (setDev s
      (audEvent 2 (setPath s.dev i { pathOf s.dev i with cur := gainTarget s.dev i, wait := none })))) ∧
  (∀ p : BitVec 1, alive s.dev = true → flag s.dev (AUD_P_CFG_EN p.toNat) = true → flag s.dev (AUD_P_CFG_MASTER p.toNat) = false →
    ((audOf s.dev p.toNat).absent = false → exec (.fsyncAbsent p) s = .next (setDev s
      (setF (setAud s.dev p.toNat { audOf s.dev p.toNat with absent := true }) (AUD_P_STAT_ERR p.toNat) 1))) ∧
    ((audOf s.dev p.toNat).absent = true → exec (.fsyncReturn p) s = .next (setDev s
      (setF (setAud s.dev p.toNat { audOf s.dev p.toNat with absent := false }) (AUD_P_STAT_ERR p.toNat) 0)))) ∧
  (∀ (p : BitVec 1) din slip, alive s.dev = true → flag s.dev (AUD_P_CFG_EN p.toNat) = true → flag s.dev AUD_STAT_LOCK = true →
    mode s.dev ≠ 0 → exec (.audioFrame p din slip) s = .next (audioPublish p.toNat (setDev s (audioFrame p.toNat din slip s.dev))))

/-- The TAP's commands complete from VAUX on (R435-R437): each selects its instruction and shifts its data register out; SAMPLE/PRELOAD
loads the boundary register, and DAPACC starts a read or write request when none runs and shows busy while one does. -/
def Obligations.TapCommandsComplete : Prop := ∀ s : State, s.dev.pw.vauxGood = true →
  exec .tapReset s = .next (setDev s { s.dev with dbg := { s.dev.dbg with ir := 1 } }) ∧
  exec .extest s = .next (setDev s (selectIr 0 (bitList 225 s.dev.dbg.boundary.toNat) s.dev)) ∧
  exec .idcode s = .next (setDev s (selectIr 1 (bitList 32 0xB960034F) s.dev)) ∧
  (∀ pins, ∃ t, exec (.samplePreload pins) s = .next t ∧ t.dev.dbg.boundary = pins ∧ t.dev.dbg.ir = 2 ∧
    t.dev.regs = s.dev.regs ∧ t.mem = s.mem) ∧
  exec .clamp s = .next (setDev s (selectIr 3 [false] s.dev)) ∧
  exec .highz s = .next (setDev s (selectIr 4 [false] s.dev)) ∧
  exec .bypass s = .next (setDev s (selectIr 0x1F [false] s.dev)) ∧
  (∀ request : BitVec 80, s.dev.dbg.request = none → (request.toNat % 4 = 1 ∨ request.toNat % 4 = 2) →
    ∃ t, exec (.dapacc request) s = .next t ∧ t.dev.dbg.request = some request ∧
      t.dev.out = .tdo (bitList 80 (s.dev.dbg.status + s.dev.dbg.data.toNat * 2 ^ 48)) :: s.dev.out) ∧
  (∀ (request r : BitVec 80), s.dev.dbg.request = some r →
    exec (.dapacc request) s = .next (setDev s (selectIr 8 (bitList 80 1) s.dev)))

/-- DAP_READ and DAP_WRITE run the request that waits and complete (R437-R439); DEBUG_HALT and DEBUG_RELEASE write DBG_HALT, DBG_STIM
puts a guide core's word into the trace buffer, and DBG_TRACE_DATA_HI reads its head (R442-R445). -/
def Obligations.DebugCommandsComplete : Prop := ∀ s : State,
  (∀ r, writable s.dev .dap = true → s.dev.dbg.request = some r →
    (r.toNat % 4 = 1 → exec .dapRead s = .next (dapReadOp r s)) ∧
    (r.toNat % 4 = 2 → exec .dapWrite s = .next (dapWriteOp r s))) ∧
  (∀ a v, writable s.dev a = true →
    (v.getLsbD 0 = true → exec (.debugHalt a v) s = .next (settle (setDev s (haltDevice s.dev)))) ∧
    (v.getLsbD 0 = false → exec (.debugRelease a v) s = .next (settle (setDev s (releaseDevice s.dev))))) ∧
  (∀ (n : BitVec 5) (c k : BitVec 5) v, writable s.dev (.core n) = true →
    exec (.dbgStim (.core n) c k v) s = .next (setDev s (stimulus c.toNat k.toNat v s.dev))) ∧
  (∀ a nse, writable s.dev a = true → exec (.dbgTraceDataHi a nse) s = .next (setDev s (readTraceHi a a nse s.dev)))

/-- REGISTER_WRITE, READ_CLEAR and LO_READ complete (R3, R5, R6, R7): an aligned write of 32 bits is taken by the register, any other
writes nothing, and a read gives the register's word with the effects of its access type. -/
def Obligations.RegisterAccessCommandsComplete : Prop := ∀ (s : State) (a : Agent), writable s.dev a = true →
  (∀ off v, off.toNat % 4 = 0 → off.toNat < 0x1000000 →
    exec (.registerWrite a 4#4 off v) s = .next (settle (writeReg a off.toNat v s))) ∧
  (∀ width off v, (width ≠ 4#4 ∨ off.toNat % 4 ≠ 0) → exec (.registerWrite a width off v) s = .next s) ∧
  (∀ nse off, off.toNat < 0x1000000 →
    exec (.readClear a nse ⟨4, off⟩) s = .next (setDev s (readReg a a nse off.toNat s.dev)) ∧
    exec (.loRead a nse ⟨4, off⟩) s = .next (setDev s (readReg a a nse off.toNat s.dev)) ∧
    ∀ w : BitVec 4, w ≠ 4 → exec (.readClear a nse ⟨w, off⟩) s = .next (setDev s { s.dev with busRead := 0#32 }) ∧
      exec (.loRead a nse ⟨w, off⟩) s = .next (setDev s { s.dev with busRead := 0#32 }))

/-- The commands of the Cairn complete (R223-R239): an event of a source is taken, a window that counts expires, records are
acknowledged, latches clear, a pulse ends, a class is written and an error injected.
TRIGGER_UNIT_WRITE and TRACE_MASK_WRITE complete (R205, R215): a unit's register is written and its running part cleared; a mask
is written in FREEZE, STANDBY and LOAD, and a change in FREEZE empties the ring when the next RUN begins. -/
def Obligations.CairnAndVisibilityCommandsComplete : Prop :=
  (∀ s : State,
  (∀ (x : BitVec 8) detail trav, alive s.dev = true → x.toNat ≠ 0 → x.toNat ≤ 0x24 → x.toNat ≠ 0x16 → x.toNat ≠ 0x19 →
    exec (.cairnEvent x detail trav) s = .next (settle (setDev s (raiseAt x.toNat detail.toNat trav.toNat false s.dev)))) ∧
  (∀ n : BitVec 2, alive s.dev = true → windowsCount s.dev = true → getR s.dev (CAIRN_WIN_C n.toNat) ≠ 0#32 →
    exec (.ackWindowExpiry n) s = .next (settle (setDev s (windowExpiry n.toNat s.dev)))) ∧
  (∀ a (n : BitVec 3) v, writable s.dev a = true → n.toNat < 5 →
    exec (.cairnAck a n v) s = .next (setDev s (acknowledge n.toNat v.toNat s.dev))) ∧
  (∀ a v, writable s.dev a = true → exec (.latchClear a v) s = .next (setDev s (clearLatches v s.dev))) ∧
  (alive s.dev = true → exec .fltNPulseEnd s = .next (setDev s (syncFlt { s.dev with cn := { s.dev.cn with pulse := false } }))) ∧
  (∀ a (x : BitVec 8) v, writable s.dev a = true → x.toNat ≠ 0 → x.toNat ≤ 0x24 →
    exec (.cairnSrcWrite a x v) s = .next (setDev s (setF (plainWrite (CAIRN_SRC x.toNat) v s.dev) (CAIRN_SRC_CLASS x.toNat)
      (max (getF s.dev (CAIRN_SRC_FLOOR x.toNat)) (min 4 (v.toNat % 8)))))) ∧
  (∀ a v, writable s.dev a = true → bitOf v.toNat 12 = true →
    exec (.inject a v) s = .next (setDev s (inject (plainWrite CAIRN_INJ_CTRL v s.dev))))) ∧
  (∀ (s : State) (a : Agent), writable s.dev a = true →
  (∀ (u : BitVec 6) (reg : BitVec 3) v, exec (.triggerUnitWrite a u reg v) s = .next (setDev s (writeUnit u.toNat reg.toNat v s.dev))) ∧
  (∀ (n : BitVec 3) v, (mode s.dev = 1 ∨ mode s.dev = 2) →
    exec (.traceMaskWrite a n v) s = .next (setDev s (sizeTrace (setR s.dev (VIS_TRACE_TMASK n.toNat) v)))) ∧
  (∀ (n : BitVec 3) v, mode s.dev = 4 → exec (.traceMaskWrite a n v) s = .next (setDev s
    { setR s.dev (VIS_TRACE_TMASK n.toNat) v with vs := { s.dev.vs with
        emptyNext := s.dev.vs.emptyNext || getR s.dev (VIS_TRACE_TMASK n.toNat) != v } })))

/-- The run-control flits complete where they are delivered (R73, R78-R80, R87, R107, R460): HOLD, STOP, FEEDER, HOSTWAIT_ON,
HOSTWAIT_OFF, ROPE_LOST and FLOOR at their device, HIGH and ARRIVED at the manager.
SIGNAL completes where it is delivered (R106): each of its one to twelve values goes to its slot. -/
def Obligations.RunControlFlitsComplete : Prop :=
  (∀ (s : State) (rx : Rx),
  (Delivered 0x13 0 rx s → exec (.hold rx) s = .next (takes 0x13 0 rx 0 holdIn s)) ∧
  (∀ h : DWord, Delivered 0x13 1 rx s → isMgr (taken 0x13 1 rx (at8 8 h.toNat) s) = true →
    exec (.high rx h) s = .next (takes 0x13 1 rx (at8 8 h.toNat) (fun d => { d with tv := { d.tv with
      highs := (rx.src.toNat, h.toNat) :: d.tv.highs.filter (·.1 != rx.src.toNat) } }) s)) ∧
  (∀ n : DWord, Delivered 0x13 2 rx s → exec (.stop rx n) s = .next (takes 0x13 2 rx (at8 8 n.toNat) (stopIn n.toNat) s)) ∧
  (∀ n : DWord, Delivered 0x13 3 rx s → isMgr (taken 0x13 3 rx (at8 8 n.toNat) s) = true →
    exec (.arrived rx n) s = .next (takes 0x13 3 rx (at8 8 n.toNat) (fun d => { d with tv := { d.tv with
      arriveds := (rx.src.toNat, n.toNat) :: d.tv.arriveds.filter (· != (rx.src.toNat, n.toNat)) } }) s)) ∧
  (∀ p, Delivered 0x13 4 rx s → partOf (taken 0x13 4 rx 0 s) rx.src.toNat = some p →
    exec (.feeder rx) s = .next (takes 0x13 4 rx 0 (fun d => { d with tv := { d.tv with
      feeders := p :: d.tv.feeders.filter (· != p) } }) s)) ∧
  (∀ q : BitVec 13, Delivered 0x13 5 rx s → exec (.hostwaitOn rx q) s =
    .next (takes 0x13 5 rx (at8 8 q.toNat) (hostWaitIn rx.src.toNat q.toNat true) s)) ∧
  (∀ q : BitVec 13, Delivered 0x13 6 rx s → exec (.hostwaitOff rx q) s =
    .next (takes 0x13 6 rx (at8 8 q.toNat) (hostWaitIn rx.src.toNat q.toNat false) s)) ∧
  (∀ (last : BitVec 12) (rope : BitVec 5), Delivered 0x13 7 rx s → exec (.ropeLost rx last rope) s =
    .next (takes 0x13 7 rx (at8 8 (last.toNat + rope.toNat * 2 ^ 12)) (ropeLostIn rx.src.toNat last.toNat rope.toNat) s)) ∧
  (∀ (n : DWord) (r : BitVec 16) p, let b := at8 8 n.toNat + at8 16 r.toNat
    Delivered 0x21 0 rx s → r.toNat = getF (taken 0x21 0 rx b s) TRV_STATUS_RESTORES →
    partOf (taken 0x21 0 rx b s) rx.src.toNat = some p →
    exec (.floor rx n r) s = .next (takes 0x21 0 rx b (fun d => { d with tv := { d.tv with
      floors := sset zeroAt d.tv.floors p (later (sget zeroAt d.tv.floors p) n.toNat) } }) s))) ∧
  (∀ (s : State) (rx : Rx) (par : Bool) (vs : List SigEntry),
  1 ≤ vs.length → vs.length ≤ 12 → Delivered 0x20 (b2n par + 2 * vs.length) rx s →
  exec (.signal rx par vs) s = .next (takes 0x20 (b2n par + 2 * vs.length) rx (signalBody vs) (each vs fun e d =>
    placeValue (512 * e.tile.toNat + e.slot.toNat) par e.value (valueTraverse d e.tile.toNat par) d) s))

/-- The fabric's events complete (R46, R49, R62, R67, R69, R70, R86-R89, R106, R141, R204, R219): a tile behind an open gate begins its
traverse, evaluates its steps and ends, values arrive, accesses finish, records are written, and the scrubbers and windows act. -/
def Obligations.FabricCommandsComplete : Prop := ∀ s : State, granted s.dev = true →
  (∀ t : BitVec 8, fabricRuns s.dev = true → (tileOf s.dev t.toNat).inTrav = false → s.dev.hs.imageHeld = true →
    flag s.dev TRV_STATUS_HOLD = false → gateOpen s.dev (tileOf s.dev t.toNat).count = true → exec (.traverseBegin t) s = .next (setDev s
      (setTile (clearTile t.toNat s.dev) t.toNat { tileOf s.dev t.toNat with
        inTrav := true, step := 0, wait := 0, detail := 0, sendIdx := 0, lastPop := 0, popValid := false, qEmpty := false }))) ∧
  (∀ t : BitVec 8, exec (.tileStep t) s = .next (settle (tileStep t.toNat s))) ∧
  (∀ t : BitVec 8, let d0 := drainSends t.toNat s.dev
    mayEnd d0 t.toNat = true →
    let d := capturePoint t.toNat (nextCount (tileOf d0 t.toNat).count) (endTile t.toNat d0)
    exec (.traverseEnd t) s = .next (settle (setDev s (syncArea
      (if floorOf d0 != floorOf d then floorReached (floorOf d) d else d))))) ∧
  (∀ i v, s.dev.fab.net[i]? = some v → exec (.tileNetworkArrival i) s = .next (setDev s
    (placeValue v.slot v.parity v.value v.trav { s.dev with fab := { s.dev.fab with net := s.dev.fab.net.eraseIdx i } }))) ∧
  (∀ (port : BitVec 10) a, s.dev.md.c4Hold = false → readyAccess s.dev.fab.acc port.toNat = some a →
    (a.tram = true → exec (.portAccessComplete port) s = .next (settle (setDev s (tramAccess a s.dev)))) ∧
    (a.tram = false → exec (.portAccessComplete port) s = .next (settle (hbmAccess a s)))) ∧
  exec .traceRecordWrite s = .next (writeTrace s) ∧
  exec .replayRecordWrite s = .next (writeReplay s) ∧
  (∀ (e : BitVec 17) (st : BitVec 10), exec (.stepMemoryScrub e st) s = .next (setDev s (stepScrub e.toNat st.toNat s.dev))) ∧
  (∀ w : BitVec 37, exec (.patrolScrub w) s = .next (patrolRead (8 * w.toNat) s)) ∧
  (∀ part par, exec (.signalFlitClose part par) s =
    .next (setDev s (closeSignals (fun o => o.part == part.toNat && o.parity == par) s.dev))) ∧
  (∀ q r, s.dev.tv.ownWaits = q :: r → getF s.dev TRV_HOSTWAIT_LIMIT ≠ 0 →
    exec .hostwaitLimit s = .next (setDev s (raise 0x0B q { s.dev with tv := { s.dev.tv with ownWaits := r ++ [q] } }))) ∧
  ((mode s.dev = 3 ∨ mode s.dev = 5 ∨ mode s.dev = 6) → flag s.dev TRV_STALL_ENABLE = true →
    flag s.dev TRV_STATUS_HOLD = false → flag s.dev TRV_STATUS_HOSTWAIT_SYS = false → flag s.dev DBG_HALT_HALTED = false →
    holds s.dev = true →
    let st := tileStat s.dev (stalledTile s.dev)
    exec .stall s = .next (settle (setDev s (raise 0x09 (stalledTile s.dev + st % 2 ^ 16 * 2 ^ 16 + st / 2 ^ 16 * 2 ^ 32)
      (setFlag s.dev TRV_STATUS_STALLED true))))) ∧
  (∃ t, exec .rateWindow s = .next t ∧ getR t.dev TRV_RATE = BitVec.ofNat 32 (trvCount s.dev - s.dev.tv.winBase) ∧
    t.dev.tv.winBase = trvCount s.dev ∧ t.mem = s.mem)

/-- TRANSITION_END, REPLAY_END, SETTLE_EXPIRY, MANAGER_TIMEOUT, STRAND and STRAND_TIMEOUT complete (R27, R28, R220, R244, R263, R270). -/
def Obligations.ModeEventsComplete : Prop := ∀ s : State,
  (granted s.dev = true → exec .transitionEnd s = .next (settle (takeoverAt (endTransitionAt s)))) ∧
  (granted s.dev = true → mode s.dev = 5 → s.dev.md.trans = none → s.dev.vs.rplEnding = true →
    (isMgr s.dev = true → exec .replayEnd s = .next (settle (setDev s (mgrMode 4 s.dev)))) ∧
    (isMgr s.dev = false → exec .replayEnd s = .next (settle (setDev s (beginTrans 4 false false (setFlag s.dev TRV_STATUS_HOLD true)))))) ∧
  (alive s.dev = true → s.dev.rs.settling = true → exec .settleExpiry s = .next (settle (setDev s (classify s.dev)))) ∧
  (granted s.dev = true → isMgr s.dev = false → (mode s.dev = 3 ∨ mode s.dev = 5 ∨ mode s.dev = 6) →
    flag s.dev TRV_STATUS_HOLD = false → exec .managerTimeout s = .next (setDev s
      (setFlag { s.dev with rs := { s.dev.rs with mgrHold := true } } TRV_STATUS_HOLD true))) ∧
  (granted s.dev = true → isMgr s.dev = false → exec .strand s = .next (settle (setDev s (strandNow s.dev)))) ∧
  (granted s.dev = true → (s.dev.md.stranded = true ∨ flag s.dev RES_STATUS_SPLIT = true) →
    exec .strandTimeout s = .next (settle (setDev s (raiseWith 0x21 (sideParties s.dev + 2 ^ 31) (trvCount s.dev) false true true s.dev))))

/-- The link layer's control flits and timers complete (R94, R109-R111, R122-R124): on a rope that is up, or in training, as each
requires. -/
def Obligations.LinkCommandsComplete : Prop := ∀ (s : State) (rope : BitVec 5), alive s.dev = true →
  (∀ pos peer fallback lanes ready, (ropeOf s.dev rope.toNat).wired = true → getF s.dev (LINK_RP_STAT_STATE rope.toNat) = 1 →
    exec (.lcTrain rope pos peer fallback lanes ready) s =
      .next (settle (setDev s (trainFlit rope.toNat pos.toNat peer.toNat fallback lanes ready s.dev)))) ∧
  (∀ payload, ropeUp s.dev rope.toNat = true →
    exec (.lcStatus rope payload) s = .next (setDev s (statusFlit rope.toNat payload.toNat s.dev))) ∧
  (∀ (n : BitVec 12) lanes, ropeUp s.dev rope.toNat = true →
    let d := ackFlits rope.toNat ((n.toNat + 4095) % 4096) s.dev
    exec (.lcNak rope n lanes) s = .next (settle (setDev s (resend rope.toNat n.toNat
      (restripe rope.toNat (setRope d rope.toNat { ropeOf d rope.toNat with txLanes := lanes })))))) ∧
  (ropeUp s.dev rope.toNat = true → exec (.lcStatusTimer rope) s = .next (setDev s (sendStatus rope.toNat s.dev))) ∧
  ((ropeOf s.dev rope.toNat).wired = true → getF s.dev (LINK_RP_STAT_STATE rope.toNat) = 1 →
    exec (.ropeTrainingTimeout rope) s = .next (settle (setDev s (trainingEnds rope.toNat s.dev)))) ∧
  (∀ f r, (ropeOf s.dev rope.toNat).replay = f :: r →
    exec (.resendTimeout rope) s = .next (settle (setDev s (resend rope.toNat f.seq s.dev)))) ∧
  (ropeUp s.dev rope.toNat = true → (ropeOf s.dev rope.toNat).replay ≠ [] →
    exec (.ropeAckTimeout rope) s = .next (settle (setDev s (loseRope rope.toNat s.dev)))) ∧
  (∀ lane : BitVec 3, ropeUp s.dev rope.toNat = true → (ropeOf s.dev rope.toNat).rxLanes.getLsbD lane.toNat = true →
    exec (.laneLoss rope lane) s = .next (settle (setDev s (loseLane rope.toNat lane.toNat s.dev)))) ∧
  (getF s.dev LINK_RETRAIN_PERIOD ≠ 0 → isLost s.dev (ropeOf s.dev rope.toNat).expPos = false →
    exec (.retrainPeriod rope none) s = .next (setDev s (retrainRope rope.toNat s.dev))) ∧
  (∀ lane : BitVec 3, exec (.laneRejoin rope lane) s = .next (setDev s (rejoinLane rope.toNat lane.toNat s.dev))) ∧
  (exec (.deviceSilence rope) s = .next (setDev s (deviceSilent rope.toNat s.dev))) ∧
  (∀ cause (seq : BitVec 12), ropeUp s.dev rope.toNat = true → cause ≠ .sequence →
    exec (.flitDiscard rope cause seq) s = .next (setDev s (discardFlit rope.toNat cause seq.toNat s.dev))) ∧
  (∀ ty : BitVec 6, flag s.dev DBG_HALT_HALTED = false → ropeUp s.dev rope.toNat = true → exec (.linkProtocolFault rope ty) s =
    .next (settle (setDev s (linkFault 0x14 rope.toNat ty.toNat 0 (acceptSeq rope.toNat s.dev)))))

/-- LANE_DIS, RETRAIN and LINK_BELAY_RAISE complete as register writes, BELAY and HEARTBEAT as control flits, and the exchanges of
system time (R80, R100, R122, R124, R127, R131). -/
def Obligations.LinkWritesAndTimeComplete : Prop := ∀ s : State,
  (∀ a (rope : BitVec 5) v, writable s.dev a = true → rope.toNat < 18 →
    exec (.laneDis a rope v) s = .next (settle (setDev s (laneDisable rope.toNat v s.dev))) ∧
    exec (.retrain a rope v) s = .next (settle (setDev s (retrainWrite rope.toNat v s.dev)))) ∧
  (∀ a v, writable s.dev a = true → bitOf v.toNat 0 = true → (bitsOf v.toNat 15 8 = 1 ∨ bitsOf v.toNat 15 8 = 2) →
    exec (.linkBelayRaise a v) s = .next (settle (setDev s (raiseFreeze (bitsOf v.toNat 15 8) s.dev)))) ∧
  (∀ (rope : BitVec 5) (reason : BitVec 8) (origin : BitVec 10) (epoch : BitVec 8), alive s.dev = true →
    ropeUp s.dev rope.toNat = true → knownBelay s.dev origin.toNat epoch.toNat = false →
    isLost s.dev origin.toNat = false → (reason = 1 ∨ reason = 2 ∨ reason = 0x10 ∨ reason = 0x11) →
    exec (.belay rope reason origin epoch) s = .next (settle (setDev s (belayHold reason.toNat
      (floodBelay reason.toNat origin.toNat epoch.toNat (some rope.toNat)
        (noteBelay reason.toNat origin.toNat epoch.toNat s.dev)))))) ∧
  (∀ (rope : BitVec 5) (pos : BitVec 10) (m : BitVec 3) (r : BitVec 2) st, alive s.dev = true → (ropeOf s.dev rope.toNat).wired = true →
    isLost s.dev pos.toNat = false → r.toNat ≠ 3 → exec (.heartbeat rope pos m r st) s = .next (setDev s
      (setRope s.dev rope.toNat { ropeOf s.dev rope.toNat with
        hbPos := pos.toNat, hbMode := m.toNat, hbRole := r.toNat, hbStranded := st }))) ∧
  (∀ (t1 : DWord) p k, granted s.dev = true → timeParent (syncParent s.dev) = some (p, k) → ropeUp (syncParent s.dev) k = true →
    silenced (syncParent s.dev) (mkFlit (syncParent s.dev) 0x16 0 p true (at8 8 t1.toNat)) = false →
    exec (.timeExchangePeriod t1) s = .next (setDev s (enqueue k (mkFlit (syncParent s.dev) 0x16 0 p true (at8 8 t1.toNat))
      (syncParent s.dev)))) ∧
  (∀ (rope : BitVec 5) (t1 t2 t3 : DWord), granted s.dev = true → ropeUp s.dev rope.toNat = true →
    let d := freeBuffer rope.toNat 0 0 true (acceptSeq rope.toNat s.dev)
    let f := mkFlit d 0x16 1 (getF d (LINK_RP_STAT_PEER rope.toNat)) true (at8 8 t1.toNat + at8 16 t2.toNat + at8 24 t3.toNat)
    silenced d f = false → exec (.timeRequest rope t1 t2 t3) s = .next (setDev s (enqueue rope.toNat f d))) ∧
  (∀ (rope : BitVec 5) (t1 t2 t3 t4 : DWord) p, granted s.dev = true → ropeUp s.dev rope.toNat = true →
    let d := freeBuffer rope.toNat 0 0 true (acceptSeq rope.toNat s.dev)
    timeParent d = some (p, rope.toNat) → exec (.timeReply rope t1 t2 t3 t4) s =
      .next (settle (setDev s (timeOffset t1.toNat t2.toNat t3.toNat t4.toNat (syncParent d)))))

/-- PAGE_RESTORE, WALL_CAP_EXPIRY and RESTORE_COMPLETE, and the CKPCTL flits, complete (R156-R182): REQUEST at a holder is answered
with its fence, REPLY and READY count at the manager, BOUNDARY, COMMIT, ABANDON and ROLLBACK act at the other devices, and JACK at a
worker.
The CKPDATA flits complete where they are delivered, at the party's spare (R163, R169, R170, R176): words of state, tile RAM and
queue positions are staged, mirrored journal words stored, and END closes a stream. -/
def Obligations.CheckpointCommandsComplete : Prop :=
  (∀ (s : State) (rx : Rx),
  (∀ page : BitVec 25, granted s.dev = true → exec (.pageRestore page) s = .next (restorePage page.toNat s)) ∧
  (granted s.dev = true → exec .wallCapExpiry s = .next (settle (setDev s (boundaryIfReplied (wallCap s.dev))))) ∧
  (granted s.dev = true → s.dev.ck.rollEnd = true → exec .restoreComplete s = .next (settle (setDev s (restoreDone s.dev)))) ∧
  (Delivered 0x14 0 rx s → isMgr (taken 0x14 0 rx 0 s) = false → holds (taken 0x14 0 rx 0 s) = true →
    exec (.request rx) s = .next (takes 0x14 0 rx 0 (fun d => sendMgr 0x14 1 (ckpctl 0 (highBegun d + max 4 d.ck.lead) 0)
      { d with tv := { d.tv with fence := some (highBegun d + max 4 d.ck.lead) } }) s)) ∧
  (∀ f : DWord, let b := ckpctl 0 f.toNat 0
    Delivered 0x14 1 rx s → isMgr (taken 0x14 1 rx b s) = true → (taken 0x14 1 rx b s).ck.requesting = true →
    exec (.reply rx f) s = .next (takes 0x14 1 rx b (fun d => boundaryIfReplied { d with ck := { d.ck with
      replies := (rx.src.toNat, f.toNat) :: d.ck.replies.filter (·.1 != rx.src.toNat) } }) s)) ∧
  (∀ (seq : Word) (k : DWord), Delivered 0x14 2 rx s → exec (.boundary rx seq k) s =
    .next (takes 0x14 2 rx (ckpctl seq.toNat k.toNat 0) (boundaryIn seq.toNat k.toNat) s)) ∧
  (∀ (seq : Word) (k : DWord) fromSpare asks, Delivered 0x14 3 rx s → exec (.ready rx seq k fromSpare asks) s =
    .next (takes 0x14 3 rx (ckpctl seq.toNat k.toNat (b2n fromSpare + b2n asks * 2))
      (readyIn rx.src.toNat seq.toNat k.toNat asks) s)) ∧
  (∀ (seq : Word) (k : DWord), let b := ckpctl seq.toNat k.toNat 0
    Delivered 0x14 4 rx s → isMgr (taken 0x14 4 rx b s) = false → exec (.commit rx seq k) s =
      .next (settle (commitIn seq.toNat k.toNat (setDev s (taken 0x14 4 rx b s))))) ∧
  (∀ (seq : Word) (k : DWord), Delivered 0x14 5 rx s → exec (.abandon rx seq k) s =
    .next (takes 0x14 5 rx (ckpctl seq.toNat k.toNat 0) (abandonIn seq.toNat) s)) ∧
  (∀ (seq : Word) (k : DWord), Delivered 0x14 6 rx s → exec (.rollback rx seq k) s =
    .next (settle (rollbackIn seq.toNat k.toNat (setDev s (taken 0x14 6 rx (ckpctl seq.toNat k.toNat 0) s))))) ∧
  (∀ (seq : Word) (off : DWord) stored, Delivered 0x14 7 rx s → exec (.jack rx seq off stored) s =
    .next (takes 0x14 7 rx (ckpctl seq.toNat off.toNat (b2n stored)) (jackIn seq.toNat off.toNat stored) s))) ∧
  (∀ (s : State) (rx : Rx) (seq7 : BitVec 7) (off : BitVec 24) (ws : List DWord),
  1 ≤ ws.length → ws.length ≤ 3 →
  let b := ckpBody off.toNat ws
  (Delivered 0x28 (0 + 8 * seq7.toNat) rx s → exec (.ckpdataState rx seq7 off ws) s = .next
    (takes 0x28 (0 + 8 * seq7.toNat) rx b (stageIn 0 rx.src.toNat seq7.toNat off.toNat ws) s)) ∧
  (Delivered 0x28 (1 + 8 * seq7.toNat) rx s → exec (.ckpdataTram rx seq7 off ws) s = .next
    (takes 0x28 (1 + 8 * seq7.toNat) rx b (stageIn 1 rx.src.toNat seq7.toNat off.toNat ws) s)) ∧
  (Delivered 0x28 (2 + 8 * seq7.toNat) rx s → exec (.ckpdataQpos rx seq7 off ws) s = .next
    (takes 0x28 (2 + 8 * seq7.toNat) rx b (stageIn 2 rx.src.toNat seq7.toNat off.toNat ws) s)) ∧
  (Delivered 0x28 (3 + 8 * seq7.toNat) rx s → exec (.ckpdataJrnl rx seq7 off ws) s = .next
    (takes 0x28 (3 + 8 * seq7.toNat) rx b (mirrorIn rx.src.toNat seq7.toNat off.toNat ws) s)) ∧
  (∀ (seq : Word) (k : DWord) (n : Word), Delivered 0x28 (4 + 8 * (seq.toNat % 128)) rx s →
    exec (.ckpdataEnd rx seq k n) s = .next (takes 0x28 (4 + 8 * (seq.toNat % 128)) rx
      (at8 8 seq.toNat + at8 12 k.toNat + at8 20 n.toNat) (endIn rx.src.toNat seq.toNat k.toNat n.toNat) s)))

/-- The flits of parity and rebuild complete where they are delivered (R153, R155, R256, R258, R259, R267), one of the reserved COUNT 3
as a link protocol fault, and an open PARITY flit closes. -/
def Obligations.ParityCommandsComplete : Prop := ∀ (s : State) (rx : Rx),
  (∀ (seq8 : BitVec 8) es, 1 ≤ es.length → es.length ≤ 2 → Delivered 0x29 (es.length + 4 * seq8.toNat) rx s →
    let t := setDev s (taken 0x29 (es.length + 4 * seq8.toNat) rx (parityBody es) s)
    exec (.parity rx seq8 es) s = .next (settle (parityIn rx.src.toNat seq8.toNat es t)) ∧
    exec (.rebuildWords rx seq8 es) s = .next (settle (rebuildIn rx.src.toNat seq8.toNat es t))) ∧
  (∀ (seq8 : BitVec 8) es, es.length = 3 → granted s.dev = true →
    exec (.parity rx seq8 es) s = .next (settle (setDev s (protocolFault rx.rope.toNat 0x29 s.dev)))) ∧
  (∀ (seq : Word) (n : DWord), Delivered 0x29 (4 * (seq.toNat % 256)) rx s → exec (.parityMark rx seq n) s =
    .next (takes 0x29 (4 * (seq.toNat % 256)) rx (at8 8 seq.toNat + at8 12 n.toNat) (markIn rx.src.toNat seq.toNat n.toNat) s)) ∧
  (granted s.dev = true → exec .parityFlitClose s = .next (setDev s (closeParity s.dev))) ∧
  (∀ (page : Word) (n : DWord), Delivered 0x29 (4 * ((latest s.dev).1 % 256)) rx s → exec (.rebuildPageEnd rx page n) s =
    .next (takes 0x29 (4 * ((latest s.dev).1 % 256)) rx (at8 8 page.toNat + at8 12 n.toNat)
      (pageEndIn rx.src.toNat page.toNat n.toNat) s)) ∧
  (∀ epoch (part : BitVec 10) (addr : BitVec 37) one, let v := addr.toNat + b2n one * 2 ^ 63
    Ordered 13 rx epoch part.toNat v 0 s → exec (.rebuildReq rx epoch part addr one) s = .next (settle
      (rebuildReqIn rx.src.toNat addr.toNat one (setDev s (taken 0x12 13 rx (sysBody epoch part.toNat v 0) s))))) ∧
  (∀ epoch (part : BitVec 10) (t : BitVec 8) (e : BitVec 9) (st : BitVec 10) isReply word,
    let v := t.toNat + e.toNat * 2 ^ 8 + st.toNat * 2 ^ 17 + b2n isReply * 2 ^ 63
    Ordered 14 rx epoch part.toNat v word.toNat s → exec (.stepword rx epoch part t e st isReply word) s =
      .next (takes 0x12 14 rx (sysBody epoch part.toNat v word.toNat)
        (stepwordIn rx.src.toNat part.toNat t.toNat e.toNat st.toNat isReply word) s))

/-- QUE_PUBLISH and QUE_RELEASE complete, and the QUEUE flits where they are delivered (R193-R200): at the manager, addressed by
position, and at the home device, by partition. -/
def Obligations.QueueCommandsComplete : Prop := ∀ (s : State) (rx : Rx),
  (∀ a v, writable s.dev a = true → flag s.dev DBG_HALT_HALTED = false →
    exec (.quePublish a v) s = .next (settle (publish a v s)) ∧ exec (.queRelease a v) s = .next (settle (release a v s))) ∧
  (∀ (q : BitVec 13) (chunk : BitVec 12) last (i : DWord) (data : BitVec 128), Delivered 0x30 0 rx s →
    let t := setDev s (taken 0x30 0 rx (queueBody q.toNat chunk.toNat last i.toNat data.toNat) s)
    let c : Chunk := ⟨q.toNat, i.toNat, chunk.toNat, last, data⟩
    (rx.dkind = true → isMgr t.dev = true →
      exec (.entry rx q chunk last i data) s = .next (settle (entryMgr rx.src.toNat c t))) ∧
    (rx.dkind = false → exec (.entry rx q chunk last i data) s = .next (settle (entryHome c t)))) ∧
  (∀ (q : BitVec 13) (v : DWord), Delivered 0x30 1 rx s → exec (.prod rx q v) s = .next (settle
    (onRelay rx.src.toNat q.toNat (prodIn v.toNat) (setDev s (taken 0x30 1 rx (queueBody q.toNat 0 false v.toNat 0) s))))) ∧
  (∀ (q : BitVec 13) (v : DWord), Delivered 0x30 2 rx s →
    let t := setDev s (taken 0x30 2 rx (queueBody q.toNat 0 false v.toNat 0) s)
    (rx.dkind = true → exec (.cons rx q v) s = .next (settle (onRelay rx.src.toNat q.toNat (consMgr v.toNat) t))) ∧
    (rx.dkind = false → exec (.cons rx q v) s = .next (settle (consHome q.toNat v.toNat t)))) ∧
  (∀ (q : BitVec 13) (i : DWord) (code : BitVec 8), Delivered 0x30 3 rx s → exec (.refuse rx q i code) s = .next (settle
    (onRelay rx.src.toNat q.toNat (refuseIn code.toNat)
      (setDev s (taken 0x30 3 rx (queueBody q.toNat 0 false i.toNat code.toNat) s))))) ∧
  (∀ (q : BitVec 13) (i : DWord), Delivered 0x30 4 rx s → exec (.reattach rx q i) s = .next (settle
    (reattachIn q.toNat i.toNat (setDev s (taken 0x30 4 rx (queueBody q.toNat 0 false i.toNat 0) s)))))

/-- The FAULT flits and the trigger flits complete where they are delivered (R126, R213, R214, R223, R244, R245). -/
def Obligations.FaultAndTriggerFlitsComplete : Prop := ∀ (s : State) (rx : Rx),
  (∀ rec : BitVec 224, Delivered 0x15 0 rx s →
    exec (.report rx rec) s = .next (takes 0x15 0 rx rec.toNat (reportIn rx.src.toNat rec.toNat) s)) ∧
  (∀ pos : BitVec 10, Delivered 0x15 1 rx s →
    exec (.silent rx pos) s = .next (takes 0x15 1 rx (at8 8 pos.toNat) (noteSilent rx.src.toNat pos.toNat) s)) ∧
  (∀ (seq : Word) (rec : BitVec 192), Delivered 0x15 2 rx s → exec (.safe rx seq rec) s =
    .next (takes 0x15 2 rx (at8 8 seq.toNat + at8 12 rec.toNat) (safeIn rx.src.toNat) s)) ∧
  (∀ (line : BitVec 6) (t : DWord) (u : BitVec 6), Delivered 0x17 line.toNat rx s → exec (.trigLine rx line t u) s =
    .next (takes 0x17 line.toNat rx (at8 8 t.toNat + at8 16 u.toNat) (fun d => mgrTrigger rx.src.toNat t.toNat u.toNat (lineIn line.toNat d)) s)) ∧
  (∀ (t : DWord) (u : BitVec 6), let b := at8 8 t.toNat + at8 16 u.toNat
    Delivered 0x17 64 rx s → isMgr (taken 0x17 64 rx b s) = true →
    exec (.trigFreeze rx t u) s = .next (takes 0x17 64 rx b (trigFreezeIn rx.src.toNat t.toNat u.toNat) s))

/-- The SYSCTL flits of this GENERATION complete where they are delivered (R20, R24, R241-R243, R250-R253, R260, R261, R270): MODE,
TOPO, MAP, LOST, ACK, BEAT, CENSUS and its reply, ADOPT, ADOPTED, DONE and APPOINT; TAKEOVER and PROBE of their own. -/
def Obligations.SystemControlFlitsComplete : Prop := ∀ (s : State) (rx : Rx) (epoch : BitVec 16),
  (∀ (arg : BitVec 10) (v : DWord) (p w : Word) (l : BitVec 8), let x := p.toNat + w.toNat * 2 ^ 32 + l.toNat * 2 ^ 64
    Ordered 0 rx epoch arg.toNat v.toNat x s → exec (.mode rx epoch arg v p w l) s =
      .next (takes 0x12 0 rx (sysBody epoch arg.toNat v.toNat x) (modeIn arg.toNat v.toNat p.toNat w.toNat l.toNat) s)) ∧
  (∀ (pos : BitVec 10) (v : DWord), Ordered 1 rx epoch pos.toNat v.toNat 0 s → exec (.topo rx epoch pos v) s =
    .next (takes 0x12 1 rx (sysBody epoch pos.toNat v.toNat 0) (topoIn rx.src.toNat pos.toNat v.toNat) s)) ∧
  (∀ (part : BitVec 10) (v : DWord), Ordered 2 rx epoch part.toNat v.toNat 0 s → exec (.map rx epoch part v) s =
    .next (settle (deliverWaiting (setDev s (mapIn part.toNat v.toNat (taken 0x12 2 rx (sysBody epoch part.toNat v.toNat 0) s)))))) ∧
  (∀ pos : BitVec 10, Ordered 3 rx epoch pos.toNat 0 0 s → exec (.lost rx epoch pos) s =
    .next (takes 0x12 3 rx (sysBody epoch pos.toNat 0 0) (lostIn pos.toNat) s)) ∧
  (∀ (pos : BitVec 10) (v : DWord), Ordered 4 rx epoch pos.toNat v.toNat 0 s → exec (.ack rx epoch pos v) s =
    .next (takes 0x12 4 rx (sysBody epoch pos.toNat v.toNat 0) (ackIn pos.toNat v.toNat) s)) ∧
  (∀ (pos : BitVec 10) (k : DWord) (seq : Word) (r : BitVec 16), let x := seq.toNat + r.toNat * 2 ^ 32
    Ordered 5 rx epoch pos.toNat k.toNat x s → exec (.beat rx epoch pos k seq r) s = .next (settle
      (beatIn rx.src.toNat k.toNat seq.toNat r.toNat (setDev s (taken 0x12 5 rx (sysBody epoch pos.toNat k.toNat x) s))))) ∧
  (∀ pos : BitVec 10, Ordered 6 rx epoch pos.toNat 0 0 s → exec (.census rx epoch pos) s =
    .next (takes 0x12 6 rx (sysBody epoch pos.toNat 0 0) (censusIn rx.src.toNat) s)) ∧
  (∀ (pos : BitVec 10) (k : DWord) (seq : Word) (r : BitVec 2) edited, let x := seq.toNat + r.toNat * 2 ^ 32 + b2n edited * 2 ^ 40
    Ordered 7 rx epoch pos.toNat k.toNat x s → exec (.censusReply rx epoch pos k seq r edited) s =
      .next (takes 0x12 7 rx (sysBody epoch pos.toNat k.toNat x) (censusReplyIn pos.toNat k.toNat seq.toNat r.toNat edited) s)) ∧
  (∀ (part : BitVec 10) (k : DWord) (seq : Word), Ordered 8 rx epoch part.toNat k.toNat seq.toNat s →
    exec (.adopt rx epoch part k seq) s =
      .next (takes 0x12 8 rx (sysBody epoch part.toNat k.toNat seq.toNat) (adoptIn part.toNat k.toNat seq.toNat) s)) ∧
  (∀ part : BitVec 10, let b := sysBody epoch part.toNat 0 0
    Ordered 9 rx epoch part.toNat 0 0 s → isMgr (taken 0x12 9 rx b s) = true → exec (.adopted rx epoch part) s =
      .next (takes 0x12 9 rx b (fun d => { d with rs := { d.rs with
        adopting := d.rs.adopting.filter (· != (part.toNat, rx.src.toNat)) } }) s)) ∧
  (∀ (pos : BitVec 10) (k : DWord) (seq : Word) (old : BitVec 10),
    let b := sysBody epoch pos.toNat k.toNat (seq.toNat + old.toNat * 2 ^ 32)
    Delivered 0x12 10 rx s → epoch.toNat / 4096 = (generation (taken 0x12 10 rx b s) + 1) % 16 →
    exec (.takeover rx epoch pos k seq old) s =
      .next (takes 0x12 10 rx b (applyTakeover pos.toNat old.toNat k.toNat seq.toNat (epoch.toNat / 4096)) s)) ∧
  (∀ (pos : BitVec 10) (k h : DWord), let b := sysBody epoch pos.toNat k.toNat h.toNat
    Ordered 11 rx epoch pos.toNat k.toNat h.toNat s → isMgr (taken 0x12 11 rx b s) = true →
    (taken 0x12 11 rx b s).rs.recovering = true → k.toNat = (taken 0x12 11 rx b s).rs.rollK →
    exec (.done rx epoch pos k h) s = .next (takes 0x12 11 rx b (fun d => { d with rs := { d.rs with
      dones := rx.src.toNat :: d.rs.dones.filter (· != rx.src.toNat)
      hd := if (liveHolders d).contains rx.src.toNat then some ((d.rs.hd.map (later h.toNat)).getD h.toNat) else d.rs.hd } }) s)) ∧
  (∀ pos : BitVec 10, let b := sysBody epoch pos.toNat 0 0
    Ordered 12 rx epoch pos.toNat 0 0 s → pos.toNat = myPos (taken 0x12 12 rx b s) → role (taken 0x12 12 rx b s) = 0 →
    exec (.appoint rx epoch pos) s = .next (takes 0x12 12 rx b (fun d =>
      let d' := setDeputy pos.toNat true (setF d SYS_ROLE_ROLE 2)
      roleChanged pos.toNat 2 0 (noteTopo pos.toNat 2 (getF d' SYS_ROLE_CFG_ROLE) (if holds d' then myPart d' + 1 else 0) d')) s)) ∧
  (∀ (pos : BitVec 10) (n : DWord) (me : BitVec 16), Delivered 0x12 15 rx s →
    let b := sysBody epoch pos.toNat n.toNat me.toNat
    exec (.probe rx epoch pos n me) s = .next (takes 0x12 15 rx b (probeIn rx pos.toNat b (me.toNat / 4096)) s))

/-- BEAT_PERIOD, CENSUS_CLOSE, ADOPT_IMAGE_LOADED and PROBE_PERIOD complete (R243, R249-R251, R260, R270): the manager sends BEAT in
every mode but SAFE, a census ends, an adopting spare loads its image, and a stranded device probes. -/
def Obligations.ResilienceTimersComplete : Prop := ∀ s : State, granted s.dev = true →
  (isMgr s.dev = true → mode s.dev ≠ 7 → exec .beatPeriod s = .next (setDev s (broadcast 0x12 5 (sysctl s.dev (myPos s.dev)
    (latest s.dev).2 ((latest s.dev).1 + getF s.dev TRV_STATUS_RESTORES * 2 ^ 32)) s.dev))) ∧
  (∀ c, s.dev.rs.census = some c → c.kind = 2 → role s.dev = 2 →
    let d := { s.dev with rs := { s.dev.rs with census := none } }
    exec .censusClose s = .next (settle (setDev s (if majority d c.replies
      then takeoverTry { d with rs := { d.rs with takeover := some c.replies } } else strandNow d)))) ∧
  (exec .adoptImageLoaded s = .next (settle (adoptLoaded s))) ∧
  (s.dev.md.stranded = true → exec .probePeriod s = .next (setDev s (each (upRopes s.dev) (fun k d =>
    sendOn k (mkFlit d 0x12 15 (getF d (LINK_RP_STAT_PEER k)) true
      (sysctl d (myPos d) (trvCount d) (getF d RES_STATUS_EPOCH))) d) s.dev)))

/-- HOST_MB_GO, HOST_MB_POP, HOST_PP_SQ_TAIL, HOST_PP_CQ_HEAD and HOST_PP_CQ_CFG complete (R280-R282): a GO submits the descriptor the
window holds, a POP takes the head record away, a doorbell submits the entries the port fetched, and the completion ring's writes
make room. -/
def Obligations.HostRingCommandsComplete : Prop := ∀ (s : State) (p : BitVec 2),
  (∀ v, writable s.dev (.port p) = true → v.getLsbD 0 = true → mailboxGo s.dev p.toNat = false →
    exec (.hostMbGo p v) s = .next (settle (setDev s (takeAll p.toNat (submit p.toNat false
      ((List.range 16).map fun i => sget (fun _ => 0#32) (portOf s.dev p.toNat).mb i) s.dev))))) ∧
  (∀ v, writable s.dev (.port p) = true → v.getLsbD 0 = true → exec (.hostMbPop p v) s = .next (settle (setDev s
    (roomMade p.toNat (setPort s.dev p.toNat { portOf s.dev p.toNat with fifo := (portOf s.dev p.toNat).fifo.drop 1 }))))) ∧
  (∀ a v fetched, writable s.dev a = true → fetched.length = ringNew s.dev p.toNat (v.toNat % 4096) →
    exec (.hostPpSqTail a p v fetched) s = .next (settle (setDev s (takeAll p.toNat
      (each fetched (submit p.toNat true) (setF s.dev (HOST_PP_SQ_TAIL_INDEX p.toNat) (v.toNat % 4096))))))) ∧
  (∀ a v, writable s.dev a = true → exec (.hostPpCqHead a p v) s = .next (settle (setDev s
    (roomMade p.toNat (setF s.dev (HOST_PP_CQ_HEAD_INDEX p.toNat) (v.toNat % 4096)))))) ∧
  (∀ a (v : Word), writable s.dev a = true →
    (v.toNat % 16 = 0 → exec (.hostPpCqCfg a p v) s = .next (settle (setDev s
      (roomMade p.toNat (setF s.dev (HOST_PP_CQ_CFG_SIZE_LOG2 p.toNat) 0))))) ∧
    (v.toNat % 16 ≠ 0 → ringSize (getF s.dev (HOST_PP_CQ_CFG_SIZE_LOG2 p.toNat)) = 0 →
      let d := setF s.dev (HOST_PP_CQ_CFG_SIZE_LOG2 p.toNat) (v.toNat % 16)
      exec (.hostPpCqCfg a p v) s = .next (settle (setDev s (roomMade p.toNat
        (setPort (setF (setF d (HOST_PP_CQ_HEAD_INDEX p.toNat) 0) (HOST_PP_CQ_TAIL_INDEX p.toNat) 0) p.toNat
          { portOf d p.toNat with phase := true }))))))

/-- PORT_RESET, PORT_LINK_UP, BAR2_READ and BAR2_WRITE complete (R273, R274, R276): a link that was down comes up with its source 8 + p; a
read gives the bytes of HBM; a write of at most one page outside the protected parts reaches HBM. -/
def Obligations.PartnerPortEventsComplete : Prop := ∀ (s : State) (p : BitVec 2),
  (∀ cause, alive s.dev = true → exec (.portReset p cause) s = .next (settle (setDev s (resetPort p.toNat cause s.dev)))) ∧
  (∀ (gen : BitVec 3) (width : BitVec 4), alive s.dev = true → flag s.dev (HOST_PP_STAT_LINK_UP p.toNat) = false →
    1 ≤ gen.toNat → gen.toNat ≤ 5 → [1, 4, 8].contains width.toNat = true →
    exec (.portLinkUp p gen width) s = .next (setDev s (irqEvent (8 + p.toNat) (setFlag (setF (setF
      (setFlag s.dev (HOST_PP_STAT_LINK_UP p.toNat) true) (HOST_PP_STAT_GEN p.toNat) gen.toNat)
      (HOST_PP_STAT_WIDTH p.toNat) width.toNat) (bitFld SYS_READY (12 + p.toNat)) true)))) ∧
  (∀ (addr : BitVec 37) (len : BitVec 13) bs s1, writable s.dev (.port p) = true →
    hbmRead addr.toNat len.toNat s = (.data bs, s1) →
    exec (.bar2Read p addr len) s = .next (settle (setDev s1 (emit (.readData p.toNat bs) s1.dev)))) ∧
  (∀ (addr : BitVec 37) data, writable s.dev (.port p) = true → addr.toNat < hbmSize → addr.toNat % 4096 + data.length ≤ 4096 →
    (protectedAt s.dev addr.toNat = false → exec (.bar2Write p addr data) s = .next (settle (hbmWrite addr.toNat data s))) ∧
    (protectedAt s.dev addr.toNat = true →
      exec (.bar2Write p addr data) s = .next (settle (setDev s (countF s.dev (whole HOST_BAR2_DROP) 1)))))

/-- STATUS, REG_READ, REG_WRITE, BELAY_COMMAND, COMMAND_SLICE and LOAD_COMPLETE complete (R25, R283, R288, R289): an accepted command
that this device's executor has takes its effect and ends with its record. -/
def Obligations.ExecutorCommandsComplete : Prop := ∀ (s : State) (r : CmdRef), granted s.dev = true →
  (∀ c, cmdFor s.dev r 0x01 = some c → exec (.status r) s = .next (settle (setDev s (statusCmd r c s.dev)))) ∧
  (∀ c, cmdFor s.dev r 0x02 = some c → exec (.regRead r) s = .next (settle (setDev s (regReadCmd r c s.dev)))) ∧
  (∀ c, cmdFor s.dev r 0x03 = some c → exec (.regWrite r) s = .next (settle (regWriteCmd r c s))) ∧
  (∀ c, cmdFor s.dev r 0x04 = some c →
    exec (.belayCommand r) s = .next (settle (setDev s (okCmd r [] (raiseFreeze 1 s.dev))))) ∧
  (∀ c, findCmd s.dev r = some c → opcodeOf c.desc ∈ [0x30, 0x31, 0x32, 0x33, 0x34] → c.slices < c.moved →
    exec (.commandSlice r) s =
      .next (setDev s (progress r c (onCmd r (fun c => { c with slices := c.slices + 1 }) s.dev)))) ∧
  (isMgr s.dev = true → mode s.dev = 2 → s.dev.md.trans = none → loadDone s.dev = true →
    exec .loadComplete s = .next (settle (setDev s (mgrMode 4 s.dev))))

/-- The mode commands LOAD, LOAD_ABORT, UNLOAD, RUN, STEP, FREEZE, RESUME, REPLAY and REPLAY_ABORT complete at the manager once accepted,
while their checks still hold and they have not begun (R25, R27, R82, R83, R216, R220, R283, R284, R287). -/
def Obligations.ModeCommandsComplete : Prop := ∀ (s : State) (r : CmdRef) (op : Nat) (c : Cmd), granted s.dev = true →
  cmdFor s.dev r op = some c → c.moved = 0 → ownChecks s.dev c.desc = 0 →
  let d := onCmd r (fun c => { c with moved := 1, slices := 1 }) s.dev
  (op = 0x10 → exec (.load r) s = .next (settle (setDev s (loadCmd r c d)))) ∧
  (op = 0x12 → exec (.loadAbort r) s = .next (settle (setDev s (abortLoad 15 [] (okCmd r [] d))))) ∧
  (op = 0x13 → exec (.unload r) s = .next (settle (setDev s (unloadCmd r d)))) ∧
  (op = 0x20 → leavesFreeze d = false → exec (.run r) s = .next (settle (setDev s (runCommand r c d)))) ∧
  (op = 0x21 → leavesFreeze d = false → exec (.step r) s = .next (settle (setDev s (stepCommand r c d)))) ∧
  (op = 0x22 → exec (.freeze r) s = .next (settle (setDev s (freezeCmd r d)))) ∧
  (op = 0x23 → canResume d = true → exec (.resume r) s = .next (settle (setDev s (resumeCmd r d)))) ∧
  (op = 0x24 → leavesFreeze d = false → replayErr d c.desc = 0 → exec (.replay r) s = .next (settle (setDev s (replayCmd r c.desc d)))) ∧
  (op = 0x25 → exec (.replayAbort r) s = .next (settle (setDev s (okCmd r [] (endReplay 6 d)))))

/-- MEM_READ, MEM_WRITE, FABRIC_READ, FABRIC_WRITE and TRACE_READ complete slice by slice (R283, R288): a range in its space moves its next
bytes, those of a write as the host gave them or as the manager forwarded them. -/
def Obligations.TransferCommandsComplete : Prop := ∀ (s : State) (r : CmdRef) (c : Cmd), granted s.dev = true →
  lengthOf c.desc ≠ 0 → let len := lengthOf c.desc
  (∀ x s1, cmdFor s.dev r 0x30 = some c → param2 c.desc 4 % 2 ^ 37 + len ≤ hbmSize →
    hbmSlice (param2 c.desc 4 % 2 ^ 37 + c.bytes) (sliceBytes r 1 (len - c.bytes)) s = (x, s1) → x.waits = false →
    exec (.memRead r) s = .next (settle (setDev s1 (readSlice r c len x s1.dev)))) ∧
  (∀ data bs, cmdFor s.dev r 0x31 = some c → param2 c.desc 4 % 2 ^ 37 + len ≤ hbmSize → writeData r c data s.dev = some bs →
    exec (.memWrite r data false) s =
      .next (settle (onDev (writeSlice r c bs.length) (hbmWrite (param2 c.desc 4 % 2 ^ 37 + c.bytes) bs s)))) ∧
  (∀ bs d, cmdFor s.dev r 0x32 = some c → fabricRange c.desc = true → let sp := param c.desc 4
    fabricItems sp (sliceBytes r (itemBytes sp) (len - c.bytes) / itemBytes sp) (param c.desc 5 + c.bytes / itemBytes sp) s.dev =
      (bs, false, d) →
    exec (.fabricRead r) s = .next (settle (setDev s (readSlice r c len ⟨bs, false, false⟩ d)))) ∧
  (∀ data bs, cmdFor s.dev r 0x33 = some c → fabricRange c.desc = true → writeData r c data s.dev = some bs →
    exec (.fabricWrite r data false) s = .next (settle (setDev s (writeSlice r c bs.length (each (dwordsOf bs).zipIdx
      (fun w d => writeItem (param c.desc 4) (param c.desc 5 + c.bytes / 8 + w.2) w.1 d) s.dev))))) ∧
  (∀ x s1, cmdFor s.dev r 0x34 = some c → let replay := param c.desc 4 == 1
    param2 c.desc 5 + len ≤ (if replay then getF s.dev VIS_RPL_AREA_SIZE_GIB * 2 ^ 30 - 2 ^ 24
      else getF s.dev VIS_TRACE_AREA_SIZE_GIB * 2 ^ 30) →
    hbmSlice ((if replay then get2 s.dev VIS_RPL_BASE_LO else get2 s.dev VIS_TRACE_BASE_LO) + param2 c.desc 5 + c.bytes)
      (sliceBytes r 1 (len - c.bytes)) s = (x, s1) → x.waits = false →
    exec (.traceRead r) s = .next (settle (setDev s1 (readSlice r c len x s1.dev))))

/-- LOAD_PART completes in LOAD (R287, R310): at the holder an image that passes its checks is loaded, and the command ends once the spare's
copy is stored (log row 40); the manager sends another partition's container to its holder. QUEUE_ATTACH completes (R294) for a
bound queue that is its requester's or has no owner left, and for a relayed queue at the manager. -/
def Obligations.LoadPartAndAttachComplete : Prop := ∀ (s : State) (r : CmdRef) (c : Cmd), granted s.dev = true →
  (∀ p t image im, r = .host p t → findCmd s.dev r = some c → opcodeOf c.desc = 0x11 → mode s.dev = 2 → c.moved = 0 →
    let part := param c.desc 4
    let bs := image.take (lengthOf c.desc)
    (holds s.dev = true → myPart s.dev = part → checkImage s.dev bs part s.dev.hs.noCheck none none s.dev.hs.relayQs.length
        (if isMgr s.dev then myPart s.dev else 1024) = .ok im →
      let s1 := loadImage im bs s
      let d := if isMgr s1.dev then { s1.dev with hs := { s1.dev.hs with loadN := im.n, loadBuild := im.build } } else s1.dev
      let d := onCmd r (fun x => { x with bytes := u64 bs 8, moved := 1 }) d
      exec (.loadPart r image false) s =
        .next (settle (setDev s1 (if copyStored d then partEnds r part (u64 bs 8) d else d)))) ∧
    (isMgr s.dev = true → myPart s.dev ≠ part → s.dev.hs.loadN ≠ 0 → mgrRefusal s.dev bs part = none →
      exec (.loadPart r image false) s = .next (settle (setDev s (loadThere r c.desc part bs s.dev))))) ∧
  (cmdFor s.dev r 0x40 = some c → let q := param c.desc 0 % 8192
    (bitOf (param c.desc 0) 31 = false → (qdesc s.dev q).bound = true →
      ((qdesc s.dev q).orphan = true ∨ (qdesc s.dev q).owner = attachOwner r s.dev) →
      exec (.queueAttach r) s = .next (settle (attachOwn r q s))) ∧
    (bitOf (param c.desc 0) 31 = true → isMgr s.dev = true → q < getF s.dev QUE_RCOUNT_COUNT →
      (rdesc s.dev q).owner = attachOwner r s.dev →
      exec (.queueAttach r) s = .next (settle (attachRelay r q (param2 c.desc 1) s))))

/-- CMD, CMD_RESP, BULK and TRACE complete where they are delivered (R209, R285, R286). -/
def Obligations.RelayFlitsComplete : Prop := ∀ (s : State) (rx : Rx),
  (∀ (rtag : BitVec 16) (part : BitVec 8) data, Delivered 0x10 0 rx s → part.toNat ≤ 2 → exec (.cmd rx rtag part data) s =
    .next (takes 0x10 0 rx (at8 8 rtag.toNat + at8 10 part.toNat + at8 12 data.toNat)
      (cmdIn rx.rope.toNat rx.dest.toNat rx.src.toNat (rtag.toNat % 256) part.toNat data) s)) ∧
  (∀ (rtag : BitVec 16) (part : BitVec 8) data, Delivered 0x11 0 rx s → part.toNat ≤ 1 → exec (.cmdResp rx rtag part data) s =
    .next (takes 0x11 0 rx (at8 8 rtag.toNat + at8 10 part.toNat + at8 12 data.toNat)
      (respIn rx.rope.toNat rx.dest.toNat rx.src.toNat (rtag.toNat % 256) part.toNat data) s)) ∧
  (∀ (kind : BitVec 2) (rtag : BitVec 8) (off : Word) data, let sub := kind.toNat + 4 * rtag.toNat
    Delivered 0x32 sub rx s → kind.toNat ≠ 3 → exec (.bulk rx kind rtag off data) s =
      .next (takes 0x32 sub rx (at8 8 off.toNat + at8 12 data.toNat)
        (bulkIn rx.rope.toNat rx.dest.toNat rx.src.toNat kind.toNat rtag.toNat off.toNat data) s)) ∧
  (∀ (src : BitVec 2) (tag : BitVec 8) (off : Word) data, let sub := src.toNat + 4 * tag.toNat
    Delivered 0x31 sub rx s → src.toNat ≠ 3 → exec (.trace rx src tag off data) s =
      .next (takes 0x31 sub rx (at8 8 off.toNat + at8 12 data.toNat)
        (traceIn rx.rope.toNat rx.dest.toNat rx.src.toNat src.toNat tag.toNat off.toNat data) s))

/-! ## Instructions of the guide cores complete, with their results -/

/-- MOV, ADD, ADC, SUB, SBC, CMP, AND, OR, XOR, TST and MUL complete, with the results and flags of R321, unless V is to trap (R325):
then see the statement on OVF. Both operands are read before the result is written. -/
def Obligations.RegisterClassComplete : Prop :=  ∀ (s s1 : State) (core : BitVec 5) (ext : List (BitVec 10)) (rd rs : BitVec 4),
  let g := coreOf s1.dev core.toNat
  let a := getW g rd.toNat
  let b := operandS g ext rs.toNat
  let f := flagsOf g.st
  let F := aluForm ext rd.toNat rs.toNat
  let FC := { F with readsFlags := true }
  let K := compareForm (rd.toNat :: readsS ext rs.toNat)
  let ends := fun fm r c v => doneBy core ext fm s s1 (retires core (writeResult rd.toNat r ⟨r == 0#32, r.msb, c, v⟩) s1)
  let sets := fun (r : Word) c v =>
    doneBy core ext K s s1 (retires core (fun g => { g with st := withFlags g.st ⟨r == 0#32, r.msb, c, v⟩ }) s1)
  let ovf := fun (r : Word) (exact : Int) => decide (r.toInt ≠ exact)
  let free := fun v : Bool => (g.st.getLsbD 7 && v) = false
  let cin := b2n f.c
  (Ready core ext (moveForm (readsS ext rs.toNat) rd.toNat) neverFull s s1 → exec (.mov core ext rd rs) s =
    .next (doneBy core ext (moveForm (readsS ext rs.toNat) rd.toNat) s s1 (retires core (putW rd.toNat b) s1))) ∧
  (Ready core ext F neverFull s s1 →
    (free (ovf (a + b) (a.toInt + b.toInt)) → exec (.add core ext rd rs) s =
      .next (ends F (a + b) (decide (2 ^ 32 ≤ a.toNat + b.toNat)) (ovf (a + b) (a.toInt + b.toInt)))) ∧
    (free (ovf (a - b) (a.toInt - b.toInt)) → exec (.sub core ext rd rs) s =
      .next (ends F (a - b) (decide (b.toNat ≤ a.toNat)) (ovf (a - b) (a.toInt - b.toInt)))) ∧
    exec (.and core ext rd rs) s = .next (ends F (a &&& b) f.c f.v) ∧
    exec (.or core ext rd rs) s = .next (ends F (a ||| b) f.c f.v) ∧
    exec (.xor core ext rd rs) s = .next (ends F (a ^^^ b) f.c f.v)) ∧
  (Ready core ext FC neverFull s s1 →
    (let r := BitVec.ofNat 32 (a.toNat + b.toNat + cin)
     let v := ovf r (a.toInt + b.toInt + cin)
     free v → exec (.adc core ext rd rs) s = .next (ends FC r (decide (2 ^ 32 ≤ a.toNat + b.toNat + cin)) v)) ∧
    (let r := BitVec.ofInt 32 (a.toInt - b.toInt - (1 - (cin : Int)))
     let v := ovf r (a.toInt - b.toInt - (1 - (cin : Int)))
     free v → exec (.sbc core ext rd rs) s = .next (ends FC r (decide (b.toNat + (1 - cin) ≤ a.toNat)) v))) ∧
  (Ready core ext K neverFull s s1 →
    exec (.cmp core ext rd rs) s = .next (sets (a - b) (decide (b.toNat ≤ a.toNat)) (ovf (a - b) (a.toInt - b.toInt))) ∧
    exec (.tst core ext rd rs) s = .next (sets (a &&& b) f.c f.v)) ∧
  (Ready core ext { F with mul := true } neverFull s s1 → free (ovf (a * b) (a.toInt * b.toInt)) →
    exec (.mul core ext rd rs) s = .next (ends { F with mul := true } (a * b) f.c (ovf (a * b) (a.toInt * b.toInt))))

/-- LSL, LSR and ASR by rs[7:0], and SHI by IMM6[4:0], complete with the results and the C of R322; V is unchanged. -/
def Obligations.ShiftInstructionsComplete : Prop :=  ∀ (s s1 : State) (core : BitVec 5) (ext : List (BitVec 10)) (rd : BitVec 4),
  let g := coreOf s1.dev core.toNat
  let a := getW g rd.toNat
  let f := flagsOf g.st
  let ends := fun fm r c => doneBy core ext fm s s1 (retires core (writeResult rd.toNat r ⟨r == 0#32, r.msb, c, f.v⟩) s1)
  (∀ rs : BitVec 4, let F := aluForm ext rd.toNat rs.toNat
    let n := (operandS g ext rs.toNat).toNat % 256
    Ready core ext F neverFull s s1 →
    (n = 0 → exec (.lsl core ext rd rs) s = .next (ends F a f.c) ∧ exec (.lsr core ext rd rs) s = .next (ends F a f.c) ∧
      exec (.asr core ext rd rs) s = .next (ends F a f.c)) ∧
    (1 ≤ n → n ≤ 31 → exec (.lsl core ext rd rs) s = .next (ends F (a <<< n) (a.getLsbD (32 - n))) ∧
      exec (.lsr core ext rd rs) s = .next (ends F (a >>> n) (a.getLsbD (n - 1))) ∧
      exec (.asr core ext rd rs) s = .next (ends F (a.sshiftRight n) (a.getLsbD (n - 1)))) ∧
    (32 ≤ n → exec (.lsl core ext rd rs) s = .next (ends F 0#32 (decide (n = 32) && a.getLsbD 0)) ∧
      exec (.lsr core ext rd rs) s = .next (ends F 0#32 (decide (n = 32) && a.msb)) ∧
      exec (.asr core ext rd rs) s = .next (ends F (if a.msb then 0xFFFFFFFF#32 else 0#32) a.msb))) ∧
  (∀ imm6 : BitVec 6, let F := { plainForm [rd.toNat] [rd.toNat] with prefixes := false }
    let n := imm6.toNat % 32
    Ready core ext F neverFull s s1 →
    (imm6.getLsbD 5 = false → exec (.shi core ext imm6 rd) s =
      .next (ends F (a <<< n) (if n = 0 then f.c else a.getLsbD (32 - n)))) ∧
    (imm6.getLsbD 5 = true → exec (.shi core ext imm6 rd) s =
      .next (ends F (a >>> n) (if n = 0 then f.c else a.getLsbD (n - 1)))))

/-- DIV and DIVU complete with the results and flags of R321 and R323: the quotient truncated toward zero, 0x80000000 and V for
0x80000000 by -1, what a division by zero writes while DZE is 0, and DIVZ through vector 5 with nothing written while it is 1. -/
def Obligations.DivisionInstructionsComplete : Prop :=  ∀ (s s1 : State) (core : BitVec 5) (ext : List (BitVec 10)) (rd rs : BitVec 4),
  let g := coreOf s1.dev core.toNat
  let a := getW g rd.toNat
  let b := operandS g ext rs.toNat
  let F := { aluForm ext rd.toNat rs.toNat with div := true }
  let ends := fun r v => doneBy core ext F s s1 (retires core (writeResult rd.toNat r ⟨r == 0#32, r.msb, false, v⟩) s1)
  Ready core ext F neverFull s s1 →
  (b ≠ 0#32 → exec (.divu core ext rd rs) s = .next (ends (BitVec.ofNat 32 (a.toNat / b.toNat)) false)) ∧
  (b ≠ 0#32 → (a ≠ 0x80000000#32 ∨ b ≠ 0xFFFFFFFF#32) →
    exec (.div core ext rd rs) s = .next (ends (BitVec.ofInt 32 (a.toInt.tdiv b.toInt)) false)) ∧
  (a = 0x80000000#32 → b = 0xFFFFFFFF#32 → g.st.getLsbD 7 = false →
    exec (.div core ext rd rs) s = .next (ends 0x80000000#32 true)) ∧
  (b = 0#32 → g.st.getLsbD 6 = false →
    let t := doneBy core ext F s s1 (retires core (writeResult rd.toNat 0#32 ⟨true, false, false, true⟩) s1)
    exec (.divu core ext rd rs) s = .next t ∧ (g.st.getLsbD 7 = false → exec (.div core ext rd rs) s = .next t)) ∧
  (b = 0#32 → g.st.getLsbD 6 = true →
    exec (.div core ext rd rs) s = .next (enter core.toNat 5 0 none (coreOf s.dev core.toNat).pc s1) ∧
    exec (.divu core ext rd rs) s = .next (enter core.toNat 5 0 none (coreOf s.dev core.toNat).pc s1))

/-- ADD, ADC, SUB, SBC, ADDI, MUL, DIV and NEG that would set V to 1 raise OVF while ST.OVE is 1 (R325): vector 6, the address of the instruction or of
its first prefix saved, and neither rd nor a flag written before the entry. -/
def Obligations.OverflowRaisesOvf : Prop :=  ∀ (s s1 : State) (core : BitVec 5) (ext : List (BitVec 10)) (rd rs : BitVec 4) (imm6 : BitVec 6),
  let g := coreOf s1.dev core.toNat
  let a := getW g rd.toNat
  let b := operandS g ext rs.toNat
  let i := extended ext 6 imm6.toNat
  let F := aluForm ext rd.toNat rs.toNat
  let traps := enter core.toNat 6 0 none (coreOf s.dev core.toNat).pc s1
  g.st.getLsbD 7 = true →
  (Ready core ext F neverFull s s1 → (a + b).toInt ≠ a.toInt + b.toInt → exec (.add core ext rd rs) s = .next traps) ∧
  (Ready core ext F neverFull s s1 → (a - b).toInt ≠ a.toInt - b.toInt → exec (.sub core ext rd rs) s = .next traps) ∧
  (Ready core ext { F with mul := true } neverFull s s1 → (a * b).toInt ≠ a.toInt * b.toInt →
    exec (.mul core ext rd rs) s = .next traps) ∧
  (Ready core ext (plainForm [rd.toNat] [rd.toNat]) neverFull s s1 → (a + i).toInt ≠ a.toInt + i.toInt →
    exec (.addi core ext imm6 rd) s = .next traps) ∧
  (Ready core ext (unaryForm rd.toNat true) neverFull s s1 → a = 0x80000000#32 → exec (.neg core ext rd) s = .next traps) ∧
  (Ready core ext { F with readsFlags := true } neverFull s s1 → let cin := b2n (flagsOf g.st).c
    ((BitVec.ofNat 32 (a.toNat + b.toNat + cin)).toInt ≠ a.toInt + b.toInt + cin → exec (.adc core ext rd rs) s = .next traps) ∧
    ((BitVec.ofInt 32 (a.toInt - b.toInt - (1 - (cin : Int)))).toInt ≠ a.toInt - b.toInt - (1 - (cin : Int)) →
      exec (.sbc core ext rd rs) s = .next traps)) ∧
  (Ready core ext { F with div := true } neverFull s s1 →
    ((a = 0x80000000#32 ∧ b = 0xFFFFFFFF#32) ∨ (b = 0#32 ∧ g.st.getLsbD 6 = false)) → exec (.div core ext rd rs) s = .next traps)

/-- MOVI, ADDI and CMPI complete (R320, R324), and NEG, NOT, SEXTB, SEXTH, ZEXTB, ZEXTH, CLZ and REV (R330). -/
def Obligations.ImmediateAndUnaryComplete : Prop :=  ∀ (s s1 : State) (core : BitVec 5) (ext : List (BitVec 10)) (rd : BitVec 4),
  let g := coreOf s1.dev core.toNat
  let a := getW g rd.toNat
  let f := flagsOf g.st
  let ends := fun fm r c v => doneBy core ext fm s s1 (retires core (writeResult rd.toNat r ⟨r == 0#32, r.msb, c, v⟩) s1)
  let ovf := fun (r : Word) (exact : Int) => decide (r.toInt ≠ exact)
  let free := fun v : Bool => (g.st.getLsbD 7 && v) = false
  let P := plainForm [rd.toNat] [rd.toNat]
  let U := unaryForm rd.toNat true
  let M := unaryForm rd.toNat false
  let moves := fun r => .next (doneBy core ext M s s1 (retires core (putW rd.toNat r) s1))
  (∀ imm6 : BitVec 6, let i := extended ext 6 imm6.toNat
    let cmpFlags : Flags := ⟨a == i, (a - i).msb, decide (i.toNat ≤ a.toNat), ovf (a - i) (a.toInt - i.toInt)⟩
    (Ready core ext (moveForm [] rd.toNat) neverFull s s1 → exec (.movi core ext imm6 rd) s =
      .next (doneBy core ext (moveForm [] rd.toNat) s s1 (retires core (putW rd.toNat i) s1))) ∧
    (Ready core ext P neverFull s s1 → free (ovf (a + i) (a.toInt + i.toInt)) → exec (.addi core ext imm6 rd) s =
      .next (ends P (a + i) (decide (2 ^ 32 ≤ a.toNat + i.toNat)) (ovf (a + i) (a.toInt + i.toInt)))) ∧
    (Ready core ext (compareForm [rd.toNat]) neverFull s s1 → exec (.cmpi core ext imm6 rd) s =
      .next (doneBy core ext (compareForm [rd.toNat]) s s1 (retires core (fun g => { g with st := withFlags g.st cmpFlags }) s1)))) ∧
  (Ready core ext U neverFull s s1 →
    (free (a == 0x80000000#32) →
      exec (.neg core ext rd) s = .next (ends U (0#32 - a) (decide (a = 0#32)) (a == 0x80000000#32))) ∧
    exec (.not core ext rd) s = .next (ends U (~~~a) f.c f.v)) ∧
  (Ready core ext M neverFull s s1 →
    exec (.sextb core ext rd) s = moves (BitVec.ofInt 32 (a.setWidth 8).toInt) ∧
    exec (.sexth core ext rd) s = moves (BitVec.ofInt 32 (a.setWidth 16).toInt) ∧
    exec (.zextb core ext rd) s = moves (a &&& 0xFF#32) ∧
    exec (.zexth core ext rd) s = moves (a &&& 0xFFFF#32) ∧
    (∀ n, n ≤ 32 → (∀ j, j < n → a.getLsbD (31 - j) = false) → (n < 32 → a.getLsbD (31 - n) = true) →
      exec (.clz core ext rd) s = moves (BitVec.ofNat 32 n)) ∧
    exec (.rev core ext rd) s = moves (BitVec.ofNat 32
      (a.toNat / 2 ^ 24 + a.toNat / 2 ^ 16 % 256 * 2 ^ 8 + a.toNat / 2 ^ 8 % 256 * 2 ^ 16 + a.toNat % 256 * 2 ^ 24)))

/-- LD, ST, PUSH, POP, LL, SC and SYNC complete (R326, R327, R330, R331): an access that no watchpoint and no DATA exception stops. A
load's bytes reach its registers after the base update; a store is in the store buffer, or goes to a register once it has retired;
LL, SC and SYNC wait for an empty store buffer. -/
def Obligations.MemoryInstructionsComplete : Prop :=  ∀ (s s1 : State) (core : BitVec 5) (ext : List (BitVec 10)),
  let c := core.toNat
  let g := coreOf s1.dev c
  (∀ (size : BitVec 2) p (rd rb : BitVec 4), let b := getW g rb.toNat
    let at_ := (memAddr b ext).toNat
    let newBase := fun g => if p then putW rb.toNat (baseAfter b ext size.toNat) g else g
    let L := loadForm size.toNat p rd.toNat rb.toNat
    let S := storeForm size.toNat p rd.toNat rb.toNat
    let bytes := storeBytes g size.toNat rd.toNat
    (∀ bs later s2, Ready core ext L neverFull s s1 → watchHit s1.dev c at_ (sizeBytes size.toNat) false = none →
      loadData c at_ (sizeBytes size.toNat) s1 = (.data bs later, s2) → exec (.ld core ext size p rd rb) s =
        .next (doneBy core ext L s s1 (retires core (fun g => landData (dataRegs size.toNat rd.toNat) bs later (newBase g)) s2))) ∧
    (∀ s2, Ready core ext S neverFull s s1 → watchHit s1.dev c at_ bytes.length true = none →
      (storeData c at_ bytes s1 = (.buffered, s2) →
        exec (.st core ext size p rd rb) s = .next (doneBy core ext S s s1 (retires core newBase s2))) ∧
      (storeData c at_ bytes s1 = (.register, s2) → exec (.st core ext size p rd rb) s =
        .next (doneBy core ext S s s1 (.retireThen (onDev (onCore c newBase) s2) (storeControl c at_ bytes)))))) ∧
  (∀ (rs : BitVec 4) s2, let S := sysMemForm [15, rs.toNat] [15]
    let sp := getW g 15 - 4
    Ready core ext S neverFull s s1 → watchHit s1.dev c sp.toNat 4 true = none →
    storeData c sp.toNat (bytesOf 4 (getW g rs.toNat).toNat) s1 = (.buffered, s2) →
    exec (.push core ext rs) s = .next (doneBy core ext S s s1 (retires core (putW 15 sp) s2))) ∧
  (∀ (rd : BitVec 4) bs later s2, let S := sysMemForm [15] [15, rd.toNat]
    let sp := getW g 15
    Ready core ext S neverFull s s1 → watchHit s1.dev c sp.toNat 4 false = none →
    loadData c sp.toNat 4 s1 = (.data bs later, s2) → exec (.pop core ext rd) s =
      .next (doneBy core ext S s s1 (retires core (fun g => landData [rd.toNat] bs later (putW 15 (sp + 4) g)) s2))) ∧
  (∀ (rd : BitVec 4) bs later s2, let S := sysMemForm [rd.toNat] [rd.toNat]
    let a := (getW g rd.toNat).toNat
    Ready core ext S neverFull s s1 → g.sbuf = [] → a % 4 = 0 → areaOf a ≠ none → areaOf a ≠ some .control →
    watchHit s1.dev c a 4 false = none → loadData c a 4 s1 = (.data bs later, s2) → exec (.ll core ext rd) s =
      .next (doneBy core ext S s s1 (retires core
        (fun g => { landData [rd.toNat] bs later g with resv := some (transferOf s1.dev c a) }) s2))) ∧
  (∀ rs : BitVec 4, let S := { sysMemForm [rs.toNat] [] with setsFlags := true }
    let fin := fun z (g : GCore) => { g with resv := none, st := withFlags g.st { flagsOf g.st with z := z } }
    Ready core ext S neverFull s s1 → g.sbuf = [] →
    (g.resv = none → exec (.sc core ext rs) s = .next (doneBy core ext S s s1 (retires core (fin false) s1))) ∧
    (∀ ta, g.resv = some ta → watchHit s1.dev c (dataOf s1.dev c ta) 4 true = none → exec (.sc core ext rs) s =
      .next (doneBy core ext S s s1 (retires core (fin true) (storeNow c ta (bytesOf 4 (getW g rs.toNat).toNat) s1))))) ∧
  (Ready core ext (sysForm 0) neverFull s s1 → g.sbuf = [] →
    exec (.sync core ext 0) s = .next (doneBy core ext (sysForm 0) s s1 (.retire s1)))

/-- BRANCH, JMP, CALL, NOP, JR, CALLR, LOOP and BREAKL complete (R328-R330, R332, R338): a branch goes to A + 1 + disp when its condition
holds; CALL and CALLR link A + 1; LOOP skips its body for a count of 0 and else starts the next level; BREAKL leaves one. -/
def Obligations.ControlInstructionsComplete : Prop :=  ∀ (s s1 : State) (core : BitVec 5) (ext : List (BitVec 10)),
  let c := core.toNat
  let g := coreOf s1.dev c
  let f := flagsOf g.st
  let a := instrAt core ext s
  (∀ (cond : BitVec 4) (d6 : BitVec 6), let predicted := predictTaken s.dev (coreOf s.dev c) c a
    let F := { plainForm [] [] with readsFlags := true, setsFlags := false, branch := true, ends := predicted, bad := cond == 15 }
    let taken := [f.z, !f.z, !f.c, f.c, !f.c || f.z, f.c && !f.z, f.n != f.v, f.n == f.v, f.z || f.n != f.v, !f.z && f.n == f.v,
      f.n, !f.n, f.v, !f.v, true].getD cond.toNat false
    let s2 := onDev (fun d => countMiss c (predictTaken s1.dev g c a != taken) (train c a taken d)) s1
    Ready core ext F neverFull s s1 →
    (taken = true → exec (.branch core ext cond d6) s = .next (doneBy core ext F s s1 (.goto (a + 1 + disp ext 6 d6.toNat) s2))) ∧
    (taken = false → exec (.branch core ext cond d6) s = .next (doneBy core ext F s s1 (.retire s2)))) ∧
  (∀ d9 : BitVec 9,
    (Ready core ext (jumpForm [] []) neverFull s s1 → exec (.jmp core ext d9) s =
      .next (doneBy core ext (jumpForm [] []) s s1 (.goto (a + 1 + disp ext 9 d9.toNat) s1))) ∧
    (Ready core ext (jumpForm [] [14]) neverFull s s1 → exec (.call core ext d9) s =
      .next (doneBy core ext (jumpForm [] [14]) s s1 (.goto (a + 1 + disp ext 9 d9.toNat) (onDev (linkCall c a) s1))))) ∧
  (let F := { sysForm 0 with sys := false }
   Ready core ext F neverFull s s1 → exec (.nop core ext 0) s = .next (doneBy core ext F s s1 (.retire s1))) ∧
  (∀ rs : BitVec 4, let t := (getW g rs.toNat).setWidth 20
    (let F := { sysForm 0 with reads := [rs.toNat] }
     Ready core ext F neverFull s s1 →
      (rs ≠ 14 ∨ detMode s1.dev c = true ∨ g.ras = [] →
        exec (.jr core ext rs) s = .next (doneBy core ext F s s1 (.goto t s1))) ∧
      (∀ x r, rs = 14 → detMode s1.dev c = false → g.ras = x :: r → exec (.jr core ext rs) s = .next (doneBy core ext F s s1
        (.goto t (onDev (if x = t then onCore c (fun g => { g with ras := r }) else countMiss c true) s1))))) ∧
    (let F := { sysForm 0 with reads := [rs.toNat], writes := [14] }
     Ready core ext F neverFull s s1 →
      exec (.callr core ext rs) s = .next (doneBy core ext F s s1 (.goto t (onDev (linkCall c a) s1))))) ∧
  (∀ rc : BitVec 4, let len := prefixValue ext
    let n := getW g rc.toNat
    let d := loopDepth g
    let F := { sysForm 0 with prefixes := true, reads := [rc.toNat], illegal := if len == 0 then some 2 else none }
    Ready core ext F (fun g => loopDepth g == 4 && getW g rc.toNat != 0#32) s s1 →
    (n = 0#32 → exec (.loop core ext rc) s = .next (doneBy core ext F s s1 (.goto (a + 1 + BitVec.ofNat 20 len) s1))) ∧
    (n ≠ 0#32 → exec (.loop core ext rc) s = .next (doneBy core ext F s s1 (.goto (a + 1) (onDev (onCore c fun g => { g with
      ls := sset (fun _ => 0#20) g.ls d (a + 1)
      le := sset (fun _ => 0#20) g.le d (a + BitVec.ofNat 20 len)
      lc := sset (fun _ => 0#32) g.lc d n
      st := withDepth g.st (d + 1) }) s1))))) ∧
  (Ready core ext (sysForm 0) neverFull s s1 → exec (.breakl core ext 0) s = .next (doneBy core ext (sysForm 0) s s1
    (.goto (a + 1) (onDev (onCore c fun g => { g with st := withDepth g.st (loopDepth g - 1) }) s1))))

/-- XRET, TRAP, BKPT, WAIT, MTS, MFS and ILLEGAL complete (R317, R330, R334, R348, R441). XRET restores PC and ST from the supervisor
stack; TRAP enters vector 7 with A + 1; BKPT is the debug event; the word 0x3FFF enters vector 2 with DETAIL 0. -/
def Obligations.SystemInstructionsComplete : Prop :=  ∀ (s s1 : State) (core : BitVec 5) (ext : List (BitVec 10)),
  let c := core.toNat
  let g := coreOf s1.dev c
  let g0 := coreOf s.dev c
  (∀ ret st s2, let F := { sysForm 0 with reads := [15], illegal := if supervisor g0 then none else some 1 }
    Ready core ext F neverFull s s1 → stackOk g.ssp = true → g.ssp.toNat + 8 ≤ 0x20000 →
    readFrame c g.ssp.toNat s1 = (some (some (ret, st)), s2) → exec (.xret core ext 0) s =
      .next (doneBy core ext F s s1 (.goto (ret.setWidth 20) (onDev (fun d =>
        let d' := setCore d c { unload 16 (coreOf d c) with
          ssp := g.ssp + 8, st := cutSt st, resv := none, nmi := if (coreOf d c).nmi == some g.ssp then none else (coreOf d c).nmi }
        if (coreOf d c).monitor == some g.ssp then leaveMonitor c d' else d') s2)))) ∧
  (∀ n : BitVec 4, Ready core ext (sysForm 0) neverFull s s1 →
    exec (.trap core ext n) s = .next (enter c 7 n.toNat none (instrAt core ext s + 1) s1) ∧
    (g.monitor = none → exec (.bkpt core ext n) s = .next (debugEvent c 1 0 n.toNat s1)) ∧
    (g.monitor ≠ none → exec (.bkpt core ext n) s = .next (doneBy core ext (sysForm 0) s s1
      (.retire (setDev s1 (setFlag s1.dev (DBG_CORE_STAT_NESTED c) true)))))) ∧
  (Ready core ext (sysForm 0) neverFull s s1 →
    (awakens s1.dev c = true → exec (.wait core ext 0) s = .next (doneBy core ext (sysForm 0) s s1 (.retire s1))) ∧
    (awakens s1.dev c = false → exec (.wait core ext 0) s =
      .next (doneBy core ext (sysForm 0) s s1 (retires core (fun g => { g with waiting := true }) s1)))) ∧
  (∀ sr rs : BitVec 4, let F := { srForm g0 sr.toNat with reads := [rs.toNat] }
    Ready core ext F neverFull s s1 → exec (.mts core ext sr rs) s =
      .next (doneBy core ext F s s1 (.retireThen s1 (onDev (onCore c (setSr sr.toNat (getW g rs.toNat))))))) ∧
  (∀ sr rd : BitVec 4, let F := { srForm g0 sr.toNat with writes := [rd.toNat] }
    Ready core ext F neverFull s s1 → (sr ≠ 1 ∨ (g.loads.any fun l => l.regs.any fun x => x.1 == 15) = false) →
    exec (.mfs core ext sr rd) s =
      .next (doneBy core ext F s s1 (retires core (putW rd.toNat (getSr g sr.toNat)) s1))) ∧
  (Fetches core ext { sysForm 0 with illegal := some 0 } s s1 → ext.length < 4 →
    exec (.illegal core ext) s = .next (enter c 2 0 none g0.pc s1))

/-! ## Rules of the whole machine, frames and what one operation does -/

/-- A step takes the command at the front of the queue and runs it with the rest of the queue waiting; on an empty queue one tick of
TBCLK passes, in a module that has the clock (the model's choice: log row 2). -/
def Obligations.StepRunsTheFrontCommand : Prop :=  (∀ (c : Instr) (r : List Instr) (s : State), s.pending = c :: r → step s = exec c { s with pending := r }) ∧
  (∀ s : State, s.pending = [] → (alive s.dev && s.dev.pw.tbclk) = false → step s = .next s) ∧
  (∀ s : State, s.pending = [] → (alive s.dev && s.dev.pw.tbclk) = true →
    ∃ t, step s = .next t ∧
      (s.dev.par.streamTo = none → t.dev.ticks = s.dev.ticks + 1 ∧ t.pending = [] ∧ t.mem = s.mem))

/-- What reset leaves: no command waits, HBM reads 0, every guide core has its general registers, stack pointers and loop registers at
0 and ST with S and DZE set (R316, R317), and every register of the control space has its reset value. -/
def Obligations.ResetLeavesResetValues : Prop :=  MemOk State.reset ∧ State.reset.pending = [] ∧ (∀ a, hbmByte State.reset.mem a = 0#8) ∧
  (∀ (core : BitVec 5) (r : BitVec 4), let g := coreOf State.reset.dev core.toNat
    getW g r.toNat = 0#32 ∧ g.usp = 0#32 ∧ g.ssp = 0#32 ∧ g.st = 0x50#32 ∧ g.cause = 0#32 ∧ g.faddr = 0#32 ∧ g.resv = none ∧
    (∀ sr : BitVec 4, 4 ≤ sr.toNat → getSr g sr.toNat = 0#32)) ∧
  (∀ off, getR State.reset.dev off = regReset off) ∧ getR State.reset.dev SYS_ID = 0x4B4E9600#32

/-- Every step from any state whose HBM is in its canonical form leaves it so: addresses rise, and no listed byte is 0. -/
def Obligations.EveryStepKeepsMemory : Prop := ∀ s t : State, MemOk s → step s = .next t → MemOk t

/-- A command's effect never touches the queue of waiting commands. -/
def Obligations.CommandsLeaveTheQueue : Prop := ∀ (c : Instr) (s t : State), exec c s = .next t → t.pending = s.pending

/-- In a module without VAUX, held in RESET_N or cut off at 120 degrees, only the supply and reset pins and the TAP have an effect
(R297, R435): every other command leaves the whole state. -/
def Obligations.DeadModuleKeepsItsState : Prop := ∀ (c : Instr) (s : State), alive s.dev = false →
  exec c s = .next s ∨ c = .vinGood ∨ c = .refclkDetected ∨ c = .resetN ∨ c = .resetNRelease ∨ c = .vauxFirstGood ∨ c = .vauxLoss ∨
    (∃ b good, c = .vioChange b good) ∨ c = .tapReset ∨ c = .extest ∨ c = .idcode ∨ (∃ pins, c = .samplePreload pins) ∨
    c = .clamp ∨ c = .highz ∨ c = .bypass ∨ ∃ request, c = .dapacc request

/-- While a debug halt stands (R442), guide cores issue nothing, take no interrupt or NMI, and the fabric, DMA, Float, flits and the
command executor stand still: these commands leave the whole state. -/
def Obligations.DebugHaltStopsEngines : Prop := ∀ s : State, flag s.dev DBG_HALT_HALTED = true →
  ∀ (core : BitVec 5) ext (rd rs : BitVec 4) (imm6 : BitVec 6) (imm9 : BitVec 9) (size : BitVec 2) p (ch : BitVec 4) (tile : BitVec 8)
    (r : CmdRef) (rx : Rx) (v : DWord) (k : Nat) (line : BitVec 15),
  ∀ c ∈ [.mov core ext rd rs, .add core ext rd rs, .adc core ext rd rs, .sub core ext rd rs, .sbc core ext rd rs, .cmp core ext rd rs,
      .and core ext rd rs, .or core ext rd rs, .xor core ext rd rs, .tst core ext rd rs, .lsl core ext rd rs, .lsr core ext rd rs,
      .asr core ext rd rs, .mul core ext rd rs, .div core ext rd rs, .divu core ext rd rs, .movi core ext imm6 rd,
      .addi core ext imm6 rd, .cmpi core ext imm6 rd, .shi core ext imm6 rd, .ld core ext size p rd rs, .st core ext size p rd rs,
      .branch core ext rd imm6, .jmp core ext imm9, .call core ext imm9, .nop core ext rd, .jr core ext rs, .callr core ext rs,
      .xret core ext rd, .trap core ext rd, .bkpt core ext rd, .wait core ext rd, .loop core ext rd, .breakl core ext rd,
      .ll core ext rd, .sc core ext rs, .push core ext rs, .pop core ext rd, .sync core ext rd, .neg core ext rd, .not core ext rd,
      .mts core ext rs rd, .mfs core ext rs rd, .sextb core ext rd, .sexth core ext rd, .zextb core ext rd, .zexth core ext rd,
      .clz core ext rd, .rev core ext rd, .illegal core ext, .extint core, .nmi, .dataLoadReturn core, .programCacheFill core line,
      .storeBufferDrain core, .dmaComplete ch, .floatComplete, .park core, .unpark core, .traverseBegin tile, .tileStep tile,
      .tileNetworkArrival k, .traverseEnd tile, .hold rx, .high rx v, .stop rx v, .arrived rx v, .feeder rx, .request rx,
      .reply rx v, .status r, .regRead r, .regWrite r, .belayCommand r, .load r, .loadAbort r, .unload r, .run r, .step r,
      .freeze r, .resume r, .replay r, .replayAbort r, .memRead r, .fabricRead r, .traceRead r, .queueAttach r, .commandSlice r],
    exec c s = .next s

/-- No state and no operand ends a run but a reserved encoding of R334: a branch with COND 15, a pair with odd RD, and an OPD other than
0 where 0 is required. Every other command goes on in every state. -/
def Obligations.OrdinaryCommandsGoOn : Prop := ∀ (c : Instr) (s : State),
  (∀ core ext d6, c ≠ .branch core ext 15 d6) →
  (∀ core ext p (rd rb : BitVec 4), rd.toNat % 2 = 1 → c ≠ .ld core ext 3 p rd rb ∧ c ≠ .st core ext 3 p rd rb) →
  (∀ core ext (opd : BitVec 4), opd ≠ 0 → c ≠ .nop core ext opd ∧ c ≠ .xret core ext opd ∧ c ≠ .wait core ext opd ∧
    c ≠ .breakl core ext opd ∧ c ≠ .sync core ext opd) →
  GoesOn (exec c s)

/-- The reserved encodings of R334, whose results the spec leaves undefined, stop by name once they are fetched without an earlier
exception: COND 15, a pair with odd RD, and a nonzero OPD of NOP, XRET in supervisor mode, WAIT, BREAKL and SYNC. -/
def Obligations.ReservedEncodingsStop : Prop := ∀ (s s1 : State) (core : BitVec 5) (ext : List (BitVec 10)), ext.length < 4 →
  let g := coreOf s.dev core.toNat
  (∀ d6, let predicted := predictTaken s.dev g core.toNat (instrAt core ext s)
    let F := { plainForm [] [] with readsFlags := true, setsFlags := false, branch := true, ends := predicted, bad := true }
    Fetches core ext F s s1 →
      exec (.branch core ext 15 d6) s = .fault .reservedEncoding) ∧
  (∀ p (rd rb : BitVec 4), rd.toNat % 2 = 1 →
    (Fetches core ext (loadForm 3 p rd.toNat rb.toNat) s s1 → exec (.ld core ext 3 p rd rb) s = .fault .reservedEncoding) ∧
    (Fetches core ext (storeForm 3 p rd.toNat rb.toNat) s s1 → exec (.st core ext 3 p rd rb) s = .fault .reservedEncoding)) ∧
  (∀ opd : BitVec 4, opd ≠ 0 → ext = [] →
    (Fetches core ext { sysForm opd.toNat with sys := false } s s1 →
      exec (.nop core ext opd) s = .fault .reservedEncoding) ∧
    (Fetches core ext { sysForm opd.toNat with reads := [15], illegal := none } s s1 → supervisor g = true →
      exec (.xret core ext opd) s = .fault .reservedEncoding) ∧
    (Fetches core ext (sysForm opd.toNat) s s1 →
      exec (.wait core ext opd) s = .fault .reservedEncoding ∧ exec (.breakl core ext opd) s = .fault .reservedEncoding ∧
      exec (.sync core ext opd) s = .fault .reservedEncoding))

/-- A claim selects among the eligible sources of the core the highest priority and, among equals, the lowest number; it returns
both, marks the source active with its priority and clears its pending bit; with none eligible it returns NONE and changes
nothing; a no-side-effect read returns the same number and claims nothing (R356). -/
def Obligations.ClaimSelectsHighestPriority : Prop := ∀ (s : State) (a : Agent) (c : BitVec 5), writable s.dev a = true →
  let prio := fun x => getF s.dev (ICU_SRC_PRIO x)
  (∃ x, 1 ≤ x ∧ x < 512 ∧ eligible s.dev c.toNat x = true ∧
    (∀ y, 1 ≤ y → y < 512 → eligible s.dev c.toNat y = true → prio y < prio x ∨ (prio y = prio x ∧ x ≤ y)) ∧
    exec (.claim a true c) s = .next (setDev s { s.dev with busRead := BitVec.ofNat 32 (x + prio x * 2 ^ 12) }) ∧
    ∃ t, exec (.claim a false c) s = .next t ∧ t.mem = s.mem ∧ t.dev.busRead = BitVec.ofNat 32 (x + prio x * 2 ^ 12) ∧
      t.dev.icu.active = s.dev.icu.active ++ [(x, c.toNat, prio x)] ∧
      (∀ y, sget (fun _ => false) t.dev.icu.pend y = (sget (fun _ => false) s.dev.icu.pend y && y != x)) ∧
      t.dev = { s.dev with busRead := t.dev.busRead, icu := t.dev.icu }) ∨
  ((∀ y, 1 ≤ y → y < 512 → eligible s.dev c.toNat y = false) ∧
    ∀ nse, exec (.claim a nse c) s = .next (setDev s { s.dev with busRead := 0x80000000#32 }))

/-- The loop-end action of R333, shown by a NOP that retires with no step armed: away from a loop end the PC is A + 1; at the end of the
innermost level the count falls and the loop start follows while it is not 0; with the count at 0 the level ends, and an outer
level with the same end follows. -/
def Obligations.LoopEndDecidesThePc : Prop := ∀ (s s1 : State) (core : BitVec 5),
  let c := core.toNat
  let g := coreOf s1.dev c
  let a := (coreOf s.dev c).pc
  let le := fun i => sget (fun _ => 0#20) g.le i
  let lc := fun i => sget (fun _ => 0#32) g.lc i
  let ls := fun i => sget (fun _ => 0#20) g.ls i
  let n := loopDepth g
  Ready core [] { sysForm 0 with sys := false } neverFull s s1 → stepping s1.dev c = false → g.pc = a → n ≤ 4 →
  ∃ t, exec (.nop core [] 0) s = .next t ∧ t.mem = s1.mem ∧ let g' := coreOf t.dev c
    ((n = 0 ∨ le (n - 1) ≠ a) → g'.pc = a + 1 ∧ g'.lc = g.lc ∧ loopDepth g' = n) ∧
    (1 ≤ n → le (n - 1) = a → lc (n - 1) ≠ 1#32 →
      g'.pc = ls (n - 1) ∧ loopDepth g' = n ∧ ∀ i, sget (fun _ => 0#32) g'.lc i = if i = n - 1 then lc i - 1 else lc i) ∧
    (1 ≤ n → le (n - 1) = a → lc (n - 1) = 1#32 → (n = 1 ∨ le (n - 2) ≠ a) →
      g'.pc = a + 1 ∧ loopDepth g' = n - 1 ∧ ∀ i, sget (fun _ => 0#32) g'.lc i = if i = n - 1 then 0#32 else lc i) ∧
    (2 ≤ n → le (n - 1) = a → lc (n - 1) = 1#32 → le (n - 2) = a → lc (n - 2) ≠ 1#32 →
      g'.pc = ls (n - 2) ∧ loopDepth g' = n - 1 ∧ sget (fun _ => 0#32) g'.lc (n - 2) = lc (n - 2) - 1)

/-- What a register or immediate class instruction, or a system operation that computes, leaves unchanged when it retires with no step
armed: HBM, the queue, every other guide core, every register of its own but its destination, the exception registers, the loop
starts and ends, ST but its flags and loop depth, and the control space but the counts of retired and paired instructions. MOV,
MOVI and the extensions leave the flags too; CMP, TST and CMPI leave every register. -/
def Obligations.ComputingInstructionFrame : Prop :=  ∀ (s s1 t : State) (core : BitVec 5) (ext : List (BitVec 10)) (rd rs : BitVec 4) (imm6 : BitVec 6),
  let c := core.toNat
  let g := coreOf s1.dev c
  let F := aluForm ext rd.toNat rs.toNat
  let M := unaryForm rd.toNat false
  let moves : List (Instr × Form) := [(.mov core ext rd rs, moveForm (readsS ext rs.toNat) rd.toNat),
    (.movi core ext imm6 rd, moveForm [] rd.toNat), (.sextb core ext rd, M), (.sexth core ext rd, M), (.zextb core ext rd, M),
    (.zexth core ext rd, M), (.clz core ext rd, M), (.rev core ext rd, M)]
  let compares : List (Instr × Form) := [(.cmp core ext rd rs, compareForm (rd.toNat :: readsS ext rs.toNat)),
    (.tst core ext rd rs, compareForm (rd.toNat :: readsS ext rs.toNat)), (.cmpi core ext imm6 rd, compareForm [rd.toNat])]
  let computes : List (Instr × Form) := [(.add core ext rd rs, F), (.sub core ext rd rs, F), (.and core ext rd rs, F),
    (.or core ext rd rs, F), (.xor core ext rd rs, F), (.lsl core ext rd rs, F), (.lsr core ext rd rs, F), (.asr core ext rd rs, F),
    (.adc core ext rd rs, { F with readsFlags := true }), (.sbc core ext rd rs, { F with readsFlags := true }),
    (.mul core ext rd rs, { F with mul := true }), (.div core ext rd rs, { F with div := true }),
    (.divu core ext rd rs, { F with div := true }), (.addi core ext imm6 rd, plainForm [rd.toNat] [rd.toNat]),
    (.shi core ext imm6 rd, { plainForm [rd.toNat] [rd.toNat] with prefixes := false }),
    (.neg core ext rd, unaryForm rd.toNat true), (.not core ext rd, unaryForm rd.toNat true)]
  ∀ x ∈ moves ++ compares ++ computes, Ready core ext x.2 neverFull s s1 → stepping s1.dev c = false → exec x.1 s = .next t →
  t = enter c 6 0 none (coreOf s.dev c).pc s1 ∨ t = enter c 5 0 none (coreOf s.dev c).pc s1 ∨
  (t.mem = s1.mem ∧ t.pending = s1.pending ∧ t.dev = { s1.dev with regs := t.dev.regs, gc := t.dev.gc } ∧
   (∀ off, off ≠ GCORE_RETIRED c → off ≠ GCORE_PAIRED c → getR t.dev off = getR s1.dev off) ∧
   (∀ k, k ≠ c → coreOf t.dev k = coreOf s1.dev k) ∧
   let g' := coreOf t.dev c
   (∀ h, h ≠ homeOf g rd.toNat ∨ x ∈ compares → getHome g' h = getHome g h) ∧
   g'.cause = g.cause ∧ g'.faddr = g.faddr ∧ g'.ls = g.ls ∧ g'.le = g.le ∧ g'.resv = g.resv ∧ g'.sbuf = g.sbuf ∧ g'.nmi = g.nmi ∧
   g'.monitor = g.monitor ∧ g'.locked = g.locked ∧ g'.halted = g.halted ∧ g'.pred = g.pred ∧ g'.ras = g.ras ∧ g'.ic = g.ic ∧
   g'.dc = g.dc ∧ (∀ j, (4 ≤ j ∨ x ∈ moves) → (j < 8 ∨ 10 < j) → g'.st.getLsbD j = g.st.getLsbD j))

/-- Exception entry as TRAP n takes it (R318, R348, R349), with room in the store buffer: ST goes to SSP - 4 and A + 1 to SSP - 8 through
the store buffer, SSP falls by 8, CAUSE holds vector 7 and n, FADDR stays, the reservation ends, ST gets S = 1, IE = 0, LD = 0 and
keeps the rest, and the core goes to program word 56. The other registers, HBM and the other cores stay. -/
def Obligations.TrapEntersVectorSeven : Prop := ∀ (s s1 : State) (core : BitVec 5) (n : BitVec 4),
  let c := core.toNat
  let g := coreOf s1.dev c
  Ready core [] (sysForm 0) neverFull s s1 → stackOk g.ssp = true → g.sbuf.length ≤ 6 → g.loads = [] → progBad s1.dev c 56 = false →
  ∃ t, exec (.trap core [] n) s = .next t ∧ t.mem = s1.mem ∧ (∀ k, k ≠ c → coreOf t.dev k = coreOf s1.dev k) ∧
    t.dev.regs = s1.dev.regs ∧ let g' := coreOf t.dev c
    g'.ssp = g.ssp - 8 ∧ g'.usp = g.usp ∧ g'.w = g.w ∧ g'.cause = BitVec.ofNat 32 (7 + 16 * n.toNat) ∧ g'.faddr = g.faddr ∧
    g'.resv = none ∧ g'.st.getLsbD 4 = true ∧ g'.st.getLsbD 5 = false ∧ loopDepth g' = 0 ∧
    (∀ j, j ≠ 4 → j ≠ 5 → (j < 8 ∨ 10 < j) → g'.st.getLsbD j = g.st.getLsbD j) ∧ g'.pc = 56#20 ∧ g'.lc = g.lc ∧
    g'.sbuf = g.sbuf ++ [⟨localBase c + g.ssp.toNat - 4, bytesOf 4 g.st.toNat⟩,
      ⟨localBase c + g.ssp.toNat - 8, bytesOf 4 ((coreOf s.dev c).pc + 1).toNat⟩]

/-- STORE_BUFFER_DRAIN of an HBM store outside the memory region changes exactly the bytes of the store from its address on, and one of a
store to the Screed or a local SRAM changes no HBM byte (R149, R345). -/
def Obligations.DrainWritesItsBytesOnly : Prop := ∀ (s : State) (c : BitVec 5) e r, granted s.dev = true →
  (coreOf s.dev c.toNat).sbuf = e :: r →
  (regionOf e.at_ = some 0 → hostRegion s.dev ≤ e.at_ → e.bytes ≠ [] → e.at_ + e.bytes.length ≤ hbmSize →
    ∃ t, exec (.storeBufferDrain c) s = .next t ∧ (coreOf t.dev c.toNat).sbuf = r ∧
      ∀ b, hbmByte t.mem b =
        if e.at_ ≤ b ∧ b < e.at_ + e.bytes.length then e.bytes.getD (b - e.at_) 0 else hbmByte s.mem b) ∧
  (∀ n, regionOf e.at_ = some (n + 1) →
    ∃ t, exec (.storeBufferDrain c) s = .next t ∧ (coreOf t.dev c.toNat).sbuf = r ∧ t.mem = s.mem)

/-- The commands of timers, pins, interrupts, mailboxes and parking, and the TAP's, leave HBM, the Faces' state, the Screed, the local
SRAMs and the queues untouched (R352-R389, R435-R437). -/
def Obligations.PeripheralCommandsLeaveMemory : Prop :=  ∀ (s t : State) (a : Agent) (c : BitVec 5) (n : BitVec 4) (k : BitVec 1) (v : Word) (pin : BitVec 6) (x : BitVec 9) (b nse : Bool)
    (edge : Option Bool) (p : Pulse) (pins : BitVec 225) (request : BitVec 80),
  ∀ i ∈ [.countTick n, .tmrCountLatch a n, .capture n k edge, .tmrCapRead a nse n k, .alarmArm a v, .alarm, .gpioPinWrite a pin v,
      .gpioSet a b v, .gpioClr a b v, .pulseEnd p, .glitchFilter pin b, .claim a nse c, .complete a c v, .swi a v, .clrpend a x v,
      .disable a v, .mbxRxRelease a c v, .park c, .unpark c, .tapReset, .extest, .idcode, .samplePreload pins,
      .clamp, .highz, .bypass, .dapacc request], exec i s = .next t →
    t.mem = s.mem ∧ t.dev.fab = s.dev.fab ∧ t.dev.screed = s.dev.screed ∧ t.dev.dsram = s.dev.dsram ∧ t.dev.qu = s.dev.qu
end

