-- ==== Sys2Proof/Laws/Store.lean ====
section
/-! SUPPORT. Laws of the sparse arrays: what a read finds after a write, and that every operation keeps the canonical form. -/

namespace Sys2Proof.Machine

/-- Keys rise strictly. -/
abbrev rising {α : Type} (st : Store α) : Prop := st.Pairwise fun a b => a.1 < b.1

theorem swf_iff {α : Type} [DecidableEq α] (dflt : Nat → α) (st : Store α) :
    swf dflt st = true ↔ rising st ∧ ∀ e ∈ st, e.2 ≠ dflt e.1 := by
  simp [swf]

theorem swf_nil {α : Type} [DecidableEq α] (dflt : Nat → α) : swf dflt [] = true := rfl

/-- A read of a key that is not listed. -/
theorem sget_unlisted {α : Type} (dflt : Nat → α) (st : Store α) (k : Nat) (h : ∀ e ∈ st, e.1 ≠ k) :
    sget dflt st k = dflt k := by
  induction st with
  | nil => rfl
  | cons e r ih =>
    have he : e.1 ≠ k := h e (by simp)
    simp only [sget, he, if_false]
    exact ih fun x hx => h x (by simp [hx])

theorem mem_sdel {α : Type} (st : Store α) (k : Nat) (e : Nat × α) : e ∈ sdel st k ↔ e ∈ st ∧ e.1 ≠ k := by
  induction st with
  | nil => simp [sdel]
  | cons x r ih =>
    simp only [sdel]
    split
    · rename_i hx
      rw [ih, List.mem_cons]
      constructor
      · exact fun h => ⟨Or.inr h.1, h.2⟩
      · rintro ⟨rfl | h, hk⟩
        · exact absurd hx hk
        · exact ⟨h, hk⟩
    · rename_i hx
      rw [List.mem_cons, ih, List.mem_cons]
      constructor
      · rintro (rfl | h)
        · exact ⟨Or.inl rfl, hx⟩
        · exact ⟨Or.inr h.1, h.2⟩
      · rintro ⟨rfl | h, hk⟩
        · exact Or.inl rfl
        · exact Or.inr ⟨h, hk⟩

theorem rising_sdel {α : Type} (st : Store α) (k : Nat) (h : rising st) : rising (sdel st k) := by
  induction st with
  | nil => exact h
  | cons x r ih =>
    have hr := List.pairwise_cons.mp h
    simp only [sdel]
    split
    · exact ih hr.2
    · refine List.pairwise_cons.mpr ⟨fun e he => hr.1 e ((mem_sdel r k e).mp he).1, ih hr.2⟩

theorem mem_sins {α : Type} (st : Store α) (k : Nat) (v : α) (e : Nat × α) : e ∈ sins st k v ↔ e = (k, v) ∨ e ∈ st := by
  induction st with
  | nil => simp [sins]
  | cons x r ih =>
    simp only [sins]
    split
    · simp
    · rw [List.mem_cons, ih, List.mem_cons]
      constructor
      · rintro (rfl | rfl | h)
        · exact Or.inr (Or.inl rfl)
        · exact Or.inl rfl
        · exact Or.inr (Or.inr h)
      · rintro (rfl | rfl | h)
        · exact Or.inr (Or.inl rfl)
        · exact Or.inl rfl
        · exact Or.inr (Or.inr h)

theorem rising_sins {α : Type} (st : Store α) (k : Nat) (v : α) (h : rising st) (hk : ∀ e ∈ st, e.1 ≠ k) :
    rising (sins st k v) := by
  induction st with
  | nil => simp [sins, rising]
  | cons x r ih =>
    have hr := List.pairwise_cons.mp h
    have hx : x.1 ≠ k := hk x (by simp)
    simp only [sins]
    split
    · rename_i hlt
      refine List.pairwise_cons.mpr ⟨fun e he => ?_, h⟩
      rcases List.mem_cons.mp he with rfl | he
      · exact hlt
      · exact Nat.lt_trans hlt (hr.1 e he)
    · rename_i hge
      refine List.pairwise_cons.mpr ⟨fun e he => ?_, ih hr.2 fun e he => hk e (by simp [he])⟩
      rcases (mem_sins r k v e).mp he with rfl | he
      · show x.1 < k
        exact Nat.lt_of_le_of_ne (Nat.le_of_not_lt hge) hx
      · exact hr.1 e he

theorem sget_sins {α : Type} (dflt : Nat → α) (st : Store α) (k : Nat) (v : α) (hk : ∀ e ∈ st, e.1 ≠ k) (j : Nat) :
    sget dflt (sins st k v) j = if k = j then v else sget dflt st j := by
  induction st with
  | nil => simp [sins, sget]
  | cons x r ih =>
    have hx : x.1 ≠ k := hk x (by simp)
    have ih := ih fun e he => hk e (by simp [he])
    simp only [sins]
    split
    · simp [sget]
    · simp only [sget, ih]
      by_cases h1 : x.1 = j
      · have : k ≠ j := fun h => hx (h1.trans h.symm)
        simp [h1, this]
      · simp [h1]

theorem sget_sdel {α : Type} (dflt : Nat → α) (st : Store α) (k j : Nat) :
    sget dflt (sdel st k) j = if k = j then dflt j else sget dflt st j := by
  induction st with
  | nil => simp [sdel, sget]
  | cons x r ih =>
    simp only [sdel]
    split
    · rename_i hx
      rw [ih]
      by_cases h : k = j
      · simp [h]
      · simp [h, sget, hx]
    · rename_i hx
      simp only [sget, ih]
      by_cases h : x.1 = j
      · have : k ≠ j := fun e => hx (h.trans e.symm)
        simp [h, this]
      · simp [h]

/-- What a read finds after a write: the value at the written key, and the old one at every other key. -/
theorem sget_sset {α : Type} [DecidableEq α] (dflt : Nat → α) (st : Store α) (k : Nat) (v : α) (j : Nat) :
    sget dflt (sset dflt st k v) j = if k = j then v else sget dflt st j := by
  unfold sset
  split
  · rename_i hv
    rw [sget_sdel]
    by_cases h : k = j
    · subst h
      simp [hv]
    · simp [h]
  · rw [sget_sins _ _ _ _ fun e he => ((mem_sdel st k e).mp he).2, sget_sdel]
    by_cases h : k = j
    · simp [h]
    · simp [h]

@[simp] theorem sget_sset_same {α : Type} [DecidableEq α] (dflt : Nat → α) (st : Store α) (k : Nat) (v : α) :
    sget dflt (sset dflt st k v) k = v := by simp [sget_sset]

theorem sget_sset_other {α : Type} [DecidableEq α] (dflt : Nat → α) (st : Store α) (k : Nat) (v : α) (j : Nat) (h : k ≠ j) :
    sget dflt (sset dflt st k v) j = sget dflt st j := by simp [sget_sset, h]

theorem swf_sdel {α : Type} [DecidableEq α] (dflt : Nat → α) (st : Store α) (k : Nat) (h : swf dflt st = true) :
    swf dflt (sdel st k) = true := by
  rw [swf_iff] at h ⊢
  exact ⟨rising_sdel st k h.1, fun e he => h.2 e ((mem_sdel st k e).mp he).1⟩

/-- A write keeps the canonical form. -/
theorem swf_sset {α : Type} [DecidableEq α] (dflt : Nat → α) (st : Store α) (k : Nat) (v : α) (h : swf dflt st = true) :
    swf dflt (sset dflt st k v) = true := by
  have hd := swf_sdel dflt st k h
  unfold sset
  split
  · exact hd
  · rename_i hv
    rw [swf_iff] at hd ⊢
    have hk : ∀ e ∈ sdel st k, e.1 ≠ k := fun e he => ((mem_sdel st k e).mp he).2
    refine ⟨rising_sins _ k v hd.1 hk, fun e he => ?_⟩
    rcases (mem_sins _ k v e).mp he with rfl | he
    · exact hv
    · exact hd.2 e he

/-- Writes of consecutive values keep the canonical form. -/
theorem swf_sputs {α : Type} [DecidableEq α] (dflt : Nat → α) (vs : List α) :
    ∀ (st : Store α) (lo : Nat), swf dflt st = true → swf dflt (sputs dflt st lo vs) = true := by
  induction vs with
  | nil => exact fun st lo h => h
  | cons v r ih => exact fun st lo h => ih _ (lo + 1) (swf_sset dflt st lo v h)

/-- Clearing a range keeps the canonical form. -/
theorem swf_sclear {α : Type} [DecidableEq α] (dflt : Nat → α) (st : Store α) (lo n : Nat) (h : swf dflt st = true) :
    swf dflt (sclear st lo n) = true := by
  rw [swf_iff] at h ⊢
  exact ⟨List.Pairwise.filter _ h.1, fun e he => h.2 e (List.mem_filter.mp he).1⟩

/-- What a read finds after a range is cleared. -/
theorem sget_sclear {α : Type} (dflt : Nat → α) (st : Store α) (lo n k : Nat) :
    sget dflt (sclear st lo n) k = if lo ≤ k ∧ k < lo + n then dflt k else sget dflt st k := by
  induction st with
  | nil => simp [sclear, sget]
  | cons x r ih =>
    unfold sclear at ih ⊢
    simp only [List.filter_cons]
    split
    · rename_i hx
      simp only [Bool.not_eq_true', Bool.and_eq_false_iff, decide_eq_false_iff_not] at hx
      simp only [sget, ih]
      by_cases h : x.1 = k
      · have : ¬(lo ≤ k ∧ k < lo + n) := by subst h; omega
        simp [h, this]
      · simp [h]
    · rename_i hx
      simp only [Bool.not_eq_true', Bool.and_eq_false_iff, decide_eq_false_iff_not] at hx
      rw [ih]
      by_cases h : lo ≤ k ∧ k < lo + n
      · simp [h]
      · have : x.1 ≠ k := by intro e; subst e; omega
        simp [h, sget, this]

/-- What a read finds after consecutive values are written. -/
theorem sget_sputs {α : Type} [DecidableEq α] (dflt : Nat → α) (vs : List α) :
    ∀ (st : Store α) (lo k : Nat), sget dflt (sputs dflt st lo vs) k =
      if lo ≤ k ∧ k < lo + vs.length then vs.getD (k - lo) (dflt k) else sget dflt st k := by
  induction vs with
  | nil => intro st lo k; simp only [sputs, List.length_nil]; split
           · omega
           · rfl
  | cons v r ih =>
    intro st lo k
    simp only [sputs, ih, List.length_cons]
    by_cases h : lo + 1 ≤ k ∧ k < lo + 1 + r.length
    · have h2 : lo ≤ k ∧ k < lo + (r.length + 1) := by omega
      have h3 : k - lo = (k - (lo + 1)) + 1 := by omega
      simp [h, h2, h3]
    · rw [if_neg h, sget_sset]
      by_cases h2 : lo = k
      · subst h2; simp
      · have h4 : ¬(lo ≤ k ∧ k < lo + (r.length + 1)) := by omega
        rw [if_neg h2, if_neg h4]

end Sys2Proof.Machine
end

