-- ==== Sys2Proof/Laws/State.lean ====
section
/-! SUPPORT. One lemma per field of the module for each update of Machine/Ops.lean, and the laws of registers and cores. -/

namespace Sys2Proof.Machine

@[simp] theorem onDev_dev (f : Dev → Dev) (s : State) : (onDev f s).dev = f s.dev := rfl
@[simp] theorem onDev_mem (f : Dev → Dev) (s : State) : (onDev f s).mem = s.mem := rfl
@[simp] theorem onDev_pending (f : Dev → Dev) (s : State) : (onDev f s).pending = s.pending := rfl

@[simp] theorem setR_inForce (d : Dev) (off : Nat) (v : Word) : (setR d off v).inForce = d.inForce := rfl
@[simp] theorem setR_llOver (d : Dev) (off : Nat) (v : Word) : (setR d off v).llOver = d.llOver := rfl
@[simp] theorem setR_hiShadow (d : Dev) (off : Nat) (v : Word) : (setR d off v).hiShadow = d.hiShadow := rfl
@[simp] theorem setR_busRead (d : Dev) (off : Nat) (v : Word) : (setR d off v).busRead = d.busRead := rfl
@[simp] theorem setR_pw (d : Dev) (off : Nat) (v : Word) : (setR d off v).pw = d.pw := rfl
@[simp] theorem setR_md (d : Dev) (off : Nat) (v : Word) : (setR d off v).md = d.md := rfl
@[simp] theorem setR_fab (d : Dev) (off : Nat) (v : Word) : (setR d off v).fab = d.fab := rfl
@[simp] theorem setR_tv (d : Dev) (off : Nat) (v : Word) : (setR d off v).tv = d.tv := rfl
@[simp] theorem setR_lk (d : Dev) (off : Nat) (v : Word) : (setR d off v).lk = d.lk := rfl
@[simp] theorem setR_par (d : Dev) (off : Nat) (v : Word) : (setR d off v).par = d.par := rfl
@[simp] theorem setR_ck (d : Dev) (off : Nat) (v : Word) : (setR d off v).ck = d.ck := rfl
@[simp] theorem setR_jr (d : Dev) (off : Nat) (v : Word) : (setR d off v).jr = d.jr := rfl
@[simp] theorem setR_qu (d : Dev) (off : Nat) (v : Word) : (setR d off v).qu = d.qu := rfl
@[simp] theorem setR_vs (d : Dev) (off : Nat) (v : Word) : (setR d off v).vs = d.vs := rfl
@[simp] theorem setR_cn (d : Dev) (off : Nat) (v : Word) : (setR d off v).cn = d.cn := rfl
@[simp] theorem setR_rs (d : Dev) (off : Nat) (v : Word) : (setR d off v).rs = d.rs := rfl
@[simp] theorem setR_wk (d : Dev) (off : Nat) (v : Word) : (setR d off v).wk = d.wk := rfl
@[simp] theorem setR_hs (d : Dev) (off : Nat) (v : Word) : (setR d off v).hs = d.hs := rfl
@[simp] theorem setR_pins (d : Dev) (off : Nat) (v : Word) : (setR d off v).pins = d.pins := rfl
@[simp] theorem setR_icu (d : Dev) (off : Nat) (v : Word) : (setR d off v).icu = d.icu := rfl
@[simp] theorem setR_tm (d : Dev) (off : Nat) (v : Word) : (setR d off v).tm = d.tm := rfl
@[simp] theorem setR_gc (d : Dev) (off : Nat) (v : Word) : (setR d off v).gc = d.gc := rfl
@[simp] theorem setR_psram (d : Dev) (off : Nat) (v : Word) : (setR d off v).psram = d.psram := rfl
@[simp] theorem setR_dsram (d : Dev) (off : Nat) (v : Word) : (setR d off v).dsram = d.dsram := rfl
@[simp] theorem setR_screed (d : Dev) (off : Nat) (v : Word) : (setR d off v).screed = d.screed := rfl
@[simp] theorem setR_mbx (d : Dev) (off : Nat) (v : Word) : (setR d off v).mbx = d.mbx := rfl
@[simp] theorem setR_mbxFull (d : Dev) (off : Nat) (v : Word) : (setR d off v).mbxFull = d.mbxFull := rfl
@[simp] theorem setR_vid (d : Dev) (off : Nat) (v : Word) : (setR d off v).vid = d.vid := rfl
@[simp] theorem setR_aud (d : Dev) (off : Nat) (v : Word) : (setR d off v).aud = d.aud := rfl
@[simp] theorem setR_path (d : Dev) (off : Nat) (v : Word) : (setR d off v).path = d.path := rfl
@[simp] theorem setR_dbg (d : Dev) (off : Nat) (v : Word) : (setR d off v).dbg = d.dbg := rfl
@[simp] theorem setR_ecc (d : Dev) (off : Nat) (v : Word) : (setR d off v).ecc = d.ecc := rfl
@[simp] theorem setR_nvm (d : Dev) (off : Nat) (v : Word) : (setR d off v).nvm = d.nvm := rfl
@[simp] theorem setR_out (d : Dev) (off : Nat) (v : Word) : (setR d off v).out = d.out := rfl
@[simp] theorem setR_ticks (d : Dev) (off : Nat) (v : Word) : (setR d off v).ticks = d.ticks := rfl
@[simp] theorem setR_free (d : Dev) (off : Nat) (v : Word) : (setR d off v).free = d.free := rfl

@[simp] theorem setF_inForce (d : Dev) (f : Fld) (v : Nat) : (setF d f v).inForce = d.inForce := rfl
@[simp] theorem setF_llOver (d : Dev) (f : Fld) (v : Nat) : (setF d f v).llOver = d.llOver := rfl
@[simp] theorem setF_hiShadow (d : Dev) (f : Fld) (v : Nat) : (setF d f v).hiShadow = d.hiShadow := rfl
@[simp] theorem setF_busRead (d : Dev) (f : Fld) (v : Nat) : (setF d f v).busRead = d.busRead := rfl
@[simp] theorem setF_pw (d : Dev) (f : Fld) (v : Nat) : (setF d f v).pw = d.pw := rfl
@[simp] theorem setF_md (d : Dev) (f : Fld) (v : Nat) : (setF d f v).md = d.md := rfl
@[simp] theorem setF_fab (d : Dev) (f : Fld) (v : Nat) : (setF d f v).fab = d.fab := rfl
@[simp] theorem setF_tv (d : Dev) (f : Fld) (v : Nat) : (setF d f v).tv = d.tv := rfl
@[simp] theorem setF_lk (d : Dev) (f : Fld) (v : Nat) : (setF d f v).lk = d.lk := rfl
@[simp] theorem setF_par (d : Dev) (f : Fld) (v : Nat) : (setF d f v).par = d.par := rfl
@[simp] theorem setF_ck (d : Dev) (f : Fld) (v : Nat) : (setF d f v).ck = d.ck := rfl
@[simp] theorem setF_jr (d : Dev) (f : Fld) (v : Nat) : (setF d f v).jr = d.jr := rfl
@[simp] theorem setF_qu (d : Dev) (f : Fld) (v : Nat) : (setF d f v).qu = d.qu := rfl
@[simp] theorem setF_vs (d : Dev) (f : Fld) (v : Nat) : (setF d f v).vs = d.vs := rfl
@[simp] theorem setF_cn (d : Dev) (f : Fld) (v : Nat) : (setF d f v).cn = d.cn := rfl
@[simp] theorem setF_rs (d : Dev) (f : Fld) (v : Nat) : (setF d f v).rs = d.rs := rfl
@[simp] theorem setF_wk (d : Dev) (f : Fld) (v : Nat) : (setF d f v).wk = d.wk := rfl
@[simp] theorem setF_hs (d : Dev) (f : Fld) (v : Nat) : (setF d f v).hs = d.hs := rfl
@[simp] theorem setF_pins (d : Dev) (f : Fld) (v : Nat) : (setF d f v).pins = d.pins := rfl
@[simp] theorem setF_icu (d : Dev) (f : Fld) (v : Nat) : (setF d f v).icu = d.icu := rfl
@[simp] theorem setF_tm (d : Dev) (f : Fld) (v : Nat) : (setF d f v).tm = d.tm := rfl
@[simp] theorem setF_gc (d : Dev) (f : Fld) (v : Nat) : (setF d f v).gc = d.gc := rfl
@[simp] theorem setF_psram (d : Dev) (f : Fld) (v : Nat) : (setF d f v).psram = d.psram := rfl
@[simp] theorem setF_dsram (d : Dev) (f : Fld) (v : Nat) : (setF d f v).dsram = d.dsram := rfl
@[simp] theorem setF_screed (d : Dev) (f : Fld) (v : Nat) : (setF d f v).screed = d.screed := rfl
@[simp] theorem setF_mbx (d : Dev) (f : Fld) (v : Nat) : (setF d f v).mbx = d.mbx := rfl
@[simp] theorem setF_mbxFull (d : Dev) (f : Fld) (v : Nat) : (setF d f v).mbxFull = d.mbxFull := rfl
@[simp] theorem setF_vid (d : Dev) (f : Fld) (v : Nat) : (setF d f v).vid = d.vid := rfl
@[simp] theorem setF_aud (d : Dev) (f : Fld) (v : Nat) : (setF d f v).aud = d.aud := rfl
@[simp] theorem setF_path (d : Dev) (f : Fld) (v : Nat) : (setF d f v).path = d.path := rfl
@[simp] theorem setF_dbg (d : Dev) (f : Fld) (v : Nat) : (setF d f v).dbg = d.dbg := rfl
@[simp] theorem setF_ecc (d : Dev) (f : Fld) (v : Nat) : (setF d f v).ecc = d.ecc := rfl
@[simp] theorem setF_nvm (d : Dev) (f : Fld) (v : Nat) : (setF d f v).nvm = d.nvm := rfl
@[simp] theorem setF_out (d : Dev) (f : Fld) (v : Nat) : (setF d f v).out = d.out := rfl
@[simp] theorem setF_ticks (d : Dev) (f : Fld) (v : Nat) : (setF d f v).ticks = d.ticks := rfl
@[simp] theorem setF_free (d : Dev) (f : Fld) (v : Nat) : (setF d f v).free = d.free := rfl

@[simp] theorem setFlag_inForce (d : Dev) (f : Fld) (b : Bool) : (setFlag d f b).inForce = d.inForce := rfl
@[simp] theorem setFlag_llOver (d : Dev) (f : Fld) (b : Bool) : (setFlag d f b).llOver = d.llOver := rfl
@[simp] theorem setFlag_hiShadow (d : Dev) (f : Fld) (b : Bool) : (setFlag d f b).hiShadow = d.hiShadow := rfl
@[simp] theorem setFlag_busRead (d : Dev) (f : Fld) (b : Bool) : (setFlag d f b).busRead = d.busRead := rfl
@[simp] theorem setFlag_pw (d : Dev) (f : Fld) (b : Bool) : (setFlag d f b).pw = d.pw := rfl
@[simp] theorem setFlag_md (d : Dev) (f : Fld) (b : Bool) : (setFlag d f b).md = d.md := rfl
@[simp] theorem setFlag_fab (d : Dev) (f : Fld) (b : Bool) : (setFlag d f b).fab = d.fab := rfl
@[simp] theorem setFlag_tv (d : Dev) (f : Fld) (b : Bool) : (setFlag d f b).tv = d.tv := rfl
@[simp] theorem setFlag_lk (d : Dev) (f : Fld) (b : Bool) : (setFlag d f b).lk = d.lk := rfl
@[simp] theorem setFlag_par (d : Dev) (f : Fld) (b : Bool) : (setFlag d f b).par = d.par := rfl
@[simp] theorem setFlag_ck (d : Dev) (f : Fld) (b : Bool) : (setFlag d f b).ck = d.ck := rfl
@[simp] theorem setFlag_jr (d : Dev) (f : Fld) (b : Bool) : (setFlag d f b).jr = d.jr := rfl
@[simp] theorem setFlag_qu (d : Dev) (f : Fld) (b : Bool) : (setFlag d f b).qu = d.qu := rfl
@[simp] theorem setFlag_vs (d : Dev) (f : Fld) (b : Bool) : (setFlag d f b).vs = d.vs := rfl
@[simp] theorem setFlag_cn (d : Dev) (f : Fld) (b : Bool) : (setFlag d f b).cn = d.cn := rfl
@[simp] theorem setFlag_rs (d : Dev) (f : Fld) (b : Bool) : (setFlag d f b).rs = d.rs := rfl
@[simp] theorem setFlag_wk (d : Dev) (f : Fld) (b : Bool) : (setFlag d f b).wk = d.wk := rfl
@[simp] theorem setFlag_hs (d : Dev) (f : Fld) (b : Bool) : (setFlag d f b).hs = d.hs := rfl
@[simp] theorem setFlag_pins (d : Dev) (f : Fld) (b : Bool) : (setFlag d f b).pins = d.pins := rfl
@[simp] theorem setFlag_icu (d : Dev) (f : Fld) (b : Bool) : (setFlag d f b).icu = d.icu := rfl
@[simp] theorem setFlag_tm (d : Dev) (f : Fld) (b : Bool) : (setFlag d f b).tm = d.tm := rfl
@[simp] theorem setFlag_gc (d : Dev) (f : Fld) (b : Bool) : (setFlag d f b).gc = d.gc := rfl
@[simp] theorem setFlag_psram (d : Dev) (f : Fld) (b : Bool) : (setFlag d f b).psram = d.psram := rfl
@[simp] theorem setFlag_dsram (d : Dev) (f : Fld) (b : Bool) : (setFlag d f b).dsram = d.dsram := rfl
@[simp] theorem setFlag_screed (d : Dev) (f : Fld) (b : Bool) : (setFlag d f b).screed = d.screed := rfl
@[simp] theorem setFlag_mbx (d : Dev) (f : Fld) (b : Bool) : (setFlag d f b).mbx = d.mbx := rfl
@[simp] theorem setFlag_mbxFull (d : Dev) (f : Fld) (b : Bool) : (setFlag d f b).mbxFull = d.mbxFull := rfl
@[simp] theorem setFlag_vid (d : Dev) (f : Fld) (b : Bool) : (setFlag d f b).vid = d.vid := rfl
@[simp] theorem setFlag_aud (d : Dev) (f : Fld) (b : Bool) : (setFlag d f b).aud = d.aud := rfl
@[simp] theorem setFlag_path (d : Dev) (f : Fld) (b : Bool) : (setFlag d f b).path = d.path := rfl
@[simp] theorem setFlag_dbg (d : Dev) (f : Fld) (b : Bool) : (setFlag d f b).dbg = d.dbg := rfl
@[simp] theorem setFlag_ecc (d : Dev) (f : Fld) (b : Bool) : (setFlag d f b).ecc = d.ecc := rfl
@[simp] theorem setFlag_nvm (d : Dev) (f : Fld) (b : Bool) : (setFlag d f b).nvm = d.nvm := rfl
@[simp] theorem setFlag_out (d : Dev) (f : Fld) (b : Bool) : (setFlag d f b).out = d.out := rfl
@[simp] theorem setFlag_ticks (d : Dev) (f : Fld) (b : Bool) : (setFlag d f b).ticks = d.ticks := rfl
@[simp] theorem setFlag_free (d : Dev) (f : Fld) (b : Bool) : (setFlag d f b).free = d.free := rfl

@[simp] theorem countF_inForce (d : Dev) (f : Fld) (n : Nat) : (countF d f n).inForce = d.inForce := rfl
@[simp] theorem countF_llOver (d : Dev) (f : Fld) (n : Nat) : (countF d f n).llOver = d.llOver := rfl
@[simp] theorem countF_hiShadow (d : Dev) (f : Fld) (n : Nat) : (countF d f n).hiShadow = d.hiShadow := rfl
@[simp] theorem countF_busRead (d : Dev) (f : Fld) (n : Nat) : (countF d f n).busRead = d.busRead := rfl
@[simp] theorem countF_pw (d : Dev) (f : Fld) (n : Nat) : (countF d f n).pw = d.pw := rfl
@[simp] theorem countF_md (d : Dev) (f : Fld) (n : Nat) : (countF d f n).md = d.md := rfl
@[simp] theorem countF_fab (d : Dev) (f : Fld) (n : Nat) : (countF d f n).fab = d.fab := rfl
@[simp] theorem countF_tv (d : Dev) (f : Fld) (n : Nat) : (countF d f n).tv = d.tv := rfl
@[simp] theorem countF_lk (d : Dev) (f : Fld) (n : Nat) : (countF d f n).lk = d.lk := rfl
@[simp] theorem countF_par (d : Dev) (f : Fld) (n : Nat) : (countF d f n).par = d.par := rfl
@[simp] theorem countF_ck (d : Dev) (f : Fld) (n : Nat) : (countF d f n).ck = d.ck := rfl
@[simp] theorem countF_jr (d : Dev) (f : Fld) (n : Nat) : (countF d f n).jr = d.jr := rfl
@[simp] theorem countF_qu (d : Dev) (f : Fld) (n : Nat) : (countF d f n).qu = d.qu := rfl
@[simp] theorem countF_vs (d : Dev) (f : Fld) (n : Nat) : (countF d f n).vs = d.vs := rfl
@[simp] theorem countF_cn (d : Dev) (f : Fld) (n : Nat) : (countF d f n).cn = d.cn := rfl
@[simp] theorem countF_rs (d : Dev) (f : Fld) (n : Nat) : (countF d f n).rs = d.rs := rfl
@[simp] theorem countF_wk (d : Dev) (f : Fld) (n : Nat) : (countF d f n).wk = d.wk := rfl
@[simp] theorem countF_hs (d : Dev) (f : Fld) (n : Nat) : (countF d f n).hs = d.hs := rfl
@[simp] theorem countF_pins (d : Dev) (f : Fld) (n : Nat) : (countF d f n).pins = d.pins := rfl
@[simp] theorem countF_icu (d : Dev) (f : Fld) (n : Nat) : (countF d f n).icu = d.icu := rfl
@[simp] theorem countF_tm (d : Dev) (f : Fld) (n : Nat) : (countF d f n).tm = d.tm := rfl
@[simp] theorem countF_gc (d : Dev) (f : Fld) (n : Nat) : (countF d f n).gc = d.gc := rfl
@[simp] theorem countF_psram (d : Dev) (f : Fld) (n : Nat) : (countF d f n).psram = d.psram := rfl
@[simp] theorem countF_dsram (d : Dev) (f : Fld) (n : Nat) : (countF d f n).dsram = d.dsram := rfl
@[simp] theorem countF_screed (d : Dev) (f : Fld) (n : Nat) : (countF d f n).screed = d.screed := rfl
@[simp] theorem countF_mbx (d : Dev) (f : Fld) (n : Nat) : (countF d f n).mbx = d.mbx := rfl
@[simp] theorem countF_mbxFull (d : Dev) (f : Fld) (n : Nat) : (countF d f n).mbxFull = d.mbxFull := rfl
@[simp] theorem countF_vid (d : Dev) (f : Fld) (n : Nat) : (countF d f n).vid = d.vid := rfl
@[simp] theorem countF_aud (d : Dev) (f : Fld) (n : Nat) : (countF d f n).aud = d.aud := rfl
@[simp] theorem countF_path (d : Dev) (f : Fld) (n : Nat) : (countF d f n).path = d.path := rfl
@[simp] theorem countF_dbg (d : Dev) (f : Fld) (n : Nat) : (countF d f n).dbg = d.dbg := rfl
@[simp] theorem countF_ecc (d : Dev) (f : Fld) (n : Nat) : (countF d f n).ecc = d.ecc := rfl
@[simp] theorem countF_nvm (d : Dev) (f : Fld) (n : Nat) : (countF d f n).nvm = d.nvm := rfl
@[simp] theorem countF_out (d : Dev) (f : Fld) (n : Nat) : (countF d f n).out = d.out := rfl
@[simp] theorem countF_ticks (d : Dev) (f : Fld) (n : Nat) : (countF d f n).ticks = d.ticks := rfl
@[simp] theorem countF_free (d : Dev) (f : Fld) (n : Nat) : (countF d f n).free = d.free := rfl

@[simp] theorem bumpF_inForce (d : Dev) (f : Fld) : (bumpF d f).inForce = d.inForce := rfl
@[simp] theorem bumpF_llOver (d : Dev) (f : Fld) : (bumpF d f).llOver = d.llOver := rfl
@[simp] theorem bumpF_hiShadow (d : Dev) (f : Fld) : (bumpF d f).hiShadow = d.hiShadow := rfl
@[simp] theorem bumpF_busRead (d : Dev) (f : Fld) : (bumpF d f).busRead = d.busRead := rfl
@[simp] theorem bumpF_pw (d : Dev) (f : Fld) : (bumpF d f).pw = d.pw := rfl
@[simp] theorem bumpF_md (d : Dev) (f : Fld) : (bumpF d f).md = d.md := rfl
@[simp] theorem bumpF_fab (d : Dev) (f : Fld) : (bumpF d f).fab = d.fab := rfl
@[simp] theorem bumpF_tv (d : Dev) (f : Fld) : (bumpF d f).tv = d.tv := rfl
@[simp] theorem bumpF_lk (d : Dev) (f : Fld) : (bumpF d f).lk = d.lk := rfl
@[simp] theorem bumpF_par (d : Dev) (f : Fld) : (bumpF d f).par = d.par := rfl
@[simp] theorem bumpF_ck (d : Dev) (f : Fld) : (bumpF d f).ck = d.ck := rfl
@[simp] theorem bumpF_jr (d : Dev) (f : Fld) : (bumpF d f).jr = d.jr := rfl
@[simp] theorem bumpF_qu (d : Dev) (f : Fld) : (bumpF d f).qu = d.qu := rfl
@[simp] theorem bumpF_vs (d : Dev) (f : Fld) : (bumpF d f).vs = d.vs := rfl
@[simp] theorem bumpF_cn (d : Dev) (f : Fld) : (bumpF d f).cn = d.cn := rfl
@[simp] theorem bumpF_rs (d : Dev) (f : Fld) : (bumpF d f).rs = d.rs := rfl
@[simp] theorem bumpF_wk (d : Dev) (f : Fld) : (bumpF d f).wk = d.wk := rfl
@[simp] theorem bumpF_hs (d : Dev) (f : Fld) : (bumpF d f).hs = d.hs := rfl
@[simp] theorem bumpF_pins (d : Dev) (f : Fld) : (bumpF d f).pins = d.pins := rfl
@[simp] theorem bumpF_icu (d : Dev) (f : Fld) : (bumpF d f).icu = d.icu := rfl
@[simp] theorem bumpF_tm (d : Dev) (f : Fld) : (bumpF d f).tm = d.tm := rfl
@[simp] theorem bumpF_gc (d : Dev) (f : Fld) : (bumpF d f).gc = d.gc := rfl
@[simp] theorem bumpF_psram (d : Dev) (f : Fld) : (bumpF d f).psram = d.psram := rfl
@[simp] theorem bumpF_dsram (d : Dev) (f : Fld) : (bumpF d f).dsram = d.dsram := rfl
@[simp] theorem bumpF_screed (d : Dev) (f : Fld) : (bumpF d f).screed = d.screed := rfl
@[simp] theorem bumpF_mbx (d : Dev) (f : Fld) : (bumpF d f).mbx = d.mbx := rfl
@[simp] theorem bumpF_mbxFull (d : Dev) (f : Fld) : (bumpF d f).mbxFull = d.mbxFull := rfl
@[simp] theorem bumpF_vid (d : Dev) (f : Fld) : (bumpF d f).vid = d.vid := rfl
@[simp] theorem bumpF_aud (d : Dev) (f : Fld) : (bumpF d f).aud = d.aud := rfl
@[simp] theorem bumpF_path (d : Dev) (f : Fld) : (bumpF d f).path = d.path := rfl
@[simp] theorem bumpF_dbg (d : Dev) (f : Fld) : (bumpF d f).dbg = d.dbg := rfl
@[simp] theorem bumpF_ecc (d : Dev) (f : Fld) : (bumpF d f).ecc = d.ecc := rfl
@[simp] theorem bumpF_nvm (d : Dev) (f : Fld) : (bumpF d f).nvm = d.nvm := rfl
@[simp] theorem bumpF_out (d : Dev) (f : Fld) : (bumpF d f).out = d.out := rfl
@[simp] theorem bumpF_ticks (d : Dev) (f : Fld) : (bumpF d f).ticks = d.ticks := rfl
@[simp] theorem bumpF_free (d : Dev) (f : Fld) : (bumpF d f).free = d.free := rfl

@[simp] theorem set2_inForce (d : Dev) (lo v : Nat) : (set2 d lo v).inForce = d.inForce := rfl
@[simp] theorem set2_llOver (d : Dev) (lo v : Nat) : (set2 d lo v).llOver = d.llOver := rfl
@[simp] theorem set2_hiShadow (d : Dev) (lo v : Nat) : (set2 d lo v).hiShadow = d.hiShadow := rfl
@[simp] theorem set2_busRead (d : Dev) (lo v : Nat) : (set2 d lo v).busRead = d.busRead := rfl
@[simp] theorem set2_pw (d : Dev) (lo v : Nat) : (set2 d lo v).pw = d.pw := rfl
@[simp] theorem set2_md (d : Dev) (lo v : Nat) : (set2 d lo v).md = d.md := rfl
@[simp] theorem set2_fab (d : Dev) (lo v : Nat) : (set2 d lo v).fab = d.fab := rfl
@[simp] theorem set2_tv (d : Dev) (lo v : Nat) : (set2 d lo v).tv = d.tv := rfl
@[simp] theorem set2_lk (d : Dev) (lo v : Nat) : (set2 d lo v).lk = d.lk := rfl
@[simp] theorem set2_par (d : Dev) (lo v : Nat) : (set2 d lo v).par = d.par := rfl
@[simp] theorem set2_ck (d : Dev) (lo v : Nat) : (set2 d lo v).ck = d.ck := rfl
@[simp] theorem set2_jr (d : Dev) (lo v : Nat) : (set2 d lo v).jr = d.jr := rfl
@[simp] theorem set2_qu (d : Dev) (lo v : Nat) : (set2 d lo v).qu = d.qu := rfl
@[simp] theorem set2_vs (d : Dev) (lo v : Nat) : (set2 d lo v).vs = d.vs := rfl
@[simp] theorem set2_cn (d : Dev) (lo v : Nat) : (set2 d lo v).cn = d.cn := rfl
@[simp] theorem set2_rs (d : Dev) (lo v : Nat) : (set2 d lo v).rs = d.rs := rfl
@[simp] theorem set2_wk (d : Dev) (lo v : Nat) : (set2 d lo v).wk = d.wk := rfl
@[simp] theorem set2_hs (d : Dev) (lo v : Nat) : (set2 d lo v).hs = d.hs := rfl
@[simp] theorem set2_pins (d : Dev) (lo v : Nat) : (set2 d lo v).pins = d.pins := rfl
@[simp] theorem set2_icu (d : Dev) (lo v : Nat) : (set2 d lo v).icu = d.icu := rfl
@[simp] theorem set2_tm (d : Dev) (lo v : Nat) : (set2 d lo v).tm = d.tm := rfl
@[simp] theorem set2_gc (d : Dev) (lo v : Nat) : (set2 d lo v).gc = d.gc := rfl
@[simp] theorem set2_psram (d : Dev) (lo v : Nat) : (set2 d lo v).psram = d.psram := rfl
@[simp] theorem set2_dsram (d : Dev) (lo v : Nat) : (set2 d lo v).dsram = d.dsram := rfl
@[simp] theorem set2_screed (d : Dev) (lo v : Nat) : (set2 d lo v).screed = d.screed := rfl
@[simp] theorem set2_mbx (d : Dev) (lo v : Nat) : (set2 d lo v).mbx = d.mbx := rfl
@[simp] theorem set2_mbxFull (d : Dev) (lo v : Nat) : (set2 d lo v).mbxFull = d.mbxFull := rfl
@[simp] theorem set2_vid (d : Dev) (lo v : Nat) : (set2 d lo v).vid = d.vid := rfl
@[simp] theorem set2_aud (d : Dev) (lo v : Nat) : (set2 d lo v).aud = d.aud := rfl
@[simp] theorem set2_path (d : Dev) (lo v : Nat) : (set2 d lo v).path = d.path := rfl
@[simp] theorem set2_dbg (d : Dev) (lo v : Nat) : (set2 d lo v).dbg = d.dbg := rfl
@[simp] theorem set2_ecc (d : Dev) (lo v : Nat) : (set2 d lo v).ecc = d.ecc := rfl
@[simp] theorem set2_nvm (d : Dev) (lo v : Nat) : (set2 d lo v).nvm = d.nvm := rfl
@[simp] theorem set2_out (d : Dev) (lo v : Nat) : (set2 d lo v).out = d.out := rfl
@[simp] theorem set2_ticks (d : Dev) (lo v : Nat) : (set2 d lo v).ticks = d.ticks := rfl
@[simp] theorem set2_free (d : Dev) (lo v : Nat) : (set2 d lo v).free = d.free := rfl

@[simp] theorem commitSh_regs (d : Dev) (off : Nat) : (commitSh d off).regs = d.regs := rfl
@[simp] theorem commitSh_llOver (d : Dev) (off : Nat) : (commitSh d off).llOver = d.llOver := rfl
@[simp] theorem commitSh_hiShadow (d : Dev) (off : Nat) : (commitSh d off).hiShadow = d.hiShadow := rfl
@[simp] theorem commitSh_busRead (d : Dev) (off : Nat) : (commitSh d off).busRead = d.busRead := rfl
@[simp] theorem commitSh_pw (d : Dev) (off : Nat) : (commitSh d off).pw = d.pw := rfl
@[simp] theorem commitSh_md (d : Dev) (off : Nat) : (commitSh d off).md = d.md := rfl
@[simp] theorem commitSh_fab (d : Dev) (off : Nat) : (commitSh d off).fab = d.fab := rfl
@[simp] theorem commitSh_tv (d : Dev) (off : Nat) : (commitSh d off).tv = d.tv := rfl
@[simp] theorem commitSh_lk (d : Dev) (off : Nat) : (commitSh d off).lk = d.lk := rfl
@[simp] theorem commitSh_par (d : Dev) (off : Nat) : (commitSh d off).par = d.par := rfl
@[simp] theorem commitSh_ck (d : Dev) (off : Nat) : (commitSh d off).ck = d.ck := rfl
@[simp] theorem commitSh_jr (d : Dev) (off : Nat) : (commitSh d off).jr = d.jr := rfl
@[simp] theorem commitSh_qu (d : Dev) (off : Nat) : (commitSh d off).qu = d.qu := rfl
@[simp] theorem commitSh_vs (d : Dev) (off : Nat) : (commitSh d off).vs = d.vs := rfl
@[simp] theorem commitSh_cn (d : Dev) (off : Nat) : (commitSh d off).cn = d.cn := rfl
@[simp] theorem commitSh_rs (d : Dev) (off : Nat) : (commitSh d off).rs = d.rs := rfl
@[simp] theorem commitSh_wk (d : Dev) (off : Nat) : (commitSh d off).wk = d.wk := rfl
@[simp] theorem commitSh_hs (d : Dev) (off : Nat) : (commitSh d off).hs = d.hs := rfl
@[simp] theorem commitSh_pins (d : Dev) (off : Nat) : (commitSh d off).pins = d.pins := rfl
@[simp] theorem commitSh_icu (d : Dev) (off : Nat) : (commitSh d off).icu = d.icu := rfl
@[simp] theorem commitSh_tm (d : Dev) (off : Nat) : (commitSh d off).tm = d.tm := rfl
@[simp] theorem commitSh_gc (d : Dev) (off : Nat) : (commitSh d off).gc = d.gc := rfl
@[simp] theorem commitSh_psram (d : Dev) (off : Nat) : (commitSh d off).psram = d.psram := rfl
@[simp] theorem commitSh_dsram (d : Dev) (off : Nat) : (commitSh d off).dsram = d.dsram := rfl
@[simp] theorem commitSh_screed (d : Dev) (off : Nat) : (commitSh d off).screed = d.screed := rfl
@[simp] theorem commitSh_mbx (d : Dev) (off : Nat) : (commitSh d off).mbx = d.mbx := rfl
@[simp] theorem commitSh_mbxFull (d : Dev) (off : Nat) : (commitSh d off).mbxFull = d.mbxFull := rfl
@[simp] theorem commitSh_vid (d : Dev) (off : Nat) : (commitSh d off).vid = d.vid := rfl
@[simp] theorem commitSh_aud (d : Dev) (off : Nat) : (commitSh d off).aud = d.aud := rfl
@[simp] theorem commitSh_path (d : Dev) (off : Nat) : (commitSh d off).path = d.path := rfl
@[simp] theorem commitSh_dbg (d : Dev) (off : Nat) : (commitSh d off).dbg = d.dbg := rfl
@[simp] theorem commitSh_ecc (d : Dev) (off : Nat) : (commitSh d off).ecc = d.ecc := rfl
@[simp] theorem commitSh_nvm (d : Dev) (off : Nat) : (commitSh d off).nvm = d.nvm := rfl
@[simp] theorem commitSh_out (d : Dev) (off : Nat) : (commitSh d off).out = d.out := rfl
@[simp] theorem commitSh_ticks (d : Dev) (off : Nat) : (commitSh d off).ticks = d.ticks := rfl
@[simp] theorem commitSh_free (d : Dev) (off : Nat) : (commitSh d off).free = d.free := rfl

@[simp] theorem emit_regs (d : Dev) (o : Out) : (emit o d).regs = d.regs := rfl
@[simp] theorem emit_inForce (d : Dev) (o : Out) : (emit o d).inForce = d.inForce := rfl
@[simp] theorem emit_llOver (d : Dev) (o : Out) : (emit o d).llOver = d.llOver := rfl
@[simp] theorem emit_hiShadow (d : Dev) (o : Out) : (emit o d).hiShadow = d.hiShadow := rfl
@[simp] theorem emit_busRead (d : Dev) (o : Out) : (emit o d).busRead = d.busRead := rfl
@[simp] theorem emit_pw (d : Dev) (o : Out) : (emit o d).pw = d.pw := rfl
@[simp] theorem emit_md (d : Dev) (o : Out) : (emit o d).md = d.md := rfl
@[simp] theorem emit_fab (d : Dev) (o : Out) : (emit o d).fab = d.fab := rfl
@[simp] theorem emit_tv (d : Dev) (o : Out) : (emit o d).tv = d.tv := rfl
@[simp] theorem emit_lk (d : Dev) (o : Out) : (emit o d).lk = d.lk := rfl
@[simp] theorem emit_par (d : Dev) (o : Out) : (emit o d).par = d.par := rfl
@[simp] theorem emit_ck (d : Dev) (o : Out) : (emit o d).ck = d.ck := rfl
@[simp] theorem emit_jr (d : Dev) (o : Out) : (emit o d).jr = d.jr := rfl
@[simp] theorem emit_qu (d : Dev) (o : Out) : (emit o d).qu = d.qu := rfl
@[simp] theorem emit_vs (d : Dev) (o : Out) : (emit o d).vs = d.vs := rfl
@[simp] theorem emit_cn (d : Dev) (o : Out) : (emit o d).cn = d.cn := rfl
@[simp] theorem emit_rs (d : Dev) (o : Out) : (emit o d).rs = d.rs := rfl
@[simp] theorem emit_wk (d : Dev) (o : Out) : (emit o d).wk = d.wk := rfl
@[simp] theorem emit_hs (d : Dev) (o : Out) : (emit o d).hs = d.hs := rfl
@[simp] theorem emit_pins (d : Dev) (o : Out) : (emit o d).pins = d.pins := rfl
@[simp] theorem emit_icu (d : Dev) (o : Out) : (emit o d).icu = d.icu := rfl
@[simp] theorem emit_tm (d : Dev) (o : Out) : (emit o d).tm = d.tm := rfl
@[simp] theorem emit_gc (d : Dev) (o : Out) : (emit o d).gc = d.gc := rfl
@[simp] theorem emit_psram (d : Dev) (o : Out) : (emit o d).psram = d.psram := rfl
@[simp] theorem emit_dsram (d : Dev) (o : Out) : (emit o d).dsram = d.dsram := rfl
@[simp] theorem emit_screed (d : Dev) (o : Out) : (emit o d).screed = d.screed := rfl
@[simp] theorem emit_mbx (d : Dev) (o : Out) : (emit o d).mbx = d.mbx := rfl
@[simp] theorem emit_mbxFull (d : Dev) (o : Out) : (emit o d).mbxFull = d.mbxFull := rfl
@[simp] theorem emit_vid (d : Dev) (o : Out) : (emit o d).vid = d.vid := rfl
@[simp] theorem emit_aud (d : Dev) (o : Out) : (emit o d).aud = d.aud := rfl
@[simp] theorem emit_path (d : Dev) (o : Out) : (emit o d).path = d.path := rfl
@[simp] theorem emit_dbg (d : Dev) (o : Out) : (emit o d).dbg = d.dbg := rfl
@[simp] theorem emit_ecc (d : Dev) (o : Out) : (emit o d).ecc = d.ecc := rfl
@[simp] theorem emit_nvm (d : Dev) (o : Out) : (emit o d).nvm = d.nvm := rfl
@[simp] theorem emit_ticks (d : Dev) (o : Out) : (emit o d).ticks = d.ticks := rfl
@[simp] theorem emit_free (d : Dev) (o : Out) : (emit o d).free = d.free := rfl

@[simp] theorem setCore_regs (d : Dev) (n : Nat) (c : GCore) : (setCore d n c).regs = d.regs := rfl
@[simp] theorem setCore_inForce (d : Dev) (n : Nat) (c : GCore) : (setCore d n c).inForce = d.inForce := rfl
@[simp] theorem setCore_llOver (d : Dev) (n : Nat) (c : GCore) : (setCore d n c).llOver = d.llOver := rfl
@[simp] theorem setCore_hiShadow (d : Dev) (n : Nat) (c : GCore) : (setCore d n c).hiShadow = d.hiShadow := rfl
@[simp] theorem setCore_busRead (d : Dev) (n : Nat) (c : GCore) : (setCore d n c).busRead = d.busRead := rfl
@[simp] theorem setCore_pw (d : Dev) (n : Nat) (c : GCore) : (setCore d n c).pw = d.pw := rfl
@[simp] theorem setCore_md (d : Dev) (n : Nat) (c : GCore) : (setCore d n c).md = d.md := rfl
@[simp] theorem setCore_fab (d : Dev) (n : Nat) (c : GCore) : (setCore d n c).fab = d.fab := rfl
@[simp] theorem setCore_tv (d : Dev) (n : Nat) (c : GCore) : (setCore d n c).tv = d.tv := rfl
@[simp] theorem setCore_lk (d : Dev) (n : Nat) (c : GCore) : (setCore d n c).lk = d.lk := rfl
@[simp] theorem setCore_par (d : Dev) (n : Nat) (c : GCore) : (setCore d n c).par = d.par := rfl
@[simp] theorem setCore_ck (d : Dev) (n : Nat) (c : GCore) : (setCore d n c).ck = d.ck := rfl
@[simp] theorem setCore_jr (d : Dev) (n : Nat) (c : GCore) : (setCore d n c).jr = d.jr := rfl
@[simp] theorem setCore_qu (d : Dev) (n : Nat) (c : GCore) : (setCore d n c).qu = d.qu := rfl
@[simp] theorem setCore_vs (d : Dev) (n : Nat) (c : GCore) : (setCore d n c).vs = d.vs := rfl
@[simp] theorem setCore_cn (d : Dev) (n : Nat) (c : GCore) : (setCore d n c).cn = d.cn := rfl
@[simp] theorem setCore_rs (d : Dev) (n : Nat) (c : GCore) : (setCore d n c).rs = d.rs := rfl
@[simp] theorem setCore_wk (d : Dev) (n : Nat) (c : GCore) : (setCore d n c).wk = d.wk := rfl
@[simp] theorem setCore_hs (d : Dev) (n : Nat) (c : GCore) : (setCore d n c).hs = d.hs := rfl
@[simp] theorem setCore_pins (d : Dev) (n : Nat) (c : GCore) : (setCore d n c).pins = d.pins := rfl
@[simp] theorem setCore_icu (d : Dev) (n : Nat) (c : GCore) : (setCore d n c).icu = d.icu := rfl
@[simp] theorem setCore_tm (d : Dev) (n : Nat) (c : GCore) : (setCore d n c).tm = d.tm := rfl
@[simp] theorem setCore_psram (d : Dev) (n : Nat) (c : GCore) : (setCore d n c).psram = d.psram := rfl
@[simp] theorem setCore_dsram (d : Dev) (n : Nat) (c : GCore) : (setCore d n c).dsram = d.dsram := rfl
@[simp] theorem setCore_screed (d : Dev) (n : Nat) (c : GCore) : (setCore d n c).screed = d.screed := rfl
@[simp] theorem setCore_mbx (d : Dev) (n : Nat) (c : GCore) : (setCore d n c).mbx = d.mbx := rfl
@[simp] theorem setCore_mbxFull (d : Dev) (n : Nat) (c : GCore) : (setCore d n c).mbxFull = d.mbxFull := rfl
@[simp] theorem setCore_vid (d : Dev) (n : Nat) (c : GCore) : (setCore d n c).vid = d.vid := rfl
@[simp] theorem setCore_aud (d : Dev) (n : Nat) (c : GCore) : (setCore d n c).aud = d.aud := rfl
@[simp] theorem setCore_path (d : Dev) (n : Nat) (c : GCore) : (setCore d n c).path = d.path := rfl
@[simp] theorem setCore_dbg (d : Dev) (n : Nat) (c : GCore) : (setCore d n c).dbg = d.dbg := rfl
@[simp] theorem setCore_ecc (d : Dev) (n : Nat) (c : GCore) : (setCore d n c).ecc = d.ecc := rfl
@[simp] theorem setCore_nvm (d : Dev) (n : Nat) (c : GCore) : (setCore d n c).nvm = d.nvm := rfl
@[simp] theorem setCore_out (d : Dev) (n : Nat) (c : GCore) : (setCore d n c).out = d.out := rfl
@[simp] theorem setCore_ticks (d : Dev) (n : Nat) (c : GCore) : (setCore d n c).ticks = d.ticks := rfl
@[simp] theorem setCore_free (d : Dev) (n : Nat) (c : GCore) : (setCore d n c).free = d.free := rfl

@[simp] theorem fresh_regs (d : Dev) : ((fresh d).2).regs = d.regs := rfl
@[simp] theorem fresh_inForce (d : Dev) : ((fresh d).2).inForce = d.inForce := rfl
@[simp] theorem fresh_llOver (d : Dev) : ((fresh d).2).llOver = d.llOver := rfl
@[simp] theorem fresh_hiShadow (d : Dev) : ((fresh d).2).hiShadow = d.hiShadow := rfl
@[simp] theorem fresh_busRead (d : Dev) : ((fresh d).2).busRead = d.busRead := rfl
@[simp] theorem fresh_pw (d : Dev) : ((fresh d).2).pw = d.pw := rfl
@[simp] theorem fresh_md (d : Dev) : ((fresh d).2).md = d.md := rfl
@[simp] theorem fresh_fab (d : Dev) : ((fresh d).2).fab = d.fab := rfl
@[simp] theorem fresh_tv (d : Dev) : ((fresh d).2).tv = d.tv := rfl
@[simp] theorem fresh_lk (d : Dev) : ((fresh d).2).lk = d.lk := rfl
@[simp] theorem fresh_par (d : Dev) : ((fresh d).2).par = d.par := rfl
@[simp] theorem fresh_ck (d : Dev) : ((fresh d).2).ck = d.ck := rfl
@[simp] theorem fresh_jr (d : Dev) : ((fresh d).2).jr = d.jr := rfl
@[simp] theorem fresh_qu (d : Dev) : ((fresh d).2).qu = d.qu := rfl
@[simp] theorem fresh_vs (d : Dev) : ((fresh d).2).vs = d.vs := rfl
@[simp] theorem fresh_cn (d : Dev) : ((fresh d).2).cn = d.cn := rfl
@[simp] theorem fresh_rs (d : Dev) : ((fresh d).2).rs = d.rs := rfl
@[simp] theorem fresh_wk (d : Dev) : ((fresh d).2).wk = d.wk := rfl
@[simp] theorem fresh_hs (d : Dev) : ((fresh d).2).hs = d.hs := rfl
@[simp] theorem fresh_pins (d : Dev) : ((fresh d).2).pins = d.pins := rfl
@[simp] theorem fresh_icu (d : Dev) : ((fresh d).2).icu = d.icu := rfl
@[simp] theorem fresh_tm (d : Dev) : ((fresh d).2).tm = d.tm := rfl
@[simp] theorem fresh_gc (d : Dev) : ((fresh d).2).gc = d.gc := rfl
@[simp] theorem fresh_psram (d : Dev) : ((fresh d).2).psram = d.psram := rfl
@[simp] theorem fresh_dsram (d : Dev) : ((fresh d).2).dsram = d.dsram := rfl
@[simp] theorem fresh_screed (d : Dev) : ((fresh d).2).screed = d.screed := rfl
@[simp] theorem fresh_mbx (d : Dev) : ((fresh d).2).mbx = d.mbx := rfl
@[simp] theorem fresh_mbxFull (d : Dev) : ((fresh d).2).mbxFull = d.mbxFull := rfl
@[simp] theorem fresh_vid (d : Dev) : ((fresh d).2).vid = d.vid := rfl
@[simp] theorem fresh_aud (d : Dev) : ((fresh d).2).aud = d.aud := rfl
@[simp] theorem fresh_path (d : Dev) : ((fresh d).2).path = d.path := rfl
@[simp] theorem fresh_dbg (d : Dev) : ((fresh d).2).dbg = d.dbg := rfl
@[simp] theorem fresh_ecc (d : Dev) : ((fresh d).2).ecc = d.ecc := rfl
@[simp] theorem fresh_nvm (d : Dev) : ((fresh d).2).nvm = d.nvm := rfl
@[simp] theorem fresh_out (d : Dev) : ((fresh d).2).out = d.out := rfl
@[simp] theorem fresh_ticks (d : Dev) : ((fresh d).2).ticks = d.ticks := rfl

/-- A register read after a register write. -/
theorem getR_setR (d : Dev) (off : Nat) (v : Word) (j : Nat) : getR (setR d off v) j = if off = j then v else getR d j :=
  sget_sset _ _ _ _ _

@[simp] theorem getR_setR_same (d : Dev) (off : Nat) (v : Word) : getR (setR d off v) off = v := by simp [getR_setR]

theorem getR_setR_other (d : Dev) (off : Nat) (v : Word) (j : Nat) (h : off ≠ j) : getR (setR d off v) j = getR d j := by
  simp [getR_setR, h]

/-- A field write changes no other register. -/
theorem getR_setF_other (d : Dev) (f : Fld) (v j : Nat) (h : f.off ≠ j) : getR (setF d f v) j = getR d j :=
  getR_setR_other d f.off _ j h

theorem getF_setR_other (d : Dev) (off : Nat) (v : Word) (g : Fld) (h : off ≠ g.off) : getF (setR d off v) g = getF d g := by
  simp only [getF, getR_setR_other d off v g.off h]

theorem getF_setF_other (d : Dev) (f : Fld) (v : Nat) (g : Fld) (h : f.off ≠ g.off) : getF (setF d f v) g = getF d g :=
  getF_setR_other d f.off _ g h

/-- What a core is after a core is replaced. -/
theorem coreOf_setCore (d : Dev) (n : Nat) (c : GCore) (j : Nat) : coreOf (setCore d n c) j = if n = j then c else coreOf d j :=
  sget_sset _ _ _ _ _

@[simp] theorem coreOf_setCore_same (d : Dev) (n : Nat) (c : GCore) : coreOf (setCore d n c) n = c := by
  simp [coreOf_setCore]

theorem coreOf_setCore_other (d : Dev) (n : Nat) (c : GCore) (j : Nat) (h : n ≠ j) : coreOf (setCore d n c) j = coreOf d j := by
  simp [coreOf_setCore, h]

@[simp] theorem coreOf_setR (d : Dev) (off : Nat) (v : Word) (j : Nat) : coreOf (setR d off v) j = coreOf d j := rfl
@[simp] theorem getR_setCore (d : Dev) (n : Nat) (c : GCore) (j : Nat) : getR (setCore d n c) j = getR d j := rfl
@[simp] theorem getF_setCore (d : Dev) (n : Nat) (c : GCore) (g : Fld) : getF (setCore d n c) g = getF d g := rfl
@[simp] theorem getR_emit (d : Dev) (o : Out) (j : Nat) : getR (emit o d) j = getR d j := rfl
@[simp] theorem getF_emit (d : Dev) (o : Out) (g : Fld) : getF (emit o d) g = getF d g := rfl

/-- A word with a field replaced, as numbers: the parts above and below the field stay. -/
theorem withField_toNat (w : Word) (f : Fld) (v : Nat) (hl : f.lo ≤ f.hi) (hh : f.hi < 32) :
    (withField w f v).toNat =
      w.toNat / 2 ^ (f.hi + 1) * 2 ^ (f.hi + 1) + v % 2 ^ (f.hi - f.lo + 1) * 2 ^ f.lo + w.toNat % 2 ^ f.lo := by
  obtain ⟨o, hi, lo⟩ := f
  simp only at hl hh ⊢
  have e : 2 ^ (hi + 1) = 2 ^ lo * 2 ^ (hi - lo + 1) := by rw [← Nat.pow_add]; congr 1; omega
  have e32 : 2 ^ 32 = 2 ^ (hi + 1) * 2 ^ (31 - hi) := by rw [← Nat.pow_add]; congr 1; omega
  unfold withField fieldOf bitsOf
  simp only [BitVec.toNat_ofNat]
  have hw := w.isLt
  generalize w.toNat = x at hw ⊢
  have hp : 0 < 2 ^ lo := Nat.two_pow_pos lo
  have hn : 0 < 2 ^ (hi - lo + 1) := Nat.two_pow_pos _
  have hm : 0 < 2 ^ (31 - hi) := Nat.two_pow_pos _
  rw [e32, e] at hw ⊢
  generalize 2 ^ lo = p at hp hw ⊢
  generalize 2 ^ (hi - lo + 1) = n at hn hw ⊢
  generalize 2 ^ (31 - hi) = m at hm hw ⊢
  have hv := Nat.mod_lt v hn
  generalize v % n = u at hv ⊢
  have h1 : x = x / (p * n) * (p * n) + x / p % n * p + x % p := by
    have a := Nat.div_add_mod x p
    have b := Nat.div_add_mod (x / p) n
    rw [Nat.div_div_eq_div_mul] at b
    calc x = p * (x / p) + x % p := a.symm
      _ = p * (n * (x / (p * n)) + x / p % n) + x % p := by rw [b]
      _ = _ := by ring
  have h2 : x - x / p % n * p + u * p = x / (p * n) * (p * n) + u * p + x % p := by omega
  rw [h2]
  apply Nat.mod_eq_of_lt
  have h3 : x / (p * n) < m := Nat.div_lt_of_lt_mul (by simpa using hw)
  have h4 : x % p < p := Nat.mod_lt _ hp
  calc x / (p * n) * (p * n) + u * p + x % p < x / (p * n) * (p * n) + u * p + p := by omega
    _ = x / (p * n) * (p * n) + (u + 1) * p := by ring
    _ ≤ x / (p * n) * (p * n) + n * p := by
        have hup : (u + 1) * p ≤ n * p := Nat.mul_le_mul_right p (Nat.succ_le_of_lt hv)
        omega
    _ = (x / (p * n) + 1) * (p * n) := by ring
    _ ≤ m * (p * n) := Nat.mul_le_mul_right _ h3
    _ = p * n * m := by ring

/-- A field read after it was written: the value, cut to the field's width. -/
theorem fieldOf_withField (w : Word) (f : Fld) (v : Nat) (hl : f.lo ≤ f.hi) (hh : f.hi < 32) :
    fieldOf (withField w f v) f = v % 2 ^ (f.hi - f.lo + 1) := by
  unfold fieldOf bitsOf
  rw [withField_toNat w f v hl hh]
  obtain ⟨o, hi, lo⟩ := f
  simp only at hl hh ⊢
  have e : 2 ^ (hi + 1) = 2 ^ lo * 2 ^ (hi - lo + 1) := by rw [← Nat.pow_add]; congr 1; omega
  have hp : 0 < 2 ^ lo := Nat.two_pow_pos lo
  rw [e]
  generalize 2 ^ (hi - lo + 1) = n
  generalize 2 ^ lo = p at hp ⊢
  generalize w.toNat = x
  have h4 : x % p < p := Nat.mod_lt _ hp
  have : x / (p * n) * (p * n) + v % n * p + x % p = p * (x / (p * n) * n + v % n) + x % p := by ring
  rw [this, Nat.mul_add_div hp, Nat.div_eq_of_lt h4, Nat.add_zero, Nat.mul_comm, Nat.mul_add_mod, Nat.mod_mod]

/-- A field of the same register that does not overlap the written one. -/
theorem fieldOf_withField_disjoint (w : Word) (f g : Fld) (v : Nat) (hl : f.lo ≤ f.hi) (hh : f.hi < 32) (gl : g.lo ≤ g.hi)
    (h : g.hi < f.lo ∨ f.hi < g.lo) : fieldOf (withField w f v) g = fieldOf w g := by
  have hb : ∀ i : Nat, (i < f.lo ∨ f.hi < i) → (withField w f v).toNat.testBit i = w.toNat.testBit i := by
    intro i hi
    rw [withField_toNat w f v hl hh]
    obtain ⟨o, fh, fl⟩ := f
    simp only at hl hh hi ⊢
    have e : 2 ^ (fh + 1) = 2 ^ fl * 2 ^ (fh - fl + 1) := by rw [← Nat.pow_add]; congr 1; omega
    have hu : v % 2 ^ (fh - fl + 1) < 2 ^ (fh - fl + 1) := Nat.mod_lt _ (Nat.two_pow_pos _)
    generalize v % 2 ^ (fh - fl + 1) = u at hu ⊢
    generalize hx : w.toNat = x
    have hr : x % 2 ^ fl < 2 ^ fl := Nat.mod_lt _ (Nat.two_pow_pos _)
    have hur : u * 2 ^ fl + x % 2 ^ fl < 2 ^ (fh + 1) := by
      rw [e]
      calc u * 2 ^ fl + x % 2 ^ fl < u * 2 ^ fl + 2 ^ fl := by omega
        _ = 2 ^ fl * (u + 1) := by ring
        _ ≤ _ := Nat.mul_le_mul_left _ hu
    have e1 : x / 2 ^ (fh + 1) * 2 ^ (fh + 1) + u * 2 ^ fl + x % 2 ^ fl =
        2 ^ (fh + 1) * (x / 2 ^ (fh + 1)) + (u * 2 ^ fl + x % 2 ^ fl) := by ring
    rw [e1, Nat.testBit_two_pow_mul_add _ hur]
    rcases hi with hi | hi
    · rw [if_pos (by omega), Nat.mul_comm u, Nat.testBit_two_pow_mul_add _ hr, if_pos hi, Nat.testBit_mod_two_pow]
      simp [hi]
    · rw [if_neg (by omega), Nat.testBit_div_two_pow]
      congr 1
      omega
  unfold fieldOf bitsOf
  apply Nat.eq_of_testBit_eq
  intro i
  simp only [Nat.testBit_mod_two_pow, Nat.testBit_div_two_pow]
  by_cases hi : i < g.hi - g.lo + 1
  · rw [hb _ (by omega)]
  · simp [hi]

theorem getF_setF_same (d : Dev) (f : Fld) (v : Nat) (hl : f.lo ≤ f.hi) (hh : f.hi < 32) :
    getF (setF d f v) f = v % 2 ^ (f.hi - f.lo + 1) := by
  simp only [getF, setF, getR_setR_same]
  exact fieldOf_withField _ f v hl hh

theorem getF_setF_disjoint (d : Dev) (f g : Fld) (v : Nat) (ho : f.off = g.off) (hl : f.lo ≤ f.hi) (hh : f.hi < 32)
    (gl : g.lo ≤ g.hi) (h : g.hi < f.lo ∨ f.hi < g.lo) : getF (setF d f v) g = getF d g := by
  simp only [getF, setF, ← ho, getR_setR_same]
  exact fieldOf_withField_disjoint _ f g v hl hh gl h

theorem flag_setFlag_same (d : Dev) (f : Fld) (b : Bool) (h : f.lo = f.hi) (hh : f.hi < 32) :
    flag (setFlag d f b) f = b := by
  simp only [flag, setFlag, getF_setF_same d f (b2n b) (by omega) hh, h, Nat.sub_self]
  cases b <;> rfl

end Sys2Proof.Machine
end

