-- ==== Sys2Proof/Laws/Commands.lean ====
section
/-! SUPPORT. What the shared operations behind the commands do: flits that are delivered, accepted commands, and the issue of an
instruction. -/

namespace Sys2Proof.Machine

open Sys2Proof.Safety

/-- A flit that is delivered here is taken, and its effect follows (R242). -/
theorem receive_delivered (ty sub : Nat) (rx : Rx) (body : Nat) (f : State → State) (s : State) (h : Delivered ty sub rx s) :
    receive ty sub rx body f s = settle (f (setDev s (taken ty sub rx body s))) := by
  obtain ⟨hg, hu, hl, hd⟩ := h
  have hl' : (isLost (acceptSeq rx.rope.toNat s.dev) rx.src.toNat && !fromLost s.dev rx.src.toNat ty sub) = false := by
    have e : isLost (acceptSeq rx.rope.toNat s.dev) rx.src.toNat = isLost s.dev rx.src.toNat := rfl
    rw [e]
    rcases hl with h | h <;> simp [h]
  have hp : myPos (acceptSeq rx.rope.toNat s.dev) = myPos s.dev := rfl
  unfold receive
  simp only [hg, hu, hl', Bool.not_true, Bool.or_self, Bool.false_eq_true, if_false]
  cases hk : rx.dkind with
  | true =>
    simp only [hk, if_true] at hd
    simp only [if_true, hd, hp, beq_self_eq_true, Bool.not_true, Bool.false_and, Bool.false_eq_true, if_false]
    rfl
  | false =>
    simp only [hk, Bool.false_eq_true, if_false] at hd
    obtain ⟨h1, h2, h3⟩ := hd
    have e : pmap (acceptSeq rx.rope.toNat s.dev) rx.dest.toNat = some (myPos s.dev) := h1
    have e2 : holds (acceptSeq rx.rope.toNat s.dev) = true := h2
    have e3 : myPart (acceptSeq rx.rope.toNat s.dev) = rx.dest.toNat := h3
    simp only [Bool.false_eq_true, if_false, e, hp, beq_self_eq_true, if_true, e2, e3, Bool.and_self, Bool.not_true, Bool.not_false, Bool.and_false]
    rfl

/-- A SYSCTL flit of this GENERATION that is delivered here has its effect (R241, R243). -/
theorem sysctl_ordered (sub : Nat) (rx : Rx) (epoch : BitVec 16) (arg value extra : Nat) (f : State → State) (s : State)
    (h : Ordered sub rx epoch arg value extra s) : sysctlIn sub rx epoch arg value extra f s =
      settle (f (setDev s (taken 0x12 sub rx (sysBody epoch arg value extra) s))) := by
  unfold sysctlIn
  rw [receive_delivered _ _ _ _ _ _ h.1]
  have e := h.2
  simp only [sysBody] at e ⊢
  simp [e]

/-- An accepted command that waits for this executor runs. -/
theorem runCmd_for (r : CmdRef) (op : Nat) (f : Cmd → State → State) (s : State) (c : Cmd) (h : cmdFor s.dev r op = some c) :
    runCmd r op f s = settle (f c s) := by simp only [runCmd, h]

/-- What finding a command for an executor says of it. -/
theorem cmdFor_find (d : Dev) (r : CmdRef) (op : Nat) (c : Cmd) (h : cmdFor d r op = some c) :
    findCmd d r = some c ∧ opcodeOf c.desc = op ∧ ∀ p t, r = .host p t → forwards d c.desc = false := by
  unfold cmdFor at h
  cases hf : findCmd d r with
  | none => simp [hf] at h
  | some c' =>
    simp only [hf] at h
    cases r with
    | host p t =>
      simp at h
      obtain ⟨⟨h1, h2⟩, rfl⟩ := h
      exact ⟨rfl, h1, fun _ _ _ => h2⟩
    | relay p t =>
      simp at h
      obtain ⟨h1, rfl⟩ := h
      exact ⟨rfl, h1, fun _ _ e => by cases e⟩

/-- A slice of a write whose bytes are there runs. -/
theorem runWrite_for (r : CmdRef) (op : Nat) (given bs : List Byte) (f : Cmd → List Byte → State → State) (s : State) (c : Cmd)
    (h : cmdFor s.dev r op = some c) (hw : writeData r c given s.dev = some bs) :
    runWrite r op given false f s = settle (f c bs s) := by
  obtain ⟨h1, h2, h3⟩ := cmdFor_find _ _ _ _ h
  unfold runWrite
  simp only [h1, h2, hw]
  cases r with
  | host p t => simp [h3 p t rfl]
  | relay => simp

/-- A mode command that has not begun, and whose checks still hold, runs (R284). -/
theorem runMode_for (r : CmdRef) (op : Nat) (f : Cmd → Dev → Dev) (s : State) (c : Cmd) (hc : cmdFor s.dev r op = some c)
    (hm : c.moved = 0) (ho : ownChecks s.dev c.desc = 0) :
    runMode r op f s = settle (setDev s (f c (onCmd r (fun c => { c with moved := 1, slices := 1 }) s.dev))) := by
  simp only [runMode, runCmd_for _ _ _ _ _ hc, onDev, hm, ho]
  simp

/-- An instruction that is ready completes with its body's effect. -/
theorem issue_ready (core : BitVec 5) (ext : List (BitVec 10)) (form : Dev → GCore → BitVec 20 → Form) (full : GCore → Bool)
    (body : BitVec 20 → State → Eff) (s s1 : State)
    (h : Ready core ext (form s.dev (coreOf s.dev core.toNat) (instrAt core ext s)) full s s1) :
    issue core ext form full body s =
      .next (doneBy core ext (form s.dev (coreOf s.dev core.toNat) (instrAt core ext s)) s s1 (body (instrAt core ext s) s1)) := by
  obtain ⟨⟨h1, h2, h3, h4, h5⟩, h6, h7, h8, h9, h10⟩ := h
  unfold issue
  simp only [instrAt] at h4 h6 h7 h8 ⊢
  have e : (!executing s.dev core.toNat || (!(pairs s.dev core.toNat (ext.length + 1)
      (form s.dev (coreOf s.dev core.toNat) ((coreOf s.dev core.toNat).pc + BitVec.ofNat 20 ext.length))) &&
      (nmiDue s.dev core.toNat || extDue s.dev core.toNat))) = false := by
    rcases h4 with h4 | ⟨h4, h4'⟩
    · simp [h3, h4]
    · simp [h3, h4, h4']
  simp only [h1, h2, e, h5, h6, h7, h8, h9, h10, Bool.not_true, Bool.false_eq_true, if_false]
  rfl

/-- The same for an instruction whose form is fixed. -/
theorem issue_plain (core : BitVec 5) (ext : List (BitVec 10)) (fm : Form) (full : GCore → Bool) (body : BitVec 20 → State → Eff)
    (s s1 : State) (h : Ready core ext fm full s s1) :
    issue core ext (fun _ _ _ => fm) full body s = .next (doneBy core ext fm s s1 (body (instrAt core ext s) s1)) :=
  issue_ready core ext (fun _ _ _ => fm) full body s s1 h

/-- A fetched instruction with an illegal encoding enters vector 2 with its DETAIL (R334). -/
theorem issue_illegal (core : BitVec 5) (ext : List (BitVec 10)) (form : Dev → GCore → BitVec 20 → Form) (full : GCore → Bool)
    (body : BitVec 20 → State → Eff) (s s1 : State) (k : Nat)
    (h : Fetches core ext (form s.dev (coreOf s.dev core.toNat) (instrAt core ext s)) s s1)
    (hk : illegalDetail ext (form s.dev (coreOf s.dev core.toNat) (instrAt core ext s)) = some k) :
    issue core ext form full body s = .next (enter core.toNat 2 k none (coreOf s.dev core.toNat).pc s1) := by
  obtain ⟨h1, h2, h3, h4, h5⟩ := h
  unfold issue
  simp only [instrAt] at h4 hk ⊢
  have e : (!executing s.dev core.toNat || (!(pairs s.dev core.toNat (ext.length + 1)
      (form s.dev (coreOf s.dev core.toNat) ((coreOf s.dev core.toNat).pc + BitVec.ofNat 20 ext.length))) &&
      (nmiDue s.dev core.toNat || extDue s.dev core.toNat))) = false := by
    rcases h4 with h4 | ⟨h4, h4'⟩
    · simp [h3, h4]
    · simp [h3, h4, h4']
  simp only [h1, h2, e, h5, hk, Bool.not_true, Bool.false_eq_true, if_false]

/-- The signed overflow of an exact value shows in its 32-bit remainder. -/
theorem overflows_iff (x : Int) : overflows x = decide ((BitVec.ofInt 32 x).toInt ≠ x) := by
  have h : (BitVec.ofInt 32 x).toInt = Int.bmod x (2 ^ 32) := BitVec.toInt_ofInt x
  unfold overflows
  rw [h, Int.bmod_def]
  by_cases h1 : x < -2147483648 <;> by_cases h2 : 2147483647 < x <;> simp [h1, h2] <;> omega

/-- A sum with its flags, from exact values (R321). -/
theorem addWith_eq (a b : Word) (c : Bool) (f : Flags) :
    addWith a b c f = (BitVec.ofNat 32 (a.toNat + b.toNat + b2n c),
      ⟨BitVec.ofNat 32 (a.toNat + b.toNat + b2n c) == 0#32, (BitVec.ofNat 32 (a.toNat + b.toNat + b2n c)).msb,
        decide (2 ^ 32 ≤ a.toNat + b.toNat + b2n c),
        decide ((BitVec.ofNat 32 (a.toNat + b.toNat + b2n c)).toInt ≠ a.toInt + b.toInt + (b2n c : Int))⟩) := by
  have e : a + b + BitVec.ofNat 32 (b2n c) = BitVec.ofNat 32 (a.toNat + b.toNat + b2n c) := by
    apply BitVec.eq_of_toNat_eq; simp
  have e2 : BitVec.ofInt 32 (a.toInt + b.toInt + (b2n c : Int)) = BitVec.ofNat 32 (a.toNat + b.toNat + b2n c) := by
    rw [← e, BitVec.ofInt_add, BitVec.ofInt_add]; simp
  simp only [addWith, zeroNeg, e, overflows_iff, e2]

/-- A difference with its flags, from exact values (R321). -/
theorem subWith_eq (a b : Word) (c : Bool) (f : Flags) :
    subWith a b c f = (BitVec.ofInt 32 (a.toInt - b.toInt - (b2n (!c) : Int)),
      ⟨BitVec.ofInt 32 (a.toInt - b.toInt - (b2n (!c) : Int)) == 0#32, (BitVec.ofInt 32 (a.toInt - b.toInt - (b2n (!c) : Int))).msb,
        decide (b.toNat + b2n (!c) ≤ a.toNat),
        decide ((BitVec.ofInt 32 (a.toInt - b.toInt - (b2n (!c) : Int))).toInt ≠ a.toInt - b.toInt - (b2n (!c) : Int))⟩) := by
  have e2 : a - b - BitVec.ofNat 32 (b2n (!c)) = BitVec.ofInt 32 (a.toInt - b.toInt - (b2n (!c) : Int)) := by
    rw [Int.sub_eq_add_neg, Int.sub_eq_add_neg, BitVec.ofInt_add, BitVec.ofInt_add]
    simp [BitVec.ofInt_neg, BitVec.sub_eq_add_neg]
  simp only [subWith, zeroNeg, overflows_iff, e2]

end Sys2Proof.Machine
end

