-- ==== Sys2Proof/Laws/Memory.lean ====
section
/-! SUPPORT. Laws of HBM: every operation that writes it keeps its canonical form, reset's memory has it, and what a byte reads
after a write. -/

namespace Sys2Proof.Machine

theorem hbmSet_wf (m : Mem) (a : Nat) (v : Byte) (h : Mem.wf m = true) : Mem.wf (hbmSet m a v) = true := swf_sset hbm0 m a v h

theorem hbmPut_wf (m : Mem) (a : Nat) (bs : List Byte) (h : Mem.wf m = true) : Mem.wf (hbmPut m a bs) = true :=
  swf_sputs hbm0 bs m a h

theorem hbmPutWord_wf (m : Mem) (a : Nat) (v : DWord) (h : Mem.wf m = true) : Mem.wf (hbmPutWord m a v) = true :=
  hbmPut_wf m a _ h

theorem sclear_wf (m : Mem) (a n : Nat) (h : Mem.wf m = true) : Mem.wf (sclear m a n) = true := swf_sclear hbm0 m a n h

theorem putPage_wf (page : Nat) (cells : List Host.Cell) (m : Mem) (h : Mem.wf m = true) : Mem.wf (putPage page cells m) = true := by
  unfold putPage
  have : ∀ (cs : List Host.Cell) (x : Mem), Mem.wf x = true →
      Mem.wf (cs.foldl (fun m c => hbmSet m (4096 * page + c.1) c.2) x) = true := by
    intro cs
    induction cs with
    | nil => exact fun x hx => hx
    | cons c r ih => exact fun x hx => ih _ (hbmSet_wf x _ _ hx)
  exact this cells _ (sclear_wf m _ _ h)

theorem putMem_ok (a : Nat) (bs : List Byte) (s : State) (h : Safety.MemOk s) : Safety.MemOk (putMem a bs s) := hbmPut_wf s.mem a bs h

theorem putWord_ok (a : Nat) (v : DWord) (s : State) (h : Safety.MemOk s) : Safety.MemOk (putWord a v s) := putMem_ok a _ s h

theorem clearMem_ok (a n : Nat) (s : State) (h : Safety.MemOk s) : Safety.MemOk (clearMem a n s) := sclear_wf s.mem a n h

theorem restorePage_ok (page : Nat) (s : State) (h : Safety.MemOk s) : Safety.MemOk (restorePage page s) := by
  unfold restorePage
  split
  · split
    · exact h
    · exact putPage_wf page _ s.mem h
  · exact h

theorem onDev_ok (f : Dev → Dev) (s : State) (h : Safety.MemOk s) : Safety.MemOk (onDev f s) := h

/-- The memory after reset is in its canonical form. -/
theorem reset_mem_wf : Mem.wf State.reset.mem = true := rfl

/-- A byte reads what was written at it, and any other byte as before. -/
theorem hbmByte_hbmSet (m : Mem) (a b : Nat) (v : Byte) : hbmByte (hbmSet m a v) b = if a = b then v else hbmByte m b :=
  sget_sset hbm0 m a v b

theorem hbmByte_hbmPut (m : Mem) (a b : Nat) (bs : List Byte) :
    hbmByte (hbmPut m a bs) b = if a ≤ b ∧ b < a + bs.length then bs.getD (b - a) (hbm0 b) else hbmByte m b :=
  sget_sputs hbm0 bs m a b

theorem hbmByte_putMem (a b : Nat) (bs : List Byte) (s : State) :
    hbmByte (putMem a bs s).mem b = if a ≤ b ∧ b < a + bs.length then bs.getD (b - a) (hbm0 b) else hbmByte s.mem b :=
  hbmByte_hbmPut s.mem a b bs

theorem hbmByte_clearMem (a n b : Nat) (s : State) :
    hbmByte (clearMem a n s).mem b = if a ≤ b ∧ b < a + n then hbm0 b else hbmByte s.mem b :=
  sget_sclear hbm0 s.mem a n b

theorem length_bytesOf (n v : Nat) : (bytesOf n v).length = n := by
  induction n generalizing v with
  | zero => rfl
  | succ k ih => simp [bytesOf, ih]

end Sys2Proof.Machine
end

