-- ==== Sys2Proof/Tests/Slice0.lean ====
section
/-! SUPPORT. Tests: ill-formed commands that WellFormed refuses, a state and operands that meet the hypotheses of each statement, and
small checks of single commands whose results are worked out by hand from the rules named beside them. -/

namespace Sys2Proof.Tests

open Sys2Proof.Machine Sys2Proof.Safety

-- Evaluated one after the other: side by side they would take more threads than a bounded memory gives.
set_option Elab.async false

/-- The module past its boot sequence with fields of its control space changed. -/
def after (fs : List (Fld × Nat)) : State :=
  let d := { State.reset.dev with pw := { State.reset.dev.pw with vinGood := true, refclk := true, tbclk := true, bootStep := 9 } }
  setDev State.reset (fs.foldl (fun d f => setF d f.1 f.2) d)

/-- A change of a state's device. -/
def also (s : State) (f : Dev → Dev) : State := setDev s (f s.dev)

/-- The command goes on, and the state it leaves is as said. -/
def leaves (c : Instr) (s : State) (p : State → Bool) : Bool :=
  match exec c s with
  | .next t => p t
  | .fault _ => false
  | .refused _ => false

/-- Guide core 0 runs at program word 0 with these registers and ST. -/
def core0 (w : Store Word) (st : Word) : State :=
  also (after [(GCORE_CTL_RUN 0, 1)]) fun d => setCore d 0 { gcore0 0 with w := w, st := st }

/-- A register of core 0. -/
def reg (n : Nat) (t : State) : Word := getW (coreOf t.dev 0) n

/-! ## Ill-formed commands are refused -/

/-- A routing word of a flit that came on this rope, for position 0. -/
def rxOn (rope : BitVec 5) : Rx := ⟨rope, 0, false, 0, true, 0, false⟩

theorem wf_registerWrite_width : wellFormed (.registerWrite .dap 3 0 0) = false := by decide
theorem wf_railOutOfWindow_code : wellFormed (.railOutOfWindow 12) = false := by decide
theorem wf_patrolScrub_range : wellFormed (.patrolScrub 0x300000000) = false := by decide
theorem wf_hold_rope : wellFormed (.hold (rxOn 18)) = false := by decide
theorem wf_mode_rope : wellFormed (.mode (rxOn 31) 0 0 0 0 0 0) = false := by decide
theorem wf_ropeLost_arrival_rope : wellFormed (.ropeLost (rxOn 18) 0 0) = false := by decide
theorem wf_ropeLost_named_rope : wellFormed (.ropeLost (rxOn 0) 0 18) = false := by decide
theorem wf_signal_rope : wellFormed (.signal (rxOn 18) false [⟨0, 0, true⟩]) = false := by decide
theorem wf_signal_empty : wellFormed (.signal (rxOn 0) false []) = false := by decide
theorem wf_signal_long : wellFormed (.signal (rxOn 0) false (List.replicate 13 ⟨0, 0, true⟩)) = false := by decide
theorem wf_heartbeat_rope : wellFormed (.heartbeat 18 0 0 0 false) = false := by decide
theorem wf_lcTrain_rope : wellFormed (.lcTrain 18 0 0 false 0 false) = false := by decide
theorem wf_lcTrain_peer_rope : wellFormed (.lcTrain 0 0 18 false 0 false) = false := by decide
theorem wf_parity_rope : wellFormed (.parity (rxOn 18) 0 [⟨0, 0⟩]) = false := by decide
theorem wf_parity_count : wellFormed (.parity (rxOn 0) 0 []) = false := by decide
theorem wf_rebuildWords_rope : wellFormed (.rebuildWords (rxOn 18) 0 [⟨0, 0⟩]) = false := by decide
theorem wf_rebuildWords_count : wellFormed (.rebuildWords (rxOn 0) 0 (List.replicate 3 ⟨0, 0⟩)) = false := by decide
theorem wf_bar2Read_none : wellFormed (.bar2Read 0 0 0) = false := by decide
theorem wf_bar2Read_long : wellFormed (.bar2Read 0 0 4097) = false := by decide
theorem wf_bar2Write_none : wellFormed (.bar2Write 0 0 []) = false := by decide
theorem wf_hostPpSqTail_entry : wellFormed (.hostPpSqTail .dap 0 0 [[]]) = false := by decide
theorem wf_loadPart_long : wellFormed (.loadPart (.host 0 0) (List.replicate (2 ^ 40) 0) false) = false := by
  simp only [wellFormed, List.length_replicate]; decide
theorem wf_auxReply_long : wellFormed (.auxReply 0 (List.replicate 17 0)) = false := by decide
theorem wf_audioFrame_slots : wellFormed (.audioFrame 0 (List.replicate 7 0) .none) = false := by decide

/-! ## The table's words -/

/-- No row of the opcode table has bits, so no word spells a command, and none reaches the queue through a word. -/
theorem test_no_word_decodes : decodeTableWord 14 0 = none ∧ State.reset.withFetchWord 14 0 = State.reset := ⟨rfl, rfl⟩

/-! ## Instructions of the guide cores (R321-R334), worked out by hand -/

/-- ST after reset is 0x50; Z, N, C and V are bits 0 to 3 (R317). -/
theorem test_add_wraps : leaves (.add 0 [] 1 2) (core0 [(1, 0xFFFFFFFF#32), (2, 1#32)] 0x50#32)
    (fun t => reg 1 t == 0#32 && (coreOf t.dev 0).st == 0x55#32 && (coreOf t.dev 0).pc == 1#20) = true := by decide
theorem test_add_overflows : leaves (.add 0 [] 1 1) (core0 [(1, 0x40000000#32)] 0x50#32)
    (fun t => reg 1 t == 0x80000000#32 && (coreOf t.dev 0).st == 0x5A#32) = true := by decide
theorem test_adc_takes_carry : leaves (.adc 0 [] 1 2) (core0 [(1, 5#32), (2, 7#32)] 0x54#32)
    (fun t => reg 1 t == 13#32 && (coreOf t.dev 0).st == 0x50#32) = true := by decide
theorem test_sub_borrow_clears_c : leaves (.sub 0 [] 1 2) (core0 [(1, 3#32), (2, 5#32)] 0x54#32)
    (fun t => reg 1 t == 0xFFFFFFFE#32 && (coreOf t.dev 0).st == 0x52#32) = true := by decide
theorem test_sbc_takes_borrow : leaves (.sbc 0 [] 1 2) (core0 [(1, 5#32), (2, 5#32)] 0x50#32)
    (fun t => reg 1 t == 0xFFFFFFFF#32 && (coreOf t.dev 0).st == 0x52#32) = true := by decide
theorem test_cmp_keeps_rd : leaves (.cmp 0 [] 1 2) (core0 [(1, 9#32), (2, 9#32)] 0x50#32)
    (fun t => reg 1 t == 9#32 && (coreOf t.dev 0).st == 0x55#32) = true := by decide
theorem test_and_keeps_c_and_v : leaves (.and 0 [] 1 2) (core0 [(1, 0xF0#32), (2, 0x0F#32)] 0x5C#32)
    (fun t => reg 1 t == 0#32 && (coreOf t.dev 0).st == 0x5D#32) = true := by decide
theorem test_lsl_by_32 : leaves (.lsl 0 [] 1 2) (core0 [(1, 1#32), (2, 32#32)] 0x50#32)
    (fun t => reg 1 t == 0#32 && (coreOf t.dev 0).st == 0x55#32) = true := by decide
theorem test_lsr_by_33 : leaves (.lsr 0 [] 1 2) (core0 [(1, 0x80000000#32), (2, 33#32)] 0x54#32)
    (fun t => reg 1 t == 0#32 && (coreOf t.dev 0).st == 0x51#32) = true := by decide
theorem test_asr_by_40 : leaves (.asr 0 [] 1 2) (core0 [(1, 0x80000000#32), (2, 40#32)] 0x50#32)
    (fun t => reg 1 t == 0xFFFFFFFF#32 && (coreOf t.dev 0).st == 0x56#32) = true := by decide
theorem test_shi_by_0_keeps_c : leaves (.shi 0 [] 0 1) (core0 [(1, 0x80000000#32)] 0x54#32)
    (fun t => reg 1 t == 0x80000000#32 && (coreOf t.dev 0).st == 0x56#32) = true := by decide
theorem test_mul_signed_overflow : leaves (.mul 0 [] 1 2) (core0 [(1, 0x10000#32), (2, 0x10000#32)] 0x54#32)
    (fun t => reg 1 t == 0#32 && (coreOf t.dev 0).st == 0x5D#32) = true := by decide
theorem test_div_truncates : leaves (.div 0 [] 1 2) (core0 [(1, 0xFFFFFFF9#32), (2, 2#32)] 0x50#32)
    (fun t => reg 1 t == 0xFFFFFFFD#32) = true := by decide
theorem test_div_by_zero_traps : leaves (.div 0 [] 1 2) (also (core0 [(1, 7#32)] 0x50#32) fun d =>
    setCore d 0 { coreOf d 0 with ssp := 0x1000#32 })
    (fun t => reg 1 t == 7#32 && (coreOf t.dev 0).cause == 5#32 && (coreOf t.dev 0).pc == 40#20) = true := by decide
theorem test_divu_by_zero_without_dze : leaves (.divu 0 [] 1 2) (core0 [(1, 7#32)] 0x10#32)
    (fun t => reg 1 t == 0#32 && (coreOf t.dev 0).st == 0x19#32) = true := by decide
theorem test_movi_sign_extends : leaves (.movi 0 [] 0x3F 1) (core0 [] 0x50#32) (fun t => reg 1 t == 0xFFFFFFFF#32) = true := by decide
theorem test_addi_with_prefix : leaves (.addi 0 [1] 0 1) (core0 [(1, 1#32)] 0x50#32)
    (fun t => reg 1 t == 65#32 && (coreOf t.dev 0).pc == 2#20) = true := by decide
theorem test_st_waits_in_the_buffer : leaves (.st 0 [] 2 false 1 2) (core0 [(1, 0x11223344#32), (2, 0x100#32)] 0x50#32)
    (fun t => (coreOf t.dev 0).sbuf == [⟨0x3000000100, [0x44#8, 0x33#8, 0x22#8, 0x11#8]⟩]) = true := by decide
theorem test_ld_of_a_byte_zero_extends : leaves (.ld 0 [] 0 false 1 2)
    (also (core0 [(1, 0xAAAAAAAA#32)] 0x50#32) fun d => { d with dsram := [] }) (fun t => reg 1 t == 0#32) = true := by decide
theorem test_branch_not_taken : leaves (.branch 0 [] 0 5) (core0 [] 0x50#32) (fun t => (coreOf t.dev 0).pc == 1#20) = true := by decide
theorem test_branch_taken : leaves (.branch 0 [] 0 5) (core0 [] 0x51#32) (fun t => (coreOf t.dev 0).pc == 6#20) = true := by decide
theorem test_jmp_backward_wraps : leaves (.jmp 0 [] 0x1FF) (core0 [] 0x50#32) (fun t => (coreOf t.dev 0).pc == 0#20) = true := by decide
theorem test_call_links : leaves (.call 0 [] 8) (core0 [] 0x50#32)
    (fun t => (coreOf t.dev 0).pc == 9#20 && reg 14 t == 1#32) = true := by decide
theorem test_loop_of_zero_skips : leaves (.loop 0 [3] 1) (core0 [] 0x50#32)
    (fun t => (coreOf t.dev 0).pc == 5#20 && loopDepth (coreOf t.dev 0) == 0) = true := by decide
theorem test_push_moves_the_stack : leaves (.push 0 [] 1) (also (core0 [(1, 6#32)] 0x50#32) fun d =>
    setCore d 0 { coreOf d 0 with ssp := 0x1000#32 }) (fun t => reg 15 t == 0xFFC#32) = true := by decide
theorem test_neg_of_the_lowest : leaves (.neg 0 [] 1) (core0 [(1, 0x80000000#32)] 0x50#32)
    (fun t => reg 1 t == 0x80000000#32 && (coreOf t.dev 0).st == 0x5A#32) = true := by decide
theorem test_sexth : leaves (.sexth 0 [] 1) (core0 [(1, 0x18000#32)] 0x50#32) (fun t => reg 1 t == 0xFFFF8000#32) = true := by decide
theorem test_clz_of_zero : leaves (.clz 0 [] 1) (core0 [] 0x50#32) (fun t => reg 1 t == 32#32) = true := by decide
theorem test_rev : leaves (.rev 0 [] 1) (core0 [(1, 0x01020304#32)] 0x50#32) (fun t => reg 1 t == 0x04030201#32) = true := by decide
theorem test_mfs_of_st : leaves (.mfs 0 [] 0 1) (core0 [] 0x53#32) (fun t => reg 1 t == 0x53#32) = true := by decide
theorem test_mts_in_user_mode_writes_flags : leaves (.mts 0 [] 0 1) (core0 [(1, 0xFFFFFFFF#32)] 0x40#32)
    (fun t => (coreOf t.dev 0).st == 0x4F#32) = true := by decide
theorem test_sc_without_reservation : leaves (.sc 0 [] 1) (core0 [(1, 6#32)] 0x51#32)
    (fun t => (coreOf t.dev 0).st == 0x50#32 && (coreOf t.dev 0).sbuf.isEmpty) = true := by decide
theorem test_illegal_word : leaves (.illegal 0 []) (also (core0 [] 0x50#32) fun d => setCore d 0 { coreOf d 0 with ssp := 0x1000#32 })
    (fun t => (coreOf t.dev 0).cause == 2#32 && (coreOf t.dev 0).pc == 16#20) = true := by decide
theorem test_reserved_condition_stops : exec (.branch 0 [] 15 0) (core0 [] 0x50#32) = .fault .reservedEncoding := by rfl

/-! ## Commands of the block -/

theorem test_register_write_of_a_byte_is_ignored (v : Word) : exec (.registerWrite .dap 1 0 v) State.reset = .next State.reset := by rfl
theorem test_id_reads : leaves (.readClear .dap true ⟨4, 0⟩) State.reset (fun t => t.dev.busRead == 0x4B4E9600#32) = true := by decide
theorem test_reset_n_holds_the_module : leaves .resetN State.reset (fun t => !alive t.dev) = true := by decide
theorem test_vaux_loss_stops_the_module : leaves .vauxLoss State.reset (fun t => !alive t.dev) = true := by decide
theorem test_kick_reloads : leaves (.kick .dap 3 0xC1A0) (after [(whole (TMR_WDT_LOAD 3), 77)])
    (fun t => getR t.dev (TMR_WDT_COUNT 3) == 77#32) = true := by decide +kernel
theorem test_swi_makes_its_source_pending : leaves (.swi .dap 3) (after [])
    (fun t => sget (fun _ => false) t.dev.icu.pend 259) = true := by decide
theorem test_claim_of_nothing : leaves (.claim .dap false 0) (after []) (fun t => t.dev.busRead == 0x80000000#32) = true := by decide +kernel
theorem test_count_tick : leaves (.countTick 2) (after [(whole (TMR_COUNT 2), 5), (whole (TMR_TOP 2), 9)])
    (fun t => getR t.dev (TMR_COUNT 2) == 6#32) = true := by decide
theorem test_alarm_in_the_past_rings : leaves .alarm (also (after []) fun d => { d with tm := { d.tm with alarmArmed := true } })
    (fun t => sget (fun _ => false) t.dev.icu.pend 7 && !t.dev.tm.alarmArmed) = true := by decide
theorem test_gpio_set : leaves (.gpioSet .dap false 0x5) (after [])
    (fun t => flag t.dev (GPIO_PIN_OUT 0) && !flag t.dev (GPIO_PIN_OUT 1) && flag t.dev (GPIO_PIN_OUT 2)) = true := by decide
theorem test_dma_of_no_bytes_ends : leaves (.dmaStart .dap 1 1) (after [])
    (fun t => !flag t.dev (DMA_STAT_BUSY 1) && flag t.dev (DMA_STAT_DONE 1)) = true := by decide
theorem test_mailbox_go_fills : leaves (.mbxSendGo (.core 3) 1 1) (after []) (fun t => mbFull t.dev 1 3) = true := by decide
theorem test_mailbox_release_empties : leaves (.mbxRxRelease (.core 1) 1 3)
    (also (after []) fun d => { d with mbxFull := [(39, true)] }) (fun t => t.dev.mbxFull.isEmpty) = true := by decide
theorem test_hpd_irq : leaves (.hpdChange .irq) (after []) (fun t => flag t.dev VID_DP_STAT_IRQ_HPD) = true := by decide
theorem test_debug_halt : leaves (.debugHalt .dap 1) (after []) (fun t => flag t.dev DBG_HALT_HALTED && !granted t.dev) = true := by decide +kernel
theorem test_idcode_selects : leaves .idcode State.reset (fun t => t.dev.dbg.ir == 1) = true := by decide
theorem test_bar2_write_reaches_hbm : leaves (.bar2Write 0 0x1700000000 [7, 0, 9]) (after [])
    (fun t => t.mem == [(0x1700000000, 7), (0x1700000002, 9)]) = true := by decide +kernel
theorem test_port_link_up : leaves (.portLinkUp 1 4 8) (after []) (fun t => flag t.dev (HOST_PP_STAT_LINK_UP 1) &&
    sget (fun _ => false) t.dev.icu.pend 9) = true := by decide
theorem test_idle_step_is_one_tick : (match step (after []) with | .next t => t.dev.ticks == 1 | .fault _ => false | .refused _ => false) = true := by
  decide +kernel

/-! ## The hypotheses of the statements can be met: one state and operands for each clause, at a bound where it has one -/

/-- The supply and reset pins (SupplyAndResetEventsComplete). -/
theorem witness_supply : State.reset.dev.pw.vauxGood = true ∧ State.reset.dev.pw.resetN = true ∧ alive State.reset.dev = true ∧
    (also State.reset fun d => { d with pw := { d.pw with resetN := false } }).dev.pw.resetN = false ∧
    (also State.reset fun d => { d with pw := { d.pw with vauxGood := false } }).dev.pw.vauxGood = false := by decide

/-- A rail that has been in its window, the last and VIN (PowerControllerCommandsComplete). -/
theorem witness_power : let s := also State.reset fun d => { d with pw := { d.pw with railSeen := 0xFFF } }
    alive s.dev = true ∧ (11 : BitVec 4).toNat ≠ 0 ∧ (11 : BitVec 4).toNat < 12 ∧ bitOf s.dev.pw.railSeen 11 = true ∧
      bitOf s.dev.pw.railSeen 0 = true := by decide

/-- Each step of the boot sequence is next in some state (BootSequenceCommandsComplete). -/
theorem witness_boot :
    (let s := after []
    alive s.dev = true ∧ mode s.dev = 0 ∧ s.dev.pw.tbclk = true ∧ flag s.dev SYS_READY_CFG = false) ∧ kncfFail [] ≠ 0 ∧
    (let s := after [(SYS_READY_CFG, 1)]
     mode s.dev = 0 ∧ s.dev.pw.vinGood = true ∧ flag s.dev SYS_READY_CFG = true ∧ flag s.dev SYS_READY_BASECAMP = false ∧
      flag s.dev SYS_READY_HBM = false) ∧
    (let s := after [(SYS_READY_HBM, 1)]
     flag s.dev SYS_READY_HBM = true ∧ s.dev.pw.vinGood = true ∧ flag s.dev SYS_READY_CKP = false) ∧
    (∀ r : Fin 2, let s := also (after [(SYS_ROLE_ROLE, r.val)]) fun d => { d with pw := { d.pw with bootWindow := true } }
     mode s.dev = 0 ∧ s.dev.pw.bootWindow = true ∧ s.dev.md.trans = none ∧ isMgr s.dev = decide (r.val = 1)) := by decide

/-- TimerCommandsComplete: a timer with no gate, a selected master event, an armed alarm in the past. -/
theorem witness_timers :
    (let s := after [(whole (TMR_CAPSEL 15), 64)]
    alive s.dev = true ∧ writable s.dev (.core 31) = true ∧ slaveOf s.dev 0 ≠ 1 ∧ slaveOf s.dev 0 ≠ 3 ∧ slaveOf s.dev 15 ≠ 1 ∧
      slaveOf s.dev 15 ≠ 3 ∧ captures s.dev 15 0 none = true) ∧
    (let s := also (after []) fun d => { d with tm := { d.tm with alarmArmed := true } }
     s.dev.tm.alarmArmed = true ∧ get2 s.dev TMR_ALARM_LO ≤ sysTime s.dev) := by decide

/-- WatchdogCommandsComplete: watchdog 31 counts and stands at WARN. -/
theorem witness_watchdog : (0xC1A0#32).toNat % 65536 = 0xC1A0 ∧ (0xC1A1#32).toNat % 65536 ≠ 0xC1A0 ∧
    (let s := after [(TMR_WDT_CTL_ENABLE 31, 1), (GCORE_CTL_RUN 31, 1), (whole (TMR_WDT_WARN 31), 7), (whole (TMR_WDT_COUNT 31), 7)]
     writable s.dev .dap = true ∧ watchdogCounts s.dev 31 = true ∧ getR s.dev (TMR_WDT_WARN 31) ≠ 0#32 ∧
      (getR s.dev (TMR_WDT_WARN 31)).toNat ≤ (getR s.dev (TMR_WDT_COUNT 31)).toNat) := by decide

/-- PinCommandsComplete: a good bank, a pin whose level changes, each sense. -/
theorem witness_pins : (∀ sense : Fin 3, let s := also (after [(ICU_SRC_SENSE 160, sense.val)]) fun d => { d with pw := { d.pw with vioA := true } }
    alive s.dev = true ∧ bankGood s.dev 0 = true ∧ sget (fun _ => false) s.dev.pins.ext 0 = !true ∧
      (padOut s.dev 0).enable = false ∧ senseOf s.dev 160 = sense.val) := by decide +kernel

/-- InterruptCommandsComplete and ClaimSelectsHighestPriority: nothing to claim, and the last source pending with core 0 its target. -/
theorem witness_interrupts : writable (after []).dev .dap = true ∧ bestSource (after []).dev 31 = none ∧
    (let s := also (after [(ICU_SRC_PRIO 319, 15), (ICU_SRC_TARGET 319, 0)]) fun d =>
      { d with icu := { d.icu with pend := [(319, true)] } }
     writable s.dev (.core 0) = true ∧ bestSource s.dev 0 = some 319) := by decide +kernel

/-- GuideCoreControlCommandsComplete and CoreControlAndProgramPortComplete: a stopped core with no buffered store, RESET, ICINV and DCINV
written, AUTOINC 0 and 1 at the last word. -/
theorem witness_core_control : (35#32).getLsbD 0 = true ∧ (35#32).getLsbD 1 = true ∧ (2#32).getLsbD 0 = false ∧ (2#32).getLsbD 1 = true ∧
    (100#32).getLsbD 1 = false ∧ (100#32).getLsbD 5 = true ∧ (100#32).getLsbD 6 = true ∧ (100#32).getLsbD 2 = true ∧
    (∀ inc : Fin 2, let s := after [(GCORE_PSEL_CORE, 31), (GCORE_PSEL_ADDR, 65535), (GCORE_PSEL_AUTOINC, inc.val)]
     writable s.dev .dap = true ∧ (coreOf s.dev 31).sbuf = [] ∧ popcount (eccMask s.dev (eccKey 7 (65536 * 31))) < 2 ∧
      flag s.dev GCORE_PSEL_AUTOINC = decide (inc.val = 1) ∧ progWritable s.dev 31 = true ∧ flag s.dev (GCORE_CTL_DET 31) = false) := by
  decide +kernel

/-- MailboxAndParkingCommandsComplete: core 0 waits and may park; a parked core has been woken; a free channel of another core. -/
theorem witness_parking :
    (let s := also (after [(GCORE_CTL_RUN 0, 1), (MBX_CTL_PARK 0, 1)]) fun d =>
      setCore d 0 { gcore0 0 with waiting := true }
     granted s.dev = true ∧ flag s.dev (MBX_CTL_PARK 0) = true ∧ parked s.dev 0 = false ∧ coreState s.dev 0 = 2 ∧
      (coreOf s.dev 0).sbuf = [] ∧ (coreOf s.dev 0).loads = [] ∧ presents s.dev 0 = false ∧ s.dev.cn.nmi = false) ∧
    (let s := also (after [(MBX_CTL_PARKED 31, 1)]) fun d => setCore d 31 { gcore0 31 with wake := true }
     granted s.dev = true ∧ parked s.dev 31 = true ∧ (coreOf s.dev 31).wake = true) ∧
    (writable (after []).dev (.core 3) = true ∧ senderOf (.core 3) = some 3 ∧ (1#32).getLsbD 0 = true ∧
      mbFull (after []).dev 31 3 = false ∧ (35#32).toNat % 64 < 36) := by decide +kernel

/-- GuideMemoryEventsComplete: a store to HBM and one to an SRAM, an outstanding load, a line of cached program in HBM. -/
theorem witness_guide_memory :
    (let s := also (after []) fun d => setCore d 31 { gcore0 31 with
      sbuf := [⟨0x1000, [1]⟩], loads := [⟨[(1, 2#32)]⟩] }
     granted s.dev = true ∧ (coreOf s.dev 31).sbuf = ⟨0x1000, [1]⟩ :: [] ∧ regionOf 0x1000 = some 0 ∧
      (coreOf s.dev 31).loads = ⟨[(1, 2#32)]⟩ :: []) ∧ regionOf 0x3000000100 = some 2 ∧
    (let s := after [(GCORE_CTL_RUN 0, 1), (GCORE_PBASE_VALID 0, 1)]
     executing s.dev 0 = true ∧ detMode s.dev 0 = false ∧ flag s.dev (GCORE_PBASE_VALID 0) = true ∧
      programAddr s.dev 0 (32 * 0x800) < hbmSize ∧ sget (fun _ => []) (coreOf s.dev 0).ic 0x800 = [] ∧
      (hbmRead (programAddr s.dev 0 (32 * 0x800)) 64 s).1 = .data (List.replicate 64 0)) := by decide +kernel

/-- CoreEntryEventsComplete: a core with IE set and a source for it; the NMI; a request and a resume. -/
theorem witness_core_entry :
    (let s := also (core0 [] 0x70#32) fun d => { setF d (ICU_SRC_PRIO 319) 15 with icu := { d.icu with pend := [(319, true)] } }
     granted s.dev = true ∧ endWait 0 s = s ∧ executing s.dev 0 = true ∧ extDue s.dev 0 = true ∧ nmiDue s.dev 0 = false) ∧
    (let s := also (core0 [] 0x50#32) fun d => { d with cn := { d.cn with nmi := true } }
     granted s.dev = true ∧ endWait 0 s = s ∧ executing s.dev 0 = true ∧ nmiDue s.dev 0 = true) ∧
    writable (after []).dev .dap = true ∧ (8#32).getLsbD 2 = false ∧ (8#32).getLsbD 3 = true ∧ (4#32).getLsbD 2 = true ∧
    (4#32).getLsbD 3 = false := by decide +kernel

/-- DmaCommandsComplete: channel 15 free, with no bytes and with one; busy, stopped before its end. -/
theorem witness_dma : (∀ n : Fin 2, let s := after [(DMA_LEN_LEN 15, n.val), (whole (DMA_SRC_LO 15), 0x1000), (whole (DMA_DST_LO 15), 0x2000)]
     writable s.dev .dap = true ∧ flag s.dev DBG_HALT_HALTED = false ∧ (1#32).getLsbD 0 = true ∧ flag s.dev (DMA_STAT_BUSY 15) = false ∧
      engineStopped s.dev = false ∧ dmaParamBad s.dev 15 = false ∧ getF s.dev (DMA_LEN_LEN 15) = n.val) ∧
    (let s := after [(DMA_STAT_BUSY 15, 1), (DMA_LEN_LEN 15, 64)]
     granted s.dev = true ∧ flag s.dev (DMA_STAT_BUSY 15) = true ∧ engineStopped s.dev = false ∧ writable s.dev .dap = true ∧
      (2#32).getLsbD 1 = true ∧ flag s.dev DBG_HALT_HALTED = false ∧ (63#24).toNat < getF s.dev (DMA_LEN_LEN 15)) := by decide +kernel

/-- FloatCommandsComplete: each operation passes the checks of Float; one is busy. -/
theorem witness_float : (∀ op : Fin 3, let s := after [(FLOAT_OP_OP, op.val), (FLOAT_SIZE_W, 1), (FLOAT_SIZE_H, 8192),
      (FLOAT_DPITCH_PITCH, 16), (FLOAT_SPITCH_PITCH, 16)]
     writable s.dev .dap = true ∧ flag s.dev DBG_HALT_HALTED = false ∧ (1#32).getLsbD 0 = true ∧ flag s.dev FLOAT_STAT_BUSY = false ∧
      engineStopped s.dev = false ∧ floatCheck (floatOp s.dev) = 0 ∧ getF s.dev FLOAT_OP_OP = op.val) ∧
    (let s := after [(FLOAT_STAT_BUSY, 1)]
     writable s.dev .dap = true ∧ granted s.dev = true ∧ (2#32).getLsbD 1 = true ∧ flag s.dev FLOAT_STAT_BUSY = true ∧
      engineStopped s.dev = false ∧ flag s.dev DBG_HALT_HALTED = false) := by decide +kernel

/-- VideoCommandsComplete: the bridge enabled, the last line but one with and without a line list, a capture port that binds queue 1 and
one that is bound, an AUX request and its reply, a change of HPD. -/
theorem witness_video :
    (∀ en : Fin 2, let s := after [(VID_CTRL_ENABLE, 1), (SYS_MODE_MODE, 3), (SYS_READY_VID, 1), (VID_LL_BASE_EN, en.val), (VID_VTIM_VACTIVE, 1080)]
      let s := also s fun d => { d with inForce := d.regs }
      granted s.dev = true ∧ flag s.dev VID_CTRL_ENABLE = true ∧ mode s.dev ≠ 0 ∧ flag s.dev SYS_READY_VID = true ∧
      writable s.dev .dap = true ∧ (1#32).getLsbD 0 = true ∧ (1079#12).toNat < getSh s.dev VID_VTIM_VACTIVE ∧ getSh s.dev VID_LL_BASE_EN = en.val) ∧
    flag (after [(VID_C_CFG_EN 3, 1)]).dev (VID_C_CFG_EN 3) = true ∧
    (let s := also (after [(VID_C_SIZE_W 3, 1), (VID_C_SIZE_H 3, 1), (VID_C_PITCH_BYTES 3, 32)]) fun d =>
      { d with qu := { d.qu with desc := [(1, { desc0 1 with bound := true, fromDesign := true })] } }
     let v := BitVec.ofNat 32 (2 ^ 0 + 1 * 2 ^ (VID_C_CFG_QUEUE 3).lo + 1 * 2 ^ (VID_C_CFG_FMT 3).lo)
     writable s.dev .dap = true ∧ flag s.dev (VID_C_CFG_EN 3) = false ∧ v.getLsbD 0 = true ∧
      captureCode (setFlag (plainWrite (VID_C_CFG 3) v s.dev) (VID_C_CFG_EN 3) false) 3 = 0) ∧
    (0x80000000#32).getLsbD 31 = true ∧ flag (plainWrite VID_AUX_CMD 0x80000000#32 (after []).dev) VID_AUX_STAT_BUSY = false ∧
    (let s := after [(VID_AUX_STAT_BUSY, 1)]
     alive s.dev = true ∧ flag s.dev VID_AUX_STAT_BUSY = true ∧ (6#3).toNat ≠ 7 ∧ (List.replicate 16 (0 : Byte)).length ≤ 16 ∧
      flag s.dev VID_DP_STAT_HPD = !true) := by decide +kernel

/-- AudioCommandsComplete: a locked clock, a gain change that has waited, a clock-slave port with and without FSYNC. -/
theorem witness_audio :
    (let s := after [(AUD_STAT_LOCK, 1), (SYS_MODE_MODE, 3), (AUD_P_CFG_EN 1, 1)]
     alive s.dev = true ∧ flag s.dev AUD_STAT_LOCK = true ∧ mode s.dev ≠ 0 ∧ writable s.dev .dap = true ∧ granted s.dev = true ∧
      flag s.dev (AUD_P_CFG_EN 1) = true) ∧
    (let s := also (after [((gainFlds 31).1, 100), ((gainFlds 31).2, 5)]) fun d => setPath d 31 { path0 31 with wait := some 5 }
     alive s.dev = true ∧ (pathOf s.dev 31).wait = some 5 ∧ (pathOf s.dev 31).cur ≠ gainTarget s.dev 31 ∧ max 1 (getF s.dev (gainFlds 31).2) ≤ 5) ∧
    (∀ gone : Bool, let s := also (after [(AUD_P_CFG_EN 1, 1), (AUD_P_CFG_MASTER 1, 0)]) fun d => setAud d 1 { aud0 1 with absent := gone }
      alive s.dev = true ∧ flag s.dev (AUD_P_CFG_EN 1) = true ∧ flag s.dev (AUD_P_CFG_MASTER 1) = false ∧ (audOf s.dev 1).absent = gone) := by
  decide +kernel

/-- TapCommandsComplete and DebugCommandsComplete: no request, a read and a write that wait; REQ written 1 and 0. -/
theorem witness_debug :
    State.reset.dev.pw.vauxGood = true ∧ State.reset.dev.dbg.request = none ∧ (1#80).toNat % 4 = 1 ∧ (2#80).toNat % 4 = 2 ∧
    (∀ r : Fin 2, let s := also (after []) fun d => { d with dbg := { d.dbg with request := some (BitVec.ofNat 80 (r.val + 1)) } }
      writable s.dev .dap = true ∧ s.dev.dbg.request = some (BitVec.ofNat 80 (r.val + 1))) ∧
    (1#32).getLsbD 0 = true ∧ (2#32).getLsbD 0 = false ∧ writable (after []).dev (.core 31) = true := by decide +kernel

/-- RegisterAccessCommandsComplete: the last register, a narrow write, an odd offset. -/
theorem witness_registers : writable (after []).dev (.port 3) = true ∧ (0xFFFFFC#32).toNat % 4 = 0 ∧ (0xFFFFFC#32).toNat < 0x1000000 ∧
    (1#4 ≠ 4#4 ∨ (1#32).toNat % 4 ≠ 0) ∧ (4#4 = 4#4 ∧ (1#32).toNat % 4 ≠ 0) ∧ (8#4 ≠ 4) := by decide +kernel

/-- CairnAndVisibilityCommandsComplete: the first and the last source, a window that counts, acknowledgement 4, GO; each mode of a mask
write. -/
theorem witness_cairn :
    (let s := after [(whole (CAIRN_WIN_C 3), 1)]
     alive s.dev = true ∧ (0x24#8).toNat ≠ 0 ∧ (0x24#8).toNat ≤ 0x24 ∧ (0x24#8).toNat ≠ 0x16 ∧ (0x24#8).toNat ≠ 0x19 ∧
      windowsCount s.dev = true ∧ getR s.dev (CAIRN_WIN_C 3) ≠ 0#32 ∧ writable s.dev .dap = true ∧ (4#3).toNat < 5 ∧
      bitOf (0x1000#32).toNat 12 = true) ∧
    (∀ m : Fin 8, mode (after [(SYS_MODE_MODE, m.val)]).dev = m.val) := by decide +kernel

/-- Rope 0 is up; position 1 sends to this device, which stands at position 0. -/
def linked (fs : List (Fld × Nat)) : State := after ((LINK_RP_STAT_STATE 0, 2) :: (SYS_EXTENT_PARTIES, 1) :: fs)

/-- What the link layer gives of a flit from position 1. -/
def from1 : Rx := ⟨0, 0, false, 1, true, 0, false⟩


/-- RunControlFlitsComplete: at the manager, whose partition map gives position 1 partition 1. -/
theorem witness_run_control :
    let s := also (linked [(SYS_ROLE_ROLE, 1)]) fun d => setMap 1 1 true d
    (∀ sub : Fin 8, Delivered 0x13 sub.val from1 s) ∧ Delivered 0x21 0 from1 s ∧ Delivered 0x20 2 from1 s ∧ Delivered 0x20 25 from1 s ∧
    isMgr (taken 0x13 1 from1 (at8 8 7) s) = true ∧ isMgr (taken 0x13 3 from1 (at8 8 7) s) = true ∧
    partOf (taken 0x13 4 from1 0 s) 1 = some 1 ∧ (0#16).toNat = getF (taken 0x21 0 from1 (at8 8 7) s) TRV_STATUS_RESTORES ∧
    partOf (taken 0x21 0 from1 (at8 8 7) s) 1 = some 1 := by
  unfold Delivered; decide +kernel

/-- FabricCommandsComplete: tile 255 idle behind an open gate, and at its end; a value on its way; an access of each kind to be completed; a
host wait over its limit; a stall. -/
theorem witness_fabric :
    let base := fun fs => after ((SYS_MODE_MODE, 3) :: (SYS_EXTENT_PARTIES, 1) :: (SYS_PARTITION_VALID, 1) :: (TRV_LENGTH_N, 16) :: fs)
    (let s := also (base []) fun d => { d with hs := { d.hs with imageHeld := true } }
     granted s.dev = true ∧ fabricRuns s.dev = true ∧ (tileOf s.dev 255).inTrav = false ∧ s.dev.hs.imageHeld = true ∧
      flag s.dev TRV_STATUS_HOLD = false ∧ gateOpen s.dev (tileOf s.dev 255).count = true) ∧
    (let s := also (base []) fun d => setTile d 255 { tile0 255 with inTrav := true, step := 16 }
     mayEnd (drainSends 255 s.dev) 255 = true) ∧
    (∀ b : Bool, let s := also (base []) fun d => { d with fab := { d.fab with
        net := [⟨0, false, true, 0⟩], acc := [⟨1023, b, false, 0, 0, 0, 0, false⟩] } }
     s.dev.fab.net[0]? = some ⟨0, false, true, 0⟩ ∧ s.dev.md.c4Hold = false ∧
      readyAccess s.dev.fab.acc 1023 = some ⟨1023, b, false, 0, 0, 0, 0, false⟩) ∧
    (let s := also (base [(TRV_HOSTWAIT_LIMIT, 1)]) fun d => { d with tv := { d.tv with ownWaits := [8191] } }
     s.dev.tv.ownWaits = 8191 :: [] ∧ getF s.dev TRV_HOSTWAIT_LIMIT ≠ 0) ∧
    (let s := base [(TRV_STALL_ENABLE, 1)]
     (mode s.dev = 3 ∨ mode s.dev = 5 ∨ mode s.dev = 6) ∧ flag s.dev TRV_STALL_ENABLE = true ∧ flag s.dev TRV_STATUS_HOLD = false ∧
      flag s.dev TRV_STATUS_HOSTWAIT_SYS = false ∧ flag s.dev DBG_HALT_HALTED = false ∧ holds s.dev = true) := by decide +kernel

/-- ModeEventsComplete: a replay that ends at the manager and elsewhere, a loss that settles, a worker without a manager, a stranded
device. -/
theorem witness_mode_events :
    (∀ r : Fin 2, let s := also (after [(SYS_MODE_MODE, 5), (SYS_ROLE_ROLE, r.val)]) fun d => { d with vs := { d.vs with rplEnding := true } }
      granted s.dev = true ∧ mode s.dev = 5 ∧ s.dev.md.trans = none ∧ s.dev.vs.rplEnding = true ∧ isMgr s.dev = decide (r.val = 1)) ∧
    (let s := also (after [(SYS_MODE_MODE, 3)]) fun d => { d with rs := { d.rs with settling := true }, md := { d.md with stranded := true } }
     alive s.dev = true ∧ s.dev.rs.settling = true ∧ granted s.dev = true ∧ isMgr s.dev = false ∧
      (mode s.dev = 3 ∨ mode s.dev = 5 ∨ mode s.dev = 6) ∧ flag s.dev TRV_STATUS_HOLD = false ∧ s.dev.md.stranded = true) := by
  decide +kernel

/-- LinkCommandsComplete: rope 17 in training, up with an unacknowledged flit, and for the periods. -/
theorem witness_links :
    (let s := also (after [(LINK_RP_STAT_STATE 17, 1)]) fun d => setRope d 17 { rope0 17 with wired := true, expPos := 16 }
     alive s.dev = true ∧ (ropeOf s.dev 17).wired = true ∧ getF s.dev (LINK_RP_STAT_STATE 17) = 1) ∧
    (let s := also (after [(LINK_RP_STAT_STATE 17, 2)]) fun d =>
      setRope d 17 { rope0 17 with wired := true, expPos := 16, rxLanes := 0xFF, replay := [mkFlit d 0x15 0 16 true 0] }
     ropeUp s.dev 17 = true ∧ (ropeOf s.dev 17).replay = mkFlit (after [(LINK_RP_STAT_STATE 17, 2)]).dev 0x15 0 16 true 0 :: [] ∧
      (ropeOf s.dev 17).rxLanes.getLsbD 7 = true ∧ isLost s.dev (ropeOf s.dev 17).expPos = false ∧ flag s.dev DBG_HALT_HALTED = false) ∧
    getF (after [(LINK_RETRAIN_PERIOD, 1)]).dev LINK_RETRAIN_PERIOD ≠ 0 ∧ DiscardCause.crc ≠ .sequence := by decide +kernel

/-- LinkWritesAndTimeComplete: rope 17, both reasons of a freeze, an unknown BELAY, a worker beside its manager at position 1. -/
theorem witness_time :
    writable (after []).dev .dap = true ∧ (17#5).toNat < 18 ∧
    bitOf (0x101#32).toNat 0 = true ∧ bitsOf (0x101#32).toNat 15 8 = 1 ∧ bitOf (0x201#32).toNat 0 = true ∧ bitsOf (0x201#32).toNat 15 8 = 2 ∧
    (let s := also (linked [(SYS_TOPOLOGY_MGR_POS, 1)]) fun d => setRope d 0 { rope0 0 with wired := true, expPos := 1, expRope := 14 }
     alive s.dev = true ∧ granted s.dev = true ∧ ropeUp s.dev 0 = true ∧ knownBelay s.dev 1023 255 = false ∧ isLost s.dev 1023 = false ∧
      (ropeOf s.dev 0).wired = true ∧ (2#2).toNat ≠ 3 ∧ timeParent (syncParent s.dev) = some (1, 0) ∧ ropeUp (syncParent s.dev) 0 = true ∧
      silenced (syncParent s.dev) (mkFlit (syncParent s.dev) 0x16 0 1 true (at8 8 7)) = false ∧
      (let d := freeBuffer 0 0 0 true (acceptSeq 0 s.dev)
       silenced d (mkFlit d 0x16 1 (getF d (LINK_RP_STAT_PEER 0)) true (at8 8 1 + at8 16 2 + at8 24 3)) = false ∧
        timeParent d = some (1, 0))) := by decide +kernel

/-- A flit from position 1 is delivered, whatever its type. -/
theorem delivered_from1 (ty sub : Nat) : Delivered ty sub from1 (linked []) := by
  unfold Delivered; exact ⟨by decide +kernel, by decide +kernel, .inl (by decide +kernel), by decide +kernel⟩

/-- It is delivered to the manager, which requests a checkpoint. -/
def asking : State := also (linked [(SYS_ROLE_ROLE, 1)]) fun d => { d with ck := { d.ck with requesting := true } }

/-- CheckpointCommandsComplete: a holder that is not the manager, the manager while it asks, a restore under way. -/
theorem witness_checkpoints :
    (let s := linked [(SYS_PARTITION_VALID, 1)]
     Delivered 0x14 0 from1 s ∧ isMgr (taken 0x14 0 from1 0 s) = false ∧ holds (taken 0x14 0 from1 0 s) = true ∧
      Delivered 0x14 4 from1 s ∧ isMgr (taken 0x14 4 from1 (ckpctl 1 2 0) s) = false) ∧
    (Delivered 0x14 1 from1 asking ∧ isMgr (taken 0x14 1 from1 (ckpctl 0 9 0) asking) = true ∧
      (taken 0x14 1 from1 (ckpctl 0 9 0) asking).ck.requesting = true) ∧
    (let s := also (after []) fun d => { d with ck := { d.ck with rollEnd := true } }
     granted s.dev = true ∧ s.dev.ck.rollEnd = true) := by
  unfold Delivered; decide +kernel

/-- ParityCommandsComplete: one and two entries, and the reserved three; a request of this GENERATION. -/
theorem witness_parity : granted (linked []).dev = true ∧ 1 ≤ [(⟨0, 0⟩ : DeltaEntry)].length ∧ (List.replicate 2 (⟨0, 0⟩ : DeltaEntry)).length ≤ 2 ∧
    (List.replicate 3 (⟨0, 0⟩ : DeltaEntry)).length = 3 ∧ Ordered 13 from1 0 1 (5 + 2 ^ 63) 0 (linked []) ∧
    Ordered 14 from1 0 1 (2 ^ 63) 9 (linked []) := by
  unfold Ordered Delivered; decide +kernel

/-- A flit from position 1 for partition 0, which this device holds. -/
def from1part : Rx := { from1 with dkind := false }

/-- A device whose partition 0 others reach. -/
def holder : State := also (linked [(SYS_PARTITION_VALID, 1)]) fun d => setMap 0 0 true d

/-- QueueCommandsComplete: by position at the manager, and by partition at the holder. -/
theorem witness_queues : writable (after []).dev .dap = true ∧ flag (after []).dev DBG_HALT_HALTED = false ∧
    (∀ sub : Fin 5, Delivered 0x30 sub.val from1 asking ∧ Delivered 0x30 sub.val from1part holder) ∧ from1.dkind = true ∧
    from1part.dkind = false ∧ isMgr (taken 0x30 0 from1 (queueBody 8191 0 false 5 6) asking) = true := by
  unfold Delivered; decide +kernel

/-- FaultAndTriggerFlitsComplete: the manager takes each. -/
theorem witness_fault_flits : (∀ sub : Fin 3, Delivered 0x15 sub.val from1 asking) ∧ (∀ sub : Fin 65, Delivered 0x17 sub.val from1 asking) ∧
    isMgr (taken 0x17 64 from1 (at8 8 5 + at8 16 63) asking) = true := by
  unfold Delivered; decide +kernel

/-- SystemControlFlitsComplete: this GENERATION at a worker and at a manager that recovers, and a TAKEOVER of the next one. -/
theorem witness_system_control :
    (∀ sub : Fin 13, Ordered sub.val from1 0 0 0 0 (linked [])) ∧
    Delivered 0x12 10 from1 (linked []) ∧
    (0x1000#16).toNat / 4096 = (generation (taken 0x12 10 from1 (sysBody 0x1000 1 0 0) (linked [])) + 1) % 16 ∧
    (let b := sysBody 0 0 0 0
     myPos (taken 0x12 12 from1 b (linked [])) = 0 ∧ role (taken 0x12 12 from1 b (linked [])) = 0) ∧
    (let s := also (linked [(SYS_ROLE_ROLE, 1)]) fun d => { d with rs := { d.rs with recovering := true, rollK := 9 } }
     let b := sysBody 0 0 9 12
     Ordered 9 from1 0 0 0 0 s ∧ isMgr (taken 0x12 9 from1 (sysBody 0 0 0 0) s) = true ∧
     Ordered 11 from1 0 0 9 12 s ∧ isMgr (taken 0x12 11 from1 b s) = true ∧ (taken 0x12 11 from1 b s).rs.recovering = true ∧
      9 = (taken 0x12 11 from1 b s).rs.rollK) ∧
    Delivered 0x12 15 from1 (linked []) := by
  unfold Ordered Delivered; decide +kernel

/-- ResilienceTimersComplete: the manager, a deputy whose census ends, a stranded device. -/
theorem witness_resilience : (granted asking.dev = true ∧ isMgr asking.dev = true ∧ mode asking.dev ≠ 7) ∧
    (let s := also (after [(SYS_ROLE_ROLE, 2)]) fun d => { d with rs := { d.rs with census := some ⟨2, []⟩ }, md := { d.md with stranded := true } }
     granted s.dev = true ∧ s.dev.rs.census = some ⟨2, []⟩ ∧ role s.dev = 2 ∧ s.dev.md.stranded = true) := by decide +kernel

/-- HostRingCommandsComplete: port 3, no GO under way; a ring of 16 entries with 15 new ones; a completion ring to come. -/
theorem witness_host_rings :
    (let s := after [(HOST_PP_SQ_CFG_SIZE_LOG2 3, 4)]
     writable s.dev (.port 3) = true ∧ (1#32).getLsbD 0 = true ∧ mailboxGo s.dev 3 = false ∧
      (List.replicate 15 (List.replicate 16 (0 : Word))).length = ringNew s.dev 3 ((15#32).toNat % 4096)) ∧
    (0x10#32).toNat % 16 = 0 ∧ (0x4#32).toNat % 16 ≠ 0 ∧ ringSize (getF (after []).dev (HOST_PP_CQ_CFG_SIZE_LOG2 3)) = 0 := by decide +kernel

/-- PartnerPortEventsComplete: a link that is down, a read, a write outside and one inside a protected part. -/
theorem witness_ports :
    alive (after []).dev = true ∧ flag (after []).dev (HOST_PP_STAT_LINK_UP 3) = false ∧ 1 ≤ (5#3).toNat ∧ (5#3).toNat ≤ 5 ∧
    [1, 4, 8].contains (8#4).toNat = true ∧ writable (after []).dev (.port 3) = true ∧
    (hbmRead 0x17FFFFFFFF 1 (after [])).1 = .data [0] ∧ 0x17FFFFFFFF < hbmSize ∧ 0x17FFFFFFFF % 4096 + [(0 : Byte)].length ≤ 4096 ∧
    protectedAt (after []).dev 0x1000 = false ∧
    (let s := after [(CKP_AREA_SIZE_GIB, 1)]
     protectedAt s.dev (areaBase s.dev 6) = true ∧ areaBase s.dev 6 < hbmSize ∧ areaBase s.dev 6 % 4096 + 1 ≤ 4096) := by decide +kernel

/-- A descriptor with an opcode, TAG 5 and parameters. -/
def descr (op : Nat) (ps : List Nat) : List Word := BitVec.ofNat 32 (op + 5 * 65536) :: 0 :: ps.map (BitVec.ofNat 32)

/-- The reference of a command of port 0 under TAG 5. -/
def ref5 : CmdRef := .host 0 5

/-- An accepted command of port 0 that has not begun. -/
def cmd5 (op : Nat) (ps : List Nat) : Cmd := ⟨ref5, descr op ps, 0, 0, 0⟩

/-- The device runs that command. -/
def accepted5 (fs : List (Fld × Nat)) (c : Cmd) : State :=
  also (after ((SYS_ROLE_ROLE, 1) :: (SYS_EXTENT_PARTIES, 1) :: fs)) fun d => setPort d 0 { port0 0 with active := [c] }

/-- ExecutorCommandsComplete: each command accepted, a slice of a read moved, every partition accepted in LOAD. -/
theorem witness_executor :
    (∀ op : Fin 4, cmdFor (accepted5 [] (cmd5 (op.val + 1) [])).dev ref5 (op.val + 1) = some (cmd5 (op.val + 1) [])) ∧
    (let c : Cmd := { cmd5 0x30 [0, 0, 64] with moved := 1 }
     findCmd (accepted5 [] c).dev ref5 = some c ∧ opcodeOf c.desc ∈ [0x30, 0x31, 0x32, 0x33, 0x34] ∧ c.slices < c.moved) ∧
    (let s := accepted5 [(SYS_MODE_MODE, 2)] (cmd5 1 [])
     granted s.dev = true ∧ isMgr s.dev = true ∧ mode s.dev = 2 ∧ s.dev.md.trans = none ∧ loadDone s.dev = true) := by decide +kernel

/-- Every readiness bit of R283. -/
def ready : List (Fld × Nat) := [(SYS_READY_CFG, 1), (SYS_READY_HBM, 1), (SYS_READY_LINK, 1), (SYS_READY_TOPO, 1), (SYS_READY_TSYNC, 1),
  (SYS_READY_CKP, 1), (SYS_READY_VIS, 1)]

/-- ModeCommandsComplete: each in a mode that takes it; a RESUME and a REPLAY with a checkpoint to go to. -/
theorem witness_mode_commands :
    (∀ x ∈ [(0x10, 1), (0x12, 2), (0x13, 4), (0x20, 4), (0x21, 4), (0x22, 3), (0x23, 7), (0x24, 4), (0x25, 5)],
      let c := cmd5 x.1 [1, 0, 0, 0, 0, 1]
      let s := also (accepted5 ((SYS_MODE_MODE, x.2) :: (whole TRV_COUNT_LO, 9) :: ready) c) fun d => { d with
        ck := { d.ck with kept := [⟨1, 0, [], [], [], [], [], 0⟩] }
        jr := { d.jr with wr := 0 } }
      let d := onCmd ref5 (fun c => { c with moved := 1, slices := 1 }) s.dev
      granted s.dev = true ∧ cmdFor s.dev ref5 x.1 = some c ∧ c.moved = 0 ∧ ownChecks s.dev c.desc = 0 ∧ leavesFreeze d = false ∧
        canResume d = true ∧ replayErr d c.desc = 0) := by decide +kernel

/-- TransferCommandsComplete: the last bytes of HBM, fabric items, data of the right length. -/
theorem witness_transfers :
    (let c := cmd5 0x30 [0, 0, 8, 0, 0xFFFFFFF8, 0x17]
     let s := accepted5 [] c
     granted s.dev = true ∧ lengthOf c.desc ≠ 0 ∧ cmdFor s.dev ref5 0x30 = some c ∧ param2 c.desc 4 % 2 ^ 37 + lengthOf c.desc ≤ hbmSize ∧
      (hbmSlice (param2 c.desc 4 % 2 ^ 37 + c.bytes) (sliceBytes ref5 1 (lengthOf c.desc - c.bytes)) s).1.waits = false) ∧
    (let c := cmd5 0x31 [0, 0, 8, 0, 0xFFFFFFF8, 0x17]
     let s := accepted5 [] c
     cmdFor s.dev ref5 0x31 = some c ∧ lengthOf c.desc ≠ 0 ∧ param2 c.desc 4 % 2 ^ 37 + lengthOf c.desc ≤ hbmSize ∧
      writeData ref5 c (List.replicate 8 0) s.dev = some (List.replicate 8 0)) ∧
    (let c := cmd5 0x32 [0, 0, 8, 0, 0, 131071]
     let s := accepted5 [] c
     cmdFor s.dev ref5 0x32 = some c ∧ lengthOf c.desc ≠ 0 ∧ fabricRange c.desc = true ∧
      (fabricItems 0 (sliceBytes ref5 8 8 / 8) 131071 s.dev).2.1 = false) ∧
    (let c := cmd5 0x33 [0, 0, 8, 0, 0, 131071]
     let s := accepted5 [] c
     cmdFor s.dev ref5 0x33 = some c ∧ lengthOf c.desc ≠ 0 ∧ fabricRange c.desc = true ∧
      writeData ref5 c (List.replicate 8 0) s.dev = some (List.replicate 8 0)) ∧
    (∀ rpl : Fin 2, let c := cmd5 0x34 [0, 0, 8, 0, rpl.val, 0, 0]
     let s := accepted5 [(VIS_TRACE_AREA_SIZE_GIB, 1), (VIS_RPL_AREA_SIZE_GIB, 1)] c
     cmdFor s.dev ref5 0x34 = some c ∧ lengthOf c.desc ≠ 0 ∧
      param2 c.desc 5 + lengthOf c.desc ≤ (if rpl.val == 1 then getF s.dev VIS_RPL_AREA_SIZE_GIB * 2 ^ 30 - 2 ^ 24
        else getF s.dev VIS_TRACE_AREA_SIZE_GIB * 2 ^ 30) ∧
      (hbmSlice ((if rpl.val == 1 then get2 s.dev VIS_RPL_BASE_LO else get2 s.dev VIS_TRACE_BASE_LO) + param2 c.desc 5 + c.bytes)
        (sliceBytes ref5 1 8) s).1.waits = false) := by decide +kernel

/-- An image of 64 bytes: the header of R310 with N = 16, for partition 0, no section. -/
def image0 : List Byte :=
  let h := bytesOf 4 0x4D494E4B ++ [0, 1] ++ bytesOf 2 0 ++ bytesOf 8 64 ++ bytesOf 2 0 ++ bytesOf 2 16 ++ List.replicate 40 0
  h ++ bytesOf 4 (crc32 h)

/-- With no step words, no tile writes a SAMPLE record. -/
theorem no_samples {im : Img} (h : im.steps = []) (t : Nat) : sampleCount im t = 0 := by
  have hw : ∀ e s, kindOf (imgStep im t e s) ≠ 4 := by
    intro e s; simp only [imgStep, h, List.find?_nil]; decide
  have hq : ∀ s, ((List.range 512).filterMap fun e => let w := imgStep im t e s
      if kindOf w == 4 then some (dstOf w / 32, dstOf w / 8 % 4) else none) = [] := by
    intro s; simp [hw]
  unfold sampleCount
  simp only [hq, List.getLast?_nil]
  induction List.range im.n <;> simp_all

/-- An image with no sections has no violation. -/
theorem no_violations {d : Dev} {im : Img} (h : im.steps = []) (hw : (im.windows.zipIdx.filter fun w => w.1.2 != 0) = [])
    (hq : im.queues = []) (m : Nat) :
    violations d im true 0 m = [] := by
  simp [violations, alwaysViols, no_samples h, hw, hq, relayBindings]

/-- The image in it: nothing but N. -/
def im0 : Img := ⟨0, 16, 0, 0, [], [], List.replicate 16384 0, List.replicate 256 (0, 0), [], [], [], [], none⟩

/-- The manager in LOAD, which holds partition 0 and runs its LOAD_PART; image checking is off. -/
def loading : State :=
  also (accepted5 [(SYS_MODE_MODE, 2), (SYS_PARTITION_VALID, 1)] (cmd5 0x11 [0, 0, 64, 0, 0])) fun d =>
    { d with hs := { d.hs with noCheck := true, loadN := 16 } }

/-- A field of bytes that are all 0 is 0. -/
theorem u32_zeros (n k : Nat) : u32 (List.replicate n 0#8) k = 0 := by
  have h : ∀ m, natOf (List.replicate m 0#8) = 0 := by
    intro m; induction m with
    | zero => rfl
    | succ m ih => simp [List.replicate_succ, natOf, ih]
  simp only [u32, List.drop_replicate, List.take_replicate, h]

/-- The image passes every check there. -/
theorem image0_passes : checkImage loading.dev image0 0 true none none 0 0 = .ok im0 := by
  have hs : knimSections (u16 image0 6) ((image0.take (u64 image0 8)).drop 64) = some [] := by decide +kernel
  have hw : ((List.range 256).map fun t => (u32 (List.replicate 2048 0#8) (8 * t), u32 (List.replicate 2048 0#8) (8 * t + 4))) =
      List.replicate 256 (0, 0) := by
    rw [show (fun t => (u32 (List.replicate 2048 0#8) (8 * t), u32 (List.replicate 2048 0#8) (8 * t + 4))) = fun _ => (0, 0) from
      funext fun t => by rw [u32_zeros, u32_zeros]]; decide +kernel
  have hi : imgOf image0 [] = some im0 := by
    have h16 : u16 image0 16 = 0 := by decide +kernel
    have h18 : u16 image0 18 = 16 := by decide +kernel
    have h20 : u8 image0 20 = 0 := by decide +kernel
    have h24 : u64 image0 24 = 0 := by decide +kernel
    simp [-List.reduceReplicate, imgOf, bodyOf, recordsOf, ascending, runsApart, h16, h18, h20, h24, im0]; exact hw
  have hv : violations loading.dev im0 true 0 0 = [] := no_violations rfl (by decide +kernel) rfl 0
  unfold checkImage
  refine (if_neg (by decide +kernel)).trans ?_
  refine (if_neg (by decide +kernel)).trans ?_
  refine (if_neg (by decide +kernel)).trans ?_
  refine (if_neg (by decide +kernel)).trans ?_
  refine (if_neg (by decide +kernel)).trans ?_
  refine (if_neg (by decide +kernel)).trans ?_
  refine (if_neg (by decide +kernel)).trans ?_
  refine (if_neg (by decide +kernel)).trans ?_
  simp only [hs, hi, hv, List.any_nil, firstViol]
  exact (if_neg (by decide +kernel)).trans ((if_neg (by decide +kernel)).trans (if_pos trivial))

/-- LoadPartAndAttachComplete: that load, the sending of partition 1, a bound queue and relay entry 0. -/
theorem witness_load :
    (let s := loading
     let c := cmd5 0x11 [0, 0, 64, 0, 0]
     granted s.dev = true ∧ findCmd s.dev (.host 0 5) = some c ∧ opcodeOf c.desc = 0x11 ∧ mode s.dev = 2 ∧ c.moved = 0 ∧ holds s.dev = true ∧
      myPart s.dev = param c.desc 4 ∧ image0.take (lengthOf c.desc) = image0 ∧ param c.desc 4 = 0 ∧ s.dev.hs.noCheck = true ∧
      s.dev.hs.relayQs.length = 0 ∧ (if isMgr s.dev then myPart s.dev else 1024) = 0 ∧
      isMgr s.dev = true ∧ myPart s.dev ≠ 1 ∧ s.dev.hs.loadN ≠ 0 ∧ mgrRefusal s.dev image0 1 = none) ∧
    (∀ relay : Fin 2, let c := cmd5 0x40 [8191 * (1 - relay.val) + relay.val * 2 ^ 31]
     let s := also (accepted5 [(QUE_RCOUNT_COUNT, 1)] c) fun d => { d with qu := { d.qu with
         desc := [(8191, { desc0 8191 with bound := true, owner := 32 })], rdesc := [(0, { desc0 0 with owner := 32 })] } }
     let q := param c.desc 0 % 8192
     cmdFor s.dev ref5 0x40 = some c ∧ bitOf (param c.desc 0) 31 = decide (relay.val = 1) ∧
      (relay.val = 0 → (qdesc s.dev q).bound = true ∧ (qdesc s.dev q).owner = attachOwner ref5 s.dev) ∧
      (relay.val = 1 → isMgr s.dev = true ∧ q < getF s.dev QUE_RCOUNT_COUNT ∧ (rdesc s.dev q).owner = attachOwner ref5 s.dev)) := by
  decide +kernel

/-- RelayFlitsComplete: every KIND and SRC but the reserved one, at any device. -/
theorem witness_relay : Delivered 0x10 0 from1 (linked []) ∧ Delivered 0x11 0 from1 (linked []) ∧ Delivered 0x32 2 from1 (linked []) ∧
    Delivered 0x31 2 from1 (linked []) ∧ (2#8).toNat ≤ 2 ∧ (1#8).toNat ≤ 1 ∧ (2#2).toNat ≠ 3 :=
  ⟨delivered_from1 _ _, delivered_from1 _ _, delivered_from1 _ _, delivered_from1 _ _, by decide, by decide, by decide⟩

/-! ## A core that is ready to issue -/

/-- Core 0 with registers 1 and 2, SSP and ST, at program word 0. -/
def core12 (a b ssp st : Word) : State := also (core0 [(1, a), (2, b)] st) fun d => setCore d 0 { coreOf d 0 with ssp := ssp }

/-- It fetches an instruction with these prefixes next, and the fetch leaves the state. -/
def fetchesNow (ext : List (BitVec 10)) (s : State) : Bool :=
  granted s.dev && (coreOf s.dev 0).waiting == false && executing s.dev 0 && !nmiDue s.dev 0 && !extDue s.dev 0 &&
    decide (fetchAll 0 ((List.range (min 4 (ext.length + 1))).map fun i => ((coreOf s.dev 0).pc + BitVec.ofNat 20 i).toNat) s = (.ok, s))

/-- Nothing stops an instruction of this form. -/
def issues (ext : List (BitVec 10)) (full : GCore → Bool) (s : State) (fm : Form) : Bool :=
  (illegalDetail ext fm).isNone && !fm.bad && (coreOf s.dev 0).loads.isEmpty && !full (coreOf s.dev 0) &&
    (breakHit s.dev 0 (coreOf s.dev 0).pc).isNone

/-- Such a fetch is one of any form. -/
theorem fetches_of {ext : List (BitVec 10)} {s : State} (h : fetchesNow ext s = true) (fm : Form) : Fetches 0 ext fm s s := by
  simp only [fetchesNow, Bool.and_eq_true, Bool.not_eq_true', beq_iff_eq, decide_eq_true_eq] at h
  obtain ⟨⟨⟨⟨⟨h1, h2⟩, h3⟩, h4⟩, h5⟩, h6⟩ := h
  exact ⟨h1, by simp [endWait, h2], h3, .inr ⟨h4, h5⟩, h6⟩

/-- A core that fetches and issues is Ready, whatever the form among those checked. -/
theorem ready_of {ext : List (BitVec 10)} {full : GCore → Bool} {s : State} {l : List Form}
    (h : (fetchesNow ext s && l.all (issues ext full s)) = true) : ∀ fm ∈ l, Ready 0 ext fm full s s := by
  intro fm hm
  obtain ⟨hf, h⟩ := Bool.and_eq_true .. ▸ h
  have h := List.all_eq_true.mp h fm hm
  simp only [issues, Bool.and_eq_true, Bool.not_eq_true', Option.isNone_iff_eq_none, List.isEmpty_iff] at h
  obtain ⟨⟨⟨⟨h7, h8⟩, h9⟩, h10⟩, h11⟩ := h
  exact ⟨fetches_of hf fm, h7, h8, by simp [h9], h10, h11⟩

/-- The forms of the register class with Rd 1 and Rs 2, and of the unary and immediate instructions on Rd 1. -/
def forms12 : List Form :=
  [moveForm (readsS [] 2) 1, aluForm [] 1 2, { aluForm [] 1 2 with readsFlags := true }, compareForm (1 :: readsS [] 2),
    { aluForm [] 1 2 with mul := true }, { aluForm [] 1 2 with div := true }, { plainForm [1] [1] with prefixes := false },
    plainForm [1] [1], unaryForm 1 true, unaryForm 1 false, moveForm [] 1, compareForm [1]]

/-- RegisterClassComplete, ImmediateAndUnaryComplete and ComputingInstructionFrame: OVE is 0, so that V never traps. -/
theorem witness_register_class : let s := core12 0x7FFFFFFF#32 1#32 0#32 0x50#32
    (∀ fm ∈ forms12, Ready 0 [] fm neverFull s s) ∧ (∀ v, ((coreOf s.dev 0).st.getLsbD 7 && v) = false) ∧ stepping s.dev 0 = false :=
  ⟨ready_of (by decide +kernel), by decide +kernel, by decide +kernel⟩

/-- CLZ of ImmediateAndUnaryComplete: the count of leading zeros of 1 and of 0. -/
theorem witness_clz : (∀ j, j < 31 → (1#32).getLsbD (31 - j) = false) ∧ (1#32).getLsbD (31 - 31) = true ∧
    ∀ j, j < 32 → (0#32).getLsbD (31 - j) = false := by decide +kernel

/-- ShiftInstructionsComplete: amounts 0, 1, 31, 32 and 255. -/
theorem witness_shifts : ∀ n ∈ [0, 1, 31, 32, 255], let s := core12 5#32 (BitVec.ofNat 32 n) 0#32 0x50#32
    (∀ fm ∈ forms12, Ready 0 [] fm neverFull s s) ∧ (operandS (coreOf s.dev 0) [] 2).toNat % 256 = n := by
  simp only [List.forall_mem_cons, List.not_mem_nil, false_imp_iff, implies_true, and_true]
  exact ⟨⟨ready_of (by decide +kernel), by decide +kernel⟩, ⟨ready_of (by decide +kernel), by decide +kernel⟩,
    ⟨ready_of (by decide +kernel), by decide +kernel⟩, ⟨ready_of (by decide +kernel), by decide +kernel⟩,
    ⟨ready_of (by decide +kernel), by decide +kernel⟩⟩

/-- DivisionInstructionsComplete and OverflowRaisesOvf: 0x80000000 by -1 and by 0, with DZE and OVE 0 and 1, and sums, a product and a
negation that overflow. -/
theorem witness_division (b st : Word) (hb : b ∈ [0xFFFFFFFF#32, 0#32]) (hst : st ∈ [0x10#32, 0x50#32, 0x90#32, 0xD0#32]) :
    let s := core12 0x80000000#32 b 0#32 st
    (∀ fm ∈ forms12, Ready 0 [] fm neverFull s s) ∧ getW (coreOf s.dev 0) 1 = 0x80000000#32 ∧ operandS (coreOf s.dev 0) [] 2 = b ∧
      (coreOf s.dev 0).st = st := by
  simp only [List.mem_cons, List.not_mem_nil, or_false] at hb hst
  rcases hb with rfl | rfl <;> rcases hst with rfl | rfl | rfl | rfl <;>
    exact ⟨ready_of (by decide +kernel), by decide +kernel, by decide +kernel, by decide +kernel⟩

/-- What overflows with 0x80000000 in Rd and -1 in Rs, and in Rd and the immediate (OverflowRaisesOvf). -/
theorem witness_overflow : let a := 0x80000000#32
    let b := 0xFFFFFFFF#32
    (a + b).toInt ≠ a.toInt + b.toInt ∧ (a * b).toInt ≠ a.toInt * b.toInt ∧ (a - 1).toInt ≠ a.toInt - (1#32).toInt ∧
    (a + extended [] 6 0x3F).toInt ≠ a.toInt + (extended [] 6 0x3F).toInt ∧
    (BitVec.ofNat 32 (a.toNat + b.toNat + 0)).toInt ≠ a.toInt + b.toInt + 0 ∧
    (BitVec.ofInt 32 (a.toInt - (1#32).toInt - (1 - 0))).toInt ≠ a.toInt - (1#32).toInt - (1 - 0) ∧
    (0xD0#32).getLsbD 7 = true ∧ (0x90#32).getLsbD 6 = false := by decide +kernel

/-- MemoryInstructionsComplete: accesses of local SRAM that nothing stops, a store to a register, and SC with and without its
reservation. -/
theorem witness_memory_instructions :
    (let s := core12 0x100#32 0x200#32 0x1000#32 0x50#32
     (∀ fm ∈ [loadForm 2 true 1 2, storeForm 2 true 1 2, sysMemForm [15, 1] [15], sysMemForm [15] [15, 1], sysMemForm [1] [1],
        { sysMemForm [1] [] with setsFlags := true }, sysForm 0], Ready 0 [] fm neverFull s s) ∧
      (coreOf s.dev 0).sbuf = [] ∧ (coreOf s.dev 0).resv = none) ∧
    (let s := core12 0x100#32 0x200#32 0x1000#32 0x50#32
     watchHit s.dev 0 0x200 4 false = none ∧ watchHit s.dev 0 0x200 4 true = none ∧ watchHit s.dev 0 0xFFC 4 true = none ∧
      watchHit s.dev 0 0x1000 4 false = none ∧ watchHit s.dev 0 0x100 4 false = none ∧
      (loadData 0 0x200 4 s).1 = .data [0, 0, 0, 0] false ∧ (storeData 0 0x200 [1, 2, 3, 4] s).1 = .buffered ∧
      (storeData 0 0xFFC [1, 2, 3, 4] s).1 = .buffered ∧ (0x100 % 4 = 0 ∧ areaOf 0x100 ≠ none ∧ areaOf 0x100 ≠ some .control)) ∧
    (let s := core12 0x100#32 0xF0000000#32 0x1000#32 0x50#32
     watchHit s.dev 0 0xF0000000 4 true = none ∧ (storeData 0 0xF0000000 [1, 2, 3, 4] s).1 = .register) ∧
    (let s := also (core12 0x100#32 0x200#32 0x1000#32 0x50#32) fun d =>
       setCore d 0 { coreOf d 0 with resv := some (transferOf d 0 0x200) }
     (∀ fm ∈ [{ sysMemForm [1] [] with setsFlags := true }], Ready 0 [] fm neverFull s s) ∧
      watchHit s.dev 0 (dataOf s.dev 0 (transferOf s.dev 0 0x200)) 4 true = none) :=
  ⟨⟨ready_of (by decide +kernel), by decide +kernel, by decide +kernel⟩, by decide +kernel, by decide +kernel,
    ready_of (by decide +kernel), by decide +kernel⟩

/-- BRANCH with condition EQ at program word 0. -/
def branchForm (s : State) : Form := { plainForm [] [] with
  readsFlags := true, setsFlags := false, branch := true, ends := predictTaken s.dev (coreOf s.dev 0) 0 0, bad := (0 : BitVec 4) == 15 }

/-- LOOP with its count in a register and a body of 3 words. -/
def loopForm (rc : Nat) : Form := { sysForm 0 with
  prefixes := true, reads := [rc], illegal := if prefixValue [3] == 0 then some 2 else none }

/-- ControlInstructionsComplete: BRANCH taken and not, jumps and calls, NOP, JR with an empty and a full return stack, LOOP of 0 and of 5 with
4 levels free, BREAKL. -/
theorem witness_control :
    (let s := core12 5#32 0#32 0x1000#32 0x51#32
     (∀ fm ∈ [branchForm s, jumpForm [] [], jumpForm [] [14],
          { sysForm 0 with sys := false }, { sysForm 0 with reads := [1] }, { sysForm 0 with reads := [1], writes := [14] },
          { sysForm 0 with reads := [14] }, sysForm 0], Ready 0 [] fm neverFull s s) ∧
      (flagsOf (coreOf s.dev 0).st).z = true ∧ (coreOf s.dev 0).ras = [] ∧
      (∀ rc ∈ [1, 2], ∀ fm ∈ [loopForm rc], Ready 0 [3] fm (fun g => loopDepth g == 4 && getW g rc != 0#32) s s) ∧
      getW (coreOf s.dev 0) 1 ≠ 0#32 ∧ getW (coreOf s.dev 0) 2 = 0#32) ∧
    (let s := also (core12 5#32 0#32 0x1000#32 0x50#32) fun d => setCore d 0 { coreOf d 0 with ras := [9#20] }
     (∀ fm ∈ [{ sysForm 0 with reads := [14] }], Ready 0 [] fm neverFull s s) ∧ detMode s.dev 0 = false ∧ (coreOf s.dev 0).ras = [9#20]) := by
  refine ⟨⟨ready_of (by decide +kernel), by decide +kernel, by decide +kernel, ?_, by decide +kernel, by decide +kernel⟩,
    ready_of (by decide +kernel), by decide +kernel, by decide +kernel⟩
  intro rc hrc
  simp only [List.mem_cons, List.not_mem_nil, or_false] at hrc
  rcases hrc with rfl | rfl <;> exact ready_of (by decide +kernel)

/-- SystemInstructionsComplete, LoopEndDecidesThePc and TrapEntersVectorSeven: supervisor mode with a frame on the stack, no monitor and in
monitor mode, a core that nothing and that something wakens, every special register; ILLEGAL. -/
theorem witness_system :
    (let s := core12 5#32 0#32 0x1000#32 0x50#32
     (∀ fm ∈ { sysForm 0 with reads := [15], illegal := if supervisor (coreOf s.dev 0) then none else some 1 } ::
        sysForm 0 :: { sysForm 0 with sys := false } :: ((List.range 16).filter fun sr => (srForm (coreOf s.dev 0) sr).illegal.isNone).flatMap fun sr =>
          [{ srForm (coreOf s.dev 0) sr with reads := [1] }, { srForm (coreOf s.dev 0) sr with writes := [1] }],
        Ready 0 [] fm neverFull s s) ∧
      stackOk (coreOf s.dev 0).ssp = true ∧ (coreOf s.dev 0).ssp.toNat + 8 ≤ 0x20000 ∧ (readFrame 0 0x1000 s).1 = some (some (0, 0)) ∧
      (coreOf s.dev 0).monitor = none ∧ awakens s.dev 0 = false ∧ (coreOf s.dev 0).loads = [] ∧ (coreOf s.dev 0).sbuf.length ≤ 6 ∧
      progBad s.dev 0 56 = false ∧ stepping s.dev 0 = false ∧ (coreOf s.dev 0).pc = 0#20 ∧ loopDepth (coreOf s.dev 0) = 0 ∧
      Fetches 0 [] { sysForm 0 with illegal := some 0 } s s) ∧
    (let s := also (core12 5#32 0#32 0x1000#32 0x50#32) fun d => setCore d 0 { coreOf d 0 with monitor := some 0x1000#32 }
     (∀ fm ∈ [sysForm 0], Ready 0 [] fm neverFull s s) ∧ (coreOf s.dev 0).monitor ≠ none) ∧
    (let s := also (core12 5#32 0#32 0x1000#32 0x50#32) fun d => { setF d (ICU_SRC_PRIO 319) 15 with icu := { d.icu with pend := [(319, true)] } }
     (∀ fm ∈ [sysForm 0], Ready 0 [] fm neverFull s s) ∧ awakens s.dev 0 = true) := by
  exact ⟨⟨ready_of (by decide +kernel), by decide +kernel, by decide +kernel, by decide +kernel, by decide +kernel, by decide +kernel,
    by decide +kernel, by decide +kernel, by decide +kernel, by decide +kernel, by decide +kernel, by decide +kernel,
    fetches_of (by decide +kernel) _⟩, ⟨ready_of (by decide +kernel), by decide +kernel⟩, ready_of (by decide +kernel), by decide +kernel⟩

/-- LoopEndDecidesThePc: word 0 ends the innermost of two levels, with more to come, with none, and ends both. -/
theorem witness_loop_end (inner : Word) (outer : BitVec 20) (hi : inner ∈ [1#32, 2#32]) (ho : outer ∈ [0#20, 5#20]) :
    let s := also (core12 5#32 0#32 0x1000#32 0x50#32) fun d => setCore d 0 { coreOf d 0 with
      le := [(0, outer), (1, 0#20)], lc := [(0, 3#32), (1, inner)], st := withDepth (coreOf d 0).st 2 }
    (∀ fm ∈ [{ sysForm 0 with sys := false }], Ready 0 [] fm neverFull s s) ∧ stepping s.dev 0 = false ∧ loopDepth (coreOf s.dev 0) = 2 := by
  simp only [List.mem_cons, List.not_mem_nil, or_false] at hi ho
  rcases hi with rfl | rfl <;> rcases ho with rfl | rfl <;> exact ⟨ready_of (by decide +kernel), by decide +kernel, by decide +kernel⟩

/-- ReservedEncodingsStop: a core that fetches, whatever the form, in supervisor mode; an odd Rd; a nonzero OPD. -/
theorem witness_reserved : let s := core12 5#32 0#32 0x1000#32 0x50#32
    (∀ fm, Fetches 0 [] fm s s) ∧ supervisor (coreOf s.dev 0) = true ∧ (15#4).toNat % 2 = 1 ∧ (15#4) ≠ 0 ∧ ([] : List (BitVec 10)).length < 4 :=
  ⟨fetches_of (by decide +kernel), by decide +kernel, by decide, by decide, by decide⟩

/-- DrainWritesItsBytesOnly: a store to the last byte of HBM and one to local SRAM. -/
theorem witness_drain : ∀ a ∈ [0x17FFFFFFFF, 0x3000000000], let s := also (after []) fun d => setCore d 31 { gcore0 31 with sbuf := [⟨a, [1]⟩] }
    granted s.dev = true ∧ (coreOf s.dev 31).sbuf = ⟨a, [1]⟩ :: [] ∧
      (regionOf a = some 0 ∧ hostRegion s.dev ≤ a ∧ [(1 : Byte)] ≠ [] ∧ a + [(1 : Byte)].length ≤ hbmSize ∨ regionOf a = some 2) := by
  decide +kernel

/-- DeadModuleKeepsItsState and DebugHaltStopsEngines: RESET_N held, and a debug halt. -/
theorem witness_halts : alive (also State.reset fun d => { d with pw := { d.pw with resetN := false } }).dev = false ∧
    flag (after [(DBG_HALT_HALTED, 1)]).dev DBG_HALT_HALTED = true := by decide +kernel

/-- StepRunsTheFrontCommand, EveryStepKeepsMemory, CommandsLeaveTheQueue and PeripheralCommandsLeaveMemory: a step on a waiting command and
on an empty queue goes on, and HBM is in its canonical form. -/
theorem witness_steps : let s := { after [] with pending := [.swi .dap 3] }
    s.pending = .swi .dap 3 :: [] ∧ (after []).pending = [] ∧ (alive (after []).dev && (after []).dev.pw.tbclk) = true ∧
    (alive State.reset.dev && State.reset.dev.pw.tbclk) = false ∧ (after []).dev.par.streamTo = none ∧ Mem.wf s.mem = true ∧
    leaves (.swi .dap 3) (after []) (fun t => Mem.wf t.mem) = true ∧
    (match step s with | .next t => t.pending.isEmpty | .fault _ => false | .refused _ => false) = true := by decide +kernel

end Sys2Proof.Tests
end

section
/-! PROOF. Accesses of the control space by an agent that may make them (R5, R442), and the commands that carry them. -/

namespace Sys2Proof.Machine

open Sys2Proof.Safety

theorem whenWritable_of_writable {a : Agent} {s : State} (h : writable s.dev a = true) (f : State → State) :
    whenWritable a f s = f s := if_pos h

/-- A write of another width or off alignment writes nothing (R5). -/
theorem busWrite_ignored (a : Agent) {width off : Nat} (v : Word) (s : State) (h : width ≠ 4 ∨ off % 4 ≠ 0) :
    busWrite a width off v s = s :=
  if_pos (by simpa using h)

/-- An aligned write of 32 bits below BAR0's own part goes to the register, whoever makes it (R5, R275). -/
theorem busWrite_register (a : Agent) {off : Nat} (v : Word) (s : State) (hal : off % 4 = 0) (hoff : off < 0x1000000) :
    busWrite a 4 off v s = settle (writeReg a off v s) := by
  simp [busWrite, hal, hoff]

/-- A read of another width returns 0 and does nothing else (R5). -/
theorem busReadWide_narrow (a : Agent) (nse : Bool) {width : BitVec 4} (off : BitVec 25) (d : Dev) (h : width ≠ 4) :
    busReadWide a nse ⟨width, off⟩ d = { d with busRead := 0#32 } :=
  if_pos (bne_iff_ne.mpr h)

/-- A 32-bit read below BAR0's own part reads the register, with the reader's own shadow. -/
theorem busReadWide_register (a : Agent) (nse : Bool) {off : BitVec 25} (d : Dev) (hoff : off.toNat < 0x1000000) :
    busReadWide a nse ⟨4, off⟩ d = readReg a a nse off.toNat d := by
  simp [busReadWide, busRead, hoff]

theorem exec_registerWrite_writable {a : Agent} {s : State} (h : writable s.dev a = true) (width : BitVec 4) (off : BitVec 25)
    (v : Word) : exec (.registerWrite a width off v) s = .next (busWrite a width.toNat off.toNat v s) :=
  congrArg Host.Outcome.next (whenWritable_of_writable h _)

theorem exec_readClear_writable {a : Agent} {s : State} (h : writable s.dev a = true) (nse : Bool) (r : RegRead) :
    exec (.readClear a nse r) s = .next (setDev s (busReadWide a nse r s.dev)) :=
  congrArg Host.Outcome.next (whenWritable_of_writable h _)

theorem exec_loRead_writable {a : Agent} {s : State} (h : writable s.dev a = true) (nse : Bool) (r : RegRead) :
    exec (.loRead a nse r) s = .next (setDev s (busReadWide a nse r s.dev)) :=
  congrArg Host.Outcome.next (whenWritable_of_writable h _)

/-- Settles O19: each command is the bus access of its agent, which reaches the register only with 32 bits and the right alignment. -/
theorem registerAccessCommandsComplete : Obligations.RegisterAccessCommandsComplete := by
  intro s a hw
  refine ⟨fun off v hal hoff => ?taken, fun width off v hbad => ?ignored,
    fun nse off hoff => ⟨?clear, ?lo, fun w hne => ⟨?clearNarrow, ?loNarrow⟩⟩⟩
  case taken => rw [exec_registerWrite_writable hw, show (4#4).toNat = 4 from rfl, busWrite_register a v s hal hoff]
  case ignored =>
    have hbad' : width.toNat ≠ 4 ∨ off.toNat % 4 ≠ 0 := hbad.imp_left fun hne h => hne (BitVec.eq_of_toNat_eq h)
    rw [exec_registerWrite_writable hw, busWrite_ignored a v s hbad']
  case clear => rw [exec_readClear_writable hw, busReadWide_register a nse s.dev hoff]
  case lo => rw [exec_loRead_writable hw, busReadWide_register a nse s.dev hoff]
  case clearNarrow => rw [exec_readClear_writable hw, busReadWide_narrow a nse off s.dev hne]
  case loNarrow => rw [exec_loRead_writable hw, busReadWide_narrow a nse off s.dev hne]

end Sys2Proof.Machine
end

section
/-! PROOF. What reaches a partner port: its reset, its link, and host accesses of HBM through BAR2 (R273, R274, R276). -/

namespace Sys2Proof.Machine

open Sys2Proof.Safety

theorem whenAlive_of_alive {s : State} (h : alive s.dev = true) (f : State → State) : whenAlive f s = f s := if_pos h

/-- A link that was down comes up at a rate and a width a port trains at, and raises the port's source (R273, R352). -/
theorem linkUp_of_down {p gen width : Nat} {d : Dev} (hdown : flag d (HOST_PP_STAT_LINK_UP p) = false) (hlo : 1 ≤ gen) (hhi : gen ≤ 5)
    (hwidth : [1, 4, 8].contains width = true) :
    linkUp p gen width d = irqEvent (8 + p) (setFlag (setF (setF
      (setFlag d (HOST_PP_STAT_LINK_UP p) true) (HOST_PP_STAT_GEN p) gen) (HOST_PP_STAT_WIDTH p) width) (bitFld SYS_READY (12 + p)) true) := by
  have htrains : ¬(gen == 0 || 5 < gen || !([1, 4, 8].contains width)) = true := by
    simp only [hwidth, Bool.not_true, Bool.or_false, Bool.or_eq_true, beq_iff_eq, decide_eq_true_eq]
    omega
  simp only [linkUp, if_neg htrains, hdown, Bool.false_eq_true, if_false]

/-- A read that HBM answers is completed with its bytes (R276). -/
theorem bar2Get_of_data (p : Nat) {a n : Nat} {s s1 : State} {bs : List Byte} (h : hbmRead a n s = (.data bs, s1)) :
    bar2Get p a n s = setDev s1 (emit (.readData p bs) s1.dev) := by
  simp only [bar2Get, h, onDev]

/-- A write that stays within one page is one piece. -/
theorem pagePieces_of_one_page {a : Nat} {bs : List Byte} (h : a % 4096 + bs.length ≤ 4096) : pagePieces a bs = [(a, bs)] := by
  have hfirst : bs.take (4096 - a % 4096) = bs := List.take_of_length_le (by omega)
  simp [pagePieces, hfirst, chunksOf, chunksAux]

/-- A write of one page in a protected part is discarded, and `f` counts it (R276). -/
theorem guardedWrite_protected (f : Dev → Dev) {a : Nat} {bs : List Byte} {s : State} (hpage : a % 4096 + bs.length ≤ 4096)
    (hprot : protectedAt s.dev a = true) : guardedWrite f a bs s = setDev s (f s.dev) := by
  simp [guardedWrite, pagePieces_of_one_page hpage, each, hprot, onDev]

/-- A write of one page of HBM outside the protected parts is made (R276). -/
theorem guardedWrite_open (f : Dev → Dev) {a : Nat} {bs : List Byte} {s : State} (hpage : a % 4096 + bs.length ≤ 4096)
    (ha : a < hbmSize) (hopen : protectedAt s.dev a = false) : guardedWrite f a bs s = hbmWrite a bs s := by
  simp [guardedWrite, pagePieces_of_one_page hpage, each, hopen, Nat.not_le.mpr ha]

theorem exec_portReset_alive {s : State} (h : alive s.dev = true) (p : BitVec 2) (cause : PortResetCause) :
    exec (.portReset p cause) s = .next (settle (setDev s (resetPort p.toNat cause s.dev))) :=
  congrArg Host.Outcome.next (whenAlive_of_alive h _)

theorem exec_portLinkUp_alive {s : State} (h : alive s.dev = true) (p : BitVec 2) (gen : BitVec 3) (width : BitVec 4) :
    exec (.portLinkUp p gen width) s = .next (setDev s (linkUp p.toNat gen.toNat width.toNat s.dev)) :=
  congrArg Host.Outcome.next (whenAlive_of_alive h _)

theorem exec_bar2Read_writable {p : BitVec 2} {s : State} (h : writable s.dev (.port p) = true) (addr : BitVec 37) (len : BitVec 13) :
    exec (.bar2Read p addr len) s = .next (settle (bar2Get p.toNat addr.toNat len.toNat s)) :=
  congrArg Host.Outcome.next (whenWritable_of_writable h _)

theorem exec_bar2Write_writable {p : BitVec 2} {s : State} (h : writable s.dev (.port p) = true) (addr : BitVec 37) (data : List Byte) :
    exec (.bar2Write p addr data) s =
      .next (settle (guardedWrite (fun d => countF d (whole HOST_BAR2_DROP) 1) addr.toNat data s)) :=
  congrArg Host.Outcome.next (whenWritable_of_writable h _)

/-- Settles O33: each event has its operation's effect; a write within one page is a single guarded piece. -/
theorem partnerPortEventsComplete : Obligations.PartnerPortEventsComplete := by
  intro s p
  refine ⟨fun cause hal => exec_portReset_alive hal p cause, fun gen width hal hdown hlo hhi hwidth => ?linkUp,
    fun addr len bs s1 hw hread => ?read, fun addr data hw haddr hpage => ⟨fun hopen => ?written, fun hprot => ?discarded⟩⟩
  case linkUp => rw [exec_portLinkUp_alive hal, linkUp_of_down hdown hlo hhi hwidth]
  case read => rw [exec_bar2Read_writable hw, bar2Get_of_data _ hread]
  case written => rw [exec_bar2Write_writable hw, guardedWrite_open _ hpage haddr hopen]
  case discarded => rw [exec_bar2Write_writable hw, guardedWrite_protected _ hpage hprot]

end Sys2Proof.Machine
end

section
/-! PROOF. Supplies, reset and the boot sequence (R20, R25, R234, R297-R301, R365, R447). -/

namespace Sys2Proof.Machine

open Sys2Proof.Safety

theorem exec_vinGood_alive {s : State} (h : alive s.dev = true) :
    exec .vinGood s = .next (setDev s (railsUp { s.dev with pw := { s.dev.pw with vinGood := true } })) :=
  congrArg (fun d => Host.Outcome.next (setDev s d)) (if_pos h)

theorem exec_refclkDetected_alive {s : State} (h : alive s.dev = true) :
    exec .refclkDetected s = .next (setDev s { s.dev with pw := { s.dev.pw with
      refclk := true, tbclk := true, bootStep := max 1 s.dev.pw.bootStep } }) := by
  change Host.Outcome.next (onDev _ s) = _
  simp [onDev, h]

/-- Settles O1: each event's guard decides its branch, and the branch is the state stated. -/
theorem supplyAndResetEventsComplete : Obligations.SupplyAndResetEventsComplete := by
  intro s
  refine ⟨fun hv hr => ?reset, fun hr => ?release, fun hv => ?powerOn, rfl, exec_vinGood_alive, fun good => rfl, fun good => rfl,
    exec_refclkDetected_alive⟩
  case reset =>
    have guard : (s.dev.pw.vauxGood && s.dev.pw.resetN) = true := by rw [hv, hr]; rfl
    exact congrArg (fun d => Host.Outcome.next (setDev s d)) (if_pos guard)
  case release => exact congrArg (fun d => Host.Outcome.next (setDev s d)) (if_neg (by simp [hr]))
  case powerOn => exact congrArg (fun d => Host.Outcome.next (setDev s d)) (if_neg (by simp [hv]))

/-- What a configuration read notes of the copies and the flash, before a container is applied (R298, R300). -/
def configNoted (used failA failB : Nat) (sfdp quad : Bool) (size : Nat) (d : Dev) : Dev :=
  setF (setFlag (setF (setF (setF d NVM_STATUS_USED used) NVM_STATUS_A_FAIL failA) NVM_STATUS_B_FAIL failB)
    NVM_STATUS_QUAD (sfdp && quad)) NVM_FLASH_SIZE_LOG2 (if sfdp then size else 0)

section
variable {d : Dev} {a b : List Byte} {sfdp quad : Bool} {size : Nat}
  (hboot : mode d = 0) (hclk : d.pw.tbclk = true) (hunread : flag d SYS_READY_CFG = false)
include hboot hclk hunread

/-- Copy A is used when it is valid, and copy B is not looked at (R298). -/
theorem readConfig_copyA (ha : kncfFail a = 0) :
    readConfig a b sfdp quad size d = applyContainer a (configNoted 1 0 0 sfdp quad size d) := by
  simp [readConfig, configNoted, hboot, hclk, hunread, ha]

/-- Copy B is used when only it is valid, with source 0x1F (R300). -/
theorem readConfig_copyB (ha : kncfFail a ≠ 0) (hb : kncfFail b = 0) :
    readConfig a b sfdp quad size d = raise 0x1F 0 (applyContainer b (configNoted 2 (kncfFail a) 0 sfdp quad size d)) := by
  simp [readConfig, configNoted, hboot, hclk, hunread, ha, hb]

/-- Without a valid copy none is applied, and source 0x18 is raised (R301). -/
theorem readConfig_noCopy (ha : kncfFail a ≠ 0) (hb : kncfFail b ≠ 0) :
    readConfig a b sfdp quad size d = raise 0x18 0 (configNoted 3 (kncfFail a) (kncfFail b) sfdp quad size d) := by
  simp [readConfig, configNoted, hboot, hclk, hunread, ha, hb]

end

/-- A command that changes the device, and then whatever follows, once `f` is known of this device. -/
theorem next_settle_onDev {s : State} {f : Dev → Dev} {d : Dev} (h : f s.dev = d) :
    (.next (settle (onDev f s)) : Host.Outcome State Fault Refusal) = .next (settle (setDev s d)) := by
  subst h; rfl

theorem exec_configurationRead_alive {s : State} (h : alive s.dev = true) (a b : List Byte) (sfdp quad : Bool) (size : BitVec 8) :
    exec (.configurationRead a b sfdp quad size) s = .next (settle (onDev (readConfig a b sfdp quad size.toNat) s)) :=
  congrArg Host.Outcome.next (whenAlive_of_alive h _)

theorem exec_baseCampStart_alive {s : State} (h : alive s.dev = true) :
    exec .baseCampStart s = .next (settle (onDev startBaseCamp s)) :=
  congrArg Host.Outcome.next (whenAlive_of_alive h _)

theorem exec_hbmTrainingComplete_alive {s : State} (h : alive s.dev = true) : exec .hbmTrainingComplete s = .next (hbmTrained s) :=
  congrArg Host.Outcome.next (whenAlive_of_alive h _)

theorem exec_engineInitComplete_alive {s : State} (h : alive s.dev = true) :
    exec .engineInitComplete s = .next (onDev enginesReady s) :=
  congrArg Host.Outcome.next (whenAlive_of_alive h _)

theorem exec_bootWindowExpiry_alive {s : State} (h : alive s.dev = true) :
    exec .bootWindowExpiry s = .next (settle (onDev windowExpires s)) :=
  congrArg Host.Outcome.next (whenAlive_of_alive h _)

/-- Trained HBM is cleared, and HBM is ready (R298 step 6). -/
theorem hbmTrained_of_untrained {s : State} (hboot : mode s.dev = 0) (hvin : s.dev.pw.vinGood = true)
    (hcfg : flag s.dev SYS_READY_CFG = true) (hnew : flag s.dev SYS_READY_HBM = false) :
    (hbmTrained s).mem = sclear s.mem 0 hbmSize ∧ flag (hbmTrained s).dev SYS_READY_HBM = true := by
  have guard : (mode s.dev != 0 || !s.dev.pw.vinGood || !flag s.dev SYS_READY_CFG || flag s.dev SYS_READY_HBM) = false := by
    rw [hboot, hvin, hcfg, hnew]; rfl
  rw [hbmTrained, guard]
  exact ⟨rfl, flag_setFlag_same _ SYS_READY_HBM true rfl (by decide)⟩

/-- Setting one bit keeps every bit that is set. -/
theorem flag_setFlag_true {d : Dev} {f : Fld} (hf : f.lo = f.hi ∧ f.hi < 32) (g : Fld) (hg : g.lo = g.hi ∧ g.hi < 32)
    (h : flag d f = true) : flag (setFlag d g true) f = true := by
  obtain ⟨foff, fbit, flo⟩ := f
  obtain ⟨goff, gbit, glo⟩ := g
  obtain ⟨hfw : flo = fbit, hf⟩ := hf
  obtain ⟨hgw : glo = gbit, hg⟩ := hg
  subst hfw hgw
  by_cases hoff : goff = foff
  · subst hoff
    by_cases hbit : glo = flo
    · subst hbit
      exact flag_setFlag_same d _ true rfl hg
    · have keep := getF_setF_disjoint d ⟨goff, glo, glo⟩ ⟨goff, flo, flo⟩ (b2n true) rfl le_rfl hg le_rfl
        (Nat.lt_or_gt_of_ne (Ne.symm hbit))
      simpa only [flag, setFlag, keep] using h
  · have keep := getF_setF_other d ⟨goff, glo, glo⟩ (b2n true) ⟨foff, flo, flo⟩ hoff
    simpa only [flag, setFlag, keep] using h

/-- Setting bits one after another sets each of them, and keeps those that were set. -/
theorem flag_each_setFlag {f : Fld} (hf : f.lo = f.hi ∧ f.hi < 32) (l : List Fld) (hl : ∀ g ∈ l, g.lo = g.hi ∧ g.hi < 32) :
    ∀ d : Dev, f ∈ l ∨ flag d f = true → flag (each l (fun g d => setFlag d g true) d) f = true := by
  induction l with
  | nil => exact fun d h => h.resolve_left List.not_mem_nil
  | cons g r ih =>
    obtain ⟨hg, hr⟩ := List.forall_mem_cons.mp hl
    intro d h
    refine ih hr (setFlag d g true) ?_
    rcases h with h | h
    · rcases List.mem_cons.mp h with rfl | h
      · exact .inr (flag_setFlag_same d f true hg.1 hg.2)
      · exact .inl h
    · exact .inr (flag_setFlag_true hf g hg h)

/-- A bit of a register is as it was when only supplies and clocks change. -/
theorem flag_withPower (d : Dev) (p : Power) (f : Fld) : flag { d with pw := p } f = flag d f := rfl

/-- The engines report ready (R298 step 7); the audio clock is locked then by the model's choice (assumptions row 60). -/
theorem enginesReady_of_hbm {d : Dev} (hhbm : flag d SYS_READY_HBM = true) (hvin : d.pw.vinGood = true)
    (hnew : flag d SYS_READY_CKP = false) :
    (∀ f ∈ [SYS_READY_CKP, SYS_READY_QUE, SYS_READY_VIS, SYS_READY_VID, SYS_READY_AUD], flag (enginesReady d) f = true) ∧
      flag (enginesReady d) AUD_STAT_LOCK = true := by
  have guard : (!flag d SYS_READY_HBM || !d.pw.vinGood || flag d SYS_READY_CKP) = false := by rw [hhbm, hvin, hnew]; rfl
  have bits : ∀ f ∈ [SYS_READY_CKP, SYS_READY_QUE, SYS_READY_VIS, SYS_READY_VID, SYS_READY_AUD], f.lo = f.hi ∧ f.hi < 32 := by
    simp
  rw [enginesReady, guard]
  exact ⟨fun f hf => flag_setFlag_true (bits f hf) AUD_STAT_LOCK (by decide)
      ((flag_withPower _ _ f).trans (flag_each_setFlag (bits f hf) _ bits d (.inl hf))),
    flag_setFlag_same _ AUD_STAT_LOCK true rfl (by decide)⟩

section
variable {d : Dev} (hboot : mode d = 0) (hopen : d.pw.bootWindow = true) (hidle : d.md.trans = none)
include hboot hopen hidle

/-- The window's end at the manager: it completes the check with the devices that reported (R20). -/
theorem windowExpires_mgr (hm : isMgr d = true) :
    windowExpires d = topoCheck { d with pw := { d.pw with bootWindow := false, windowOver := true } } := by
  simp [windowExpires, hboot, hopen, hidle, hm]

/-- The window's end at another device: it stays in BOOT (R299). -/
theorem windowExpires_other (hm : isMgr d = false) :
    windowExpires d = { d with pw := { d.pw with bootWindow := false, windowOver := true } } := by
  simp [windowExpires, hboot, hopen, hidle, hm]

end

/-- Settles O3: each step's guard holds, so its operation runs; the bits it sets in SYS_READY stay set to its end. -/
theorem bootSequenceCommandsComplete : Obligations.BootSequenceCommandsComplete := by
  intro s hal
  refine ⟨fun a b sfdp quad size hboot hclk hunread => ?config, fun hboot hvin hcfg hnew => ?baseCamp,
    fun hboot hvin hcfg hnew => ?training, fun hhbm hvin hnew => ?engines, fun hboot hopen hidle => ?window⟩
  case config =>
    rw [exec_configurationRead_alive hal]
    exact ⟨fun ha => next_settle_onDev (readConfig_copyA hboot hclk hunread ha),
      fun ha hb => next_settle_onDev (readConfig_copyB hboot hclk hunread ha hb),
      fun ha hb => next_settle_onDev (readConfig_noCopy hboot hclk hunread ha hb)⟩
  case baseCamp => exact exec_baseCampStart_alive hal
  case training =>
    exact ⟨_, exec_hbmTrainingComplete_alive hal, hbmTrained_of_untrained hboot hvin hcfg hnew⟩
  case engines =>
    obtain ⟨hready, hlock⟩ := enginesReady_of_hbm hhbm hvin hnew
    exact ⟨_, exec_engineInitComplete_alive hal, hready, hlock, rfl⟩
  case window =>
    rw [exec_bootWindowExpiry_alive hal]
    exact ⟨fun hm => next_settle_onDev (windowExpires_mgr hboot hopen hidle hm),
      fun hm => next_settle_onDev (windowExpires_other hboot hopen hidle hm)⟩

end Sys2Proof.Machine
end

section
/-! PROOF. Events of modes, and commands that this device's executor runs (R25, R27, R28, R220, R244, R263, R270, R283-R289). -/

namespace Sys2Proof.Machine

open Sys2Proof.Safety

theorem whenGranted_of_granted {s : State} (h : granted s.dev = true) (f : State → State) : whenGranted f s = f s := if_pos h

theorem exec_transitionEnd_granted {s : State} (h : granted s.dev = true) :
    exec .transitionEnd s = .next (settle (takeoverAt (endTransitionAt s))) :=
  congrArg Host.Outcome.next (whenGranted_of_granted h _)

theorem exec_replayEnd_granted {s : State} (h : granted s.dev = true) : exec .replayEnd s = .next (settle (onDev replayEnds s)) :=
  congrArg Host.Outcome.next (whenGranted_of_granted h _)

theorem exec_settleExpiry_settling {s : State} (h : alive s.dev = true) (hset : s.dev.rs.settling = true) :
    exec .settleExpiry s = .next (settle (onDev classify s)) :=
  congrArg Host.Outcome.next ((whenAlive_of_alive h _).trans (if_pos hset))

theorem exec_managerTimeout_granted {s : State} (h : granted s.dev = true) :
    exec .managerTimeout s = .next (setDev s (managerSilent s.dev)) :=
  congrArg Host.Outcome.next (whenGranted_of_granted h _)

theorem exec_strand_granted {s : State} (h : granted s.dev = true) :
    exec .strand s = .next (settle (onDev (fun d => if isMgr d then d else strandNow d) s)) :=
  congrArg Host.Outcome.next (whenGranted_of_granted h _)

theorem exec_strandTimeout_granted {s : State} (h : granted s.dev = true) :
    exec .strandTimeout s = .next (settle (onDev strandEnds s)) :=
  congrArg Host.Outcome.next (whenGranted_of_granted h _)

/-- A replay that is to end: the manager orders FREEZE (R220). -/
theorem replayEnds_mgr {d : Dev} (hmode : mode d = 5) (hidle : d.md.trans = none) (hend : d.vs.rplEnding = true)
    (hm : isMgr d = true) : replayEnds d = mgrMode 4 d := by
  simp [replayEnds, hmode, hidle, hend, hm]

/-- A replay that is to end: another device holds and begins its way to FREEZE (R220). -/
theorem replayEnds_other {d : Dev} (hmode : mode d = 5) (hidle : d.md.trans = none) (hend : d.vs.rplEnding = true)
    (hm : isMgr d = false) : replayEnds d = beginTrans 4 false false (setFlag d TRV_STATUS_HOLD true) := by
  simp [replayEnds, hmode, hidle, hend, hm]

/-- A device that runs holds when the manager is silent (R263). -/
theorem managerSilent_running {d : Dev} (hm : isMgr d = false) (hmode : mode d = 3 ∨ mode d = 5 ∨ mode d = 6)
    (hfree : flag d TRV_STATUS_HOLD = false) :
    managerSilent d = setFlag { d with rs := { d.rs with mgrHold := true } } TRV_STATUS_HOLD true := by
  rcases hmode with h | h | h <;> simp [managerSilent, hm, h, hfree]

/-- A stranded device, and one of a split side, records source 0x21 (R270). -/
theorem strandEnds_apart {d : Dev} (h : d.md.stranded = true ∨ flag d RES_STATUS_SPLIT = true) :
    strandEnds d = raiseWith 0x21 (sideParties d + 2 ^ 31) (trvCount d) false true true d :=
  if_pos (Bool.or_eq_true_iff.mpr h)

/-- Settles O23: each event is its operation on the device, in the case that its hypotheses leave. -/
theorem modeEventsComplete : Obligations.ModeEventsComplete := by
  intro s
  refine ⟨exec_transitionEnd_granted, fun hg hmode hidle hend => ?replayEnd, exec_settleExpiry_settling,
    fun hg hm hmode hfree => ?managerTimeout, fun hg hm => ?strand, fun hg hapart => ?strandTimeout⟩
  case replayEnd =>
    rw [exec_replayEnd_granted hg]
    exact ⟨fun hm => next_settle_onDev (replayEnds_mgr hmode hidle hend hm),
      fun hm => next_settle_onDev (replayEnds_other hmode hidle hend hm)⟩
  case managerTimeout => rw [exec_managerTimeout_granted hg, managerSilent_running hm hmode hfree]
  case strand =>
    rw [exec_strand_granted hg]
    exact next_settle_onDev (if_neg (by simp [hm]))
  case strandTimeout =>
    rw [exec_strandTimeout_granted hg]
    exact next_settle_onDev (strandEnds_apart hapart)

/-- An accepted command that this device's executor has runs, while no debug halt stands. -/
theorem granted_runCmd {s : State} {r : CmdRef} {op : Nat} {c : Cmd} (hg : granted s.dev = true) (hc : cmdFor s.dev r op = some c)
    (f : Cmd → State → State) :
    (.next (whenGranted (runCmd r op f) s) : Host.Outcome State Fault Refusal) = .next (settle (f c s)) :=
  congrArg Host.Outcome.next ((whenGranted_of_granted hg _).trans (runCmd_for r op f s c hc))

theorem exec_commandSlice_granted {s : State} (h : granted s.dev = true) (r : CmdRef) :
    exec (.commandSlice r) s = .next (setDev s (sliceDone r s.dev)) :=
  congrArg Host.Outcome.next (whenGranted_of_granted h _)

theorem exec_loadComplete_granted {s : State} (h : granted s.dev = true) :
    exec .loadComplete s = .next (settle (onDev loadComplete s)) :=
  congrArg Host.Outcome.next (whenGranted_of_granted h _)

/-- A slice of a long command that was moved is counted, with its progress record (R288, R289). -/
theorem sliceDone_moved {d : Dev} {r : CmdRef} {c : Cmd} (hc : findCmd d r = some c)
    (hop : opcodeOf c.desc ∈ [0x30, 0x31, 0x32, 0x33, 0x34]) (hmoved : c.slices < c.moved) :
    sliceDone r d = progress r c (onCmd r (fun c => { c with slices := c.slices + 1 }) d) := by
  have guard : ([0x30, 0x31, 0x32, 0x33, 0x34].contains (opcodeOf c.desc) && decide (c.slices < c.moved)) = true :=
    Bool.and_eq_true_iff.mpr ⟨List.contains_iff_mem.mpr hop, decide_eq_true hmoved⟩
  simp only [sliceDone, hc, guard, if_true]

/-- With every partition loaded the manager orders FREEZE (R25). -/
theorem loadComplete_of_loaded {d : Dev} (hm : isMgr d = true) (hmode : mode d = 2) (hidle : d.md.trans = none)
    (hdone : loadDone d = true) : loadComplete d = mgrMode 4 d := by
  simp [loadComplete, hm, hmode, hidle, hdone]

/-- Settles O34: the executor runs the accepted command, whose operation ends with its record. -/
theorem executorCommandsComplete : Obligations.ExecutorCommandsComplete := by
  intro s r hg
  refine ⟨fun c hc => granted_runCmd hg hc _, fun c hc => granted_runCmd hg hc _, fun c hc => granted_runCmd hg hc _,
    fun c hc => granted_runCmd hg hc _, fun c hc hop hmoved => ?slice, fun hm hmode hidle hdone => ?loaded⟩
  case slice => rw [exec_commandSlice_granted hg, sliceDone_moved hc hop hmoved]
  case loaded =>
    rw [exec_loadComplete_granted hg]
    exact next_settle_onDev (loadComplete_of_loaded hm hmode hidle hdone)

/-- A mode command that has not begun, and whose checks still hold, is marked as begun and runs, while no debug halt stands. -/
theorem granted_runMode {s : State} {r : CmdRef} {op : Nat} {c : Cmd} (hg : granted s.dev = true) (hc : cmdFor s.dev r op = some c)
    (hnew : c.moved = 0) (hok : ownChecks s.dev c.desc = 0) (f : Cmd → Dev → Dev) :
    (.next (whenGranted (runMode r op f) s) : Host.Outcome State Fault Refusal) =
      .next (settle (setDev s (f c (onCmd r (fun c => { c with moved := 1, slices := 1 }) s.dev)))) :=
  congrArg Host.Outcome.next ((whenGranted_of_granted hg _).trans (runMode_for r op f s c hc hnew hok))

/-- Settles O35: a mode command whose checks still hold is marked as begun, and its operation follows. -/
theorem modeCommandsComplete : Obligations.ModeCommandsComplete := by
  intro s r op c hg hc hnew hok
  have runs := granted_runMode hg hc hnew hok
  refine ⟨?load, ?loadAbort, ?unload, ?run, ?step, ?freeze, ?resume, ?replay, ?replayAbort⟩
  case load => rintro rfl; exact runs (loadCmd r)
  case loadAbort => rintro rfl; exact runs fun _ => loadAbortCmd r
  case unload => rintro rfl; exact runs fun _ => unloadCmd r
  case run => rintro rfl _; exact runs (runCommand r)
  case step => rintro rfl _; exact runs (stepCommand r)
  case freeze => rintro rfl; exact runs fun _ => freezeCmd r
  case resume => rintro rfl _; exact runs fun _ => resumeCmd r
  case replay => rintro rfl _ _; exact runs fun c => replayCmd r c.desc
  case replayAbort => rintro rfl; exact runs fun _ => replayAbortCmd r

end Sys2Proof.Machine
end

section
/-! PROOF. The SYSCTL flits that are delivered here (R20, R24, R241-R243, R250-R253, R260, R261, R270). -/

namespace Sys2Proof.Machine

open Sys2Proof.Safety

section
variable {sub : Nat} {rx : Rx} {s : State}

/-- A SYSCTL flit of this GENERATION that changes the device is taken, and its change follows. -/
theorem sysctlIn_takes {epoch : BitVec 16} {arg value extra : Nat} (h : Ordered sub rx epoch arg value extra s) (f : Dev → Dev) :
    (.next (sysctlIn sub rx epoch arg value extra (onDev f) s) : Host.Outcome State Fault Refusal) =
      .next (takes 0x12 sub rx (sysBody epoch arg value extra) f s) :=
  congrArg Host.Outcome.next (sysctl_ordered sub rx epoch arg value extra (onDev f) s h)

/-- The same for a flit of any GENERATION. -/
theorem receive_takes {ty body : Nat} (h : Delivered ty sub rx s) (f : Dev → Dev) :
    (.next (receive ty sub rx body (onDev f) s) : Host.Outcome State Fault Refusal) = .next (takes ty sub rx body f s) :=
  congrArg Host.Outcome.next (receive_delivered ty sub rx body (onDev f) s h)

/-- What a delivered flit does depends on its effect on the device that has taken it only. -/
theorem takes_congr {ty body : Nat} {f g : Dev → Dev} (h : f (taken ty sub rx body s) = g (taken ty sub rx body s)) :
    takes ty sub rx body f s = takes ty sub rx body g s :=
  congrArg (fun d => settle (setDev s d)) h

end

/-- The manager notes an adoption that is ready (R251). -/
theorem adoptedIn_mgr {d : Dev} (hm : isMgr d = true) (src part : Nat) : adoptedIn src part d =
    { d with rs := { d.rs with adopting := d.rs.adopting.filter (· != (part, src)) } } :=
  if_pos hm

/-- A TAKEOVER of the next GENERATION is accepted (R261). -/
theorem takeoverIn_next {gen : Nat} {d : Dev} (h : gen = (generation d + 1) % 16) (pos old k seq : Nat) :
    takeoverIn gen pos old k seq d = applyTakeover pos old k seq gen d :=
  if_pos (beq_iff_eq.mpr h)

/-- The manager of a recovery notes a restore of the checkpoint it rolls back to (R253). -/
theorem doneIn_recovering {k : Nat} {d : Dev} (hm : isMgr d = true) (hrec : d.rs.recovering = true) (hk : k = d.rs.rollK)
    (src h : Nat) : doneIn src k h d = { d with rs := { d.rs with
      dones := src :: d.rs.dones.filter (· != src)
      hd := if (liveHolders d).contains src then some ((d.rs.hd.map (later h)).getD h) else d.rs.hd } } :=
  if_pos (by simp [hm, hrec, hk])

/-- The worker named becomes the deputy (R21). -/
theorem appointIn_worker {pos : Nat} {d : Dev} (hpos : pos = myPos d) (hrole : role d = 0) : appointIn pos d =
    roleChanged pos 2 0 (noteTopo pos 2 (getF (setDeputy pos true (setF d SYS_ROLE_ROLE 2)) SYS_ROLE_CFG_ROLE)
      (if holds (setDeputy pos true (setF d SYS_ROLE_ROLE 2)) then myPart (setDeputy pos true (setF d SYS_ROLE_ROLE 2)) + 1 else 0)
      (setDeputy pos true (setF d SYS_ROLE_ROLE 2))) :=
  if_pos (by rw [hrole, ← hpos, beq_self_eq_true]; rfl)

/-- Settles O30: each flit is taken and has its operation's effect; those only one device acts on have it at that device. -/
theorem systemControlFlitsComplete : Obligations.SystemControlFlitsComplete := by
  intro s rx epoch
  refine ⟨fun arg v p w l h => ?mode, fun pos v h => ?topo, fun part v h => ?map, fun pos h => ?lost, fun pos v h => ?ack,
    fun pos k seq r h => ?beat, fun pos h => ?census, fun pos k seq r edited h => ?censusReply, fun part k seq h => ?adopt,
    fun part h hm => ?adopted, fun pos k seq old h hgen => ?takeover, fun pos k hd h hm hrec hk => ?done,
    fun pos h hpos hrole => ?appoint, fun pos n me h => ?probe⟩
  case mode => exact sysctlIn_takes h _
  case topo => exact sysctlIn_takes h _
  case map => exact congrArg Host.Outcome.next (sysctl_ordered 2 rx epoch _ _ 0 _ s h)
  case lost => exact sysctlIn_takes h _
  case ack => exact sysctlIn_takes h _
  case beat => exact congrArg Host.Outcome.next (sysctl_ordered 5 rx epoch _ _ _ _ s h)
  case census => exact sysctlIn_takes h _
  case censusReply => exact sysctlIn_takes h _
  case adopt => exact sysctlIn_takes h _
  case adopted => exact (sysctlIn_takes h _).trans (congrArg Host.Outcome.next (takes_congr (adoptedIn_mgr hm _ _)))
  case takeover => exact (receive_takes h _).trans (congrArg Host.Outcome.next (takes_congr (takeoverIn_next hgen _ _ _ _)))
  case done => exact (sysctlIn_takes h _).trans (congrArg Host.Outcome.next (takes_congr (doneIn_recovering hm hrec hk _ _)))
  case appoint => exact (sysctlIn_takes h _).trans (congrArg Host.Outcome.next (takes_congr (appointIn_worker hpos hrole)))
  case probe => exact receive_takes h _

end Sys2Proof.Machine
end

section
/-! PROOF. The fabric's events: traverses, values, accesses, records, scrubbers and windows (R46, R49, R62, R67, R69, R70, R86-R89,
R106, R141, R148, R204, R219). -/

namespace Sys2Proof.Machine

open Sys2Proof.Safety

/-- While no debug halt stands, a command that a debug halt withholds makes its change (R442). -/
theorem next_whenGranted {s : State} (h : granted s.dev = true) (f : State → State) :
    (.next (whenGranted f s) : Host.Outcome State Fault Refusal) = .next (f s) :=
  congrArg Host.Outcome.next (whenGranted_of_granted h f)

/-- The same for a change of the device, once it is known of this device. -/
theorem next_whenGranted_onDev {s : State} {f : Dev → Dev} {d : Dev} (h : granted s.dev = true) (hf : f s.dev = d) :
    (.next (whenGranted (onDev f) s) : Host.Outcome State Fault Refusal) = .next (setDev s d) := by
  subst hf; exact next_whenGranted h _

theorem granted_alive {d : Dev} (h : granted d = true) : alive d = true := (Bool.and_eq_true_iff.mp h).1

/-- Behind an open gate, with nothing that holds it, a tile between traverses begins the next one (R68). -/
theorem beginTraverse_of_open {t : Nat} {d : Dev} (hruns : fabricRuns d = true) (hidle : (tileOf d t).inTrav = false)
    (himage : d.hs.imageHeld = true) (hfree : flag d TRV_STATUS_HOLD = false) (hgate : gateOpen d (tileOf d t).count = true) :
    beginTraverse t d = setTile (clearTile t d) t { tileOf d t with
      inTrav := true, step := 0, wait := 0, detail := 0, sendIdx := 0, lastPop := 0, popValid := false, qEmpty := false } := by
  simp [beginTraverse, hruns, hidle, himage, hfree, hgate]

/-- Once its send buffer has drained for one step time, a tile that may end does so, and the floor follows (R67, R69, R70, R204). -/
theorem endTraverse_of_mayEnd {t : Nat} {s : State} (hmay : mayEnd (drainSends t s.dev) t = true) :
    let d0 := drainSends t s.dev
    let d := capturePoint t (nextCount (tileOf d0 t).count) (endTile t d0)
    endTraverse t s = settle (setDev s (syncArea (if floorOf d0 != floorOf d then floorReached (floorOf d) d else d))) :=
  if_pos hmay

/-- A value on the tile network leaves it for its slot (R49). -/
theorem netArrival_of_some {i : Nat} {d : Dev} {v : NetVal} (h : d.fab.net[i]? = some v) :
    netArrival i d =
      placeValue v.slot v.parity v.value v.trav { d with fab := { d.fab with net := d.fab.net.eraseIdx i } } := by
  simp only [netArrival, h]

/-- An access of tile RAM that is ready completes on the device (R57). -/
theorem completeAccess_tram {port : Nat} {s : State} {a : Access} (hready : readyAccess s.dev.fab.acc port = some a)
    (htram : a.tram = true) : completeAccess port s = setDev s (tramAccess a s.dev) := by
  simp only [completeAccess, hready, htram, if_true, onDev]

/-- An access of HBM that is ready completes there (R141). -/
theorem completeAccess_hbm {port : Nat} {s : State} {a : Access} (hready : readyAccess s.dev.fab.acc port = some a)
    (htram : a.tram = false) : completeAccess port s = hbmAccess a s := by
  simp only [completeAccess, hready, htram, Bool.false_eq_true, if_false]

theorem exec_portAccessComplete_granted {s : State} (hg : granted s.dev = true) (hopen : s.dev.md.c4Hold = false) (port : BitVec 10) :
    exec (.portAccessComplete port) s = .next (settle (completeAccess port.toNat s)) :=
  (next_whenGranted hg _).trans (congrArg Host.Outcome.next (if_neg (by simp [hopen])))

/-- The first of the host waits over the limit is reported, and its limit begins again (R87). -/
theorem hostWaitReport_limited {d : Dev} {q : Nat} {r : List Nat} (hwaits : d.tv.ownWaits = q :: r)
    (hlimit : getF d TRV_HOSTWAIT_LIMIT ≠ 0) :
    hostWaitReport d = raise 0x0B q { d with tv := { d.tv with ownWaits := r ++ [q] } } := by
  simp [hostWaitReport, hwaits, hlimit]

/-- A running holder that nothing holds and that waits for no host records the stall with the tile named (R86-R88). -/
theorem stallFault_running {d : Dev} (hmode : mode d = 3 ∨ mode d = 5 ∨ mode d = 6) (henable : flag d TRV_STALL_ENABLE = true)
    (hfree : flag d TRV_STATUS_HOLD = false) (hwait : flag d TRV_STATUS_HOSTWAIT_SYS = false) (hhalt : flag d DBG_HALT_HALTED = false)
    (hholds : holds d = true) :
    let st := tileStat d (stalledTile d)
    stallFault d = raise 0x09 (stalledTile d + st % 2 ^ 16 * 2 ^ 16 + st / 2 ^ 16 * 2 ^ 32) (setFlag d TRV_STATUS_STALLED true) := by
  have guard : (!(mode d == 3 || mode d == 5 || mode d == 6) || !flag d TRV_STALL_ENABLE ||
      (flag d TRV_STATUS_HOLD || flag d DBG_HALT_HALTED || flag d TRV_STATUS_HOSTWAIT_SYS) || !holds d) = false := by
    rw [henable, hfree, hwait, hhalt, hholds]
    rcases hmode with h | h | h <;> rw [h] <;> rfl
  exact if_neg (by rw [guard]; exact Bool.false_ne_true)

/-- The window's end stores the floor's advance in TRV_RATE (R89). -/
theorem getR_rateEnd (d : Dev) : getR (rateEnd d) TRV_RATE = BitVec.ofNat 32 (trvCount d - d.tv.winBase) :=
  getR_setR_same _ _ _

/-- The window begins again at the floor, which its end leaves (R89). -/
theorem winBase_rateEnd (d : Dev) : (rateEnd d).tv.winBase = trvCount d := rfl

theorem exec_rateWindow_alive {s : State} (h : alive s.dev = true) : exec .rateWindow s = .next (setDev s (rateEnd s.dev)) :=
  congrArg Host.Outcome.next (whenAlive_of_alive h _)

/-- Settles O22: while no debug halt stands each event is its operation, in the branch that its hypotheses leave. -/
theorem fabricCommandsComplete : Obligations.FabricCommandsComplete := by
  intro s hg
  refine ⟨fun t hruns hidle himage hfree hgate => ?traverseBegin, fun t => ?tileStep, fun t hmay => ?traverseEnd,
    fun i v hv => ?arrival, fun port a hopen hready => ⟨fun htram => ?tram, fun htram => ?hbm⟩, ?trace, ?replay,
    fun e st => ?stepScrub, fun w => ?patrol, fun part par => ?signal, fun q r hwaits hlimit => ?hostWait,
    fun hmode henable hfree hwait hhalt hholds => ?stall, ?rateWindow⟩
  case traverseBegin => exact next_whenGranted_onDev hg (beginTraverse_of_open hruns hidle himage hfree hgate)
  case tileStep => exact next_whenGranted hg _
  case traverseEnd => exact (next_whenGranted hg _).trans (congrArg Host.Outcome.next (endTraverse_of_mayEnd hmay))
  case arrival => exact next_whenGranted_onDev hg (netArrival_of_some hv)
  case tram => rw [exec_portAccessComplete_granted hg hopen, completeAccess_tram hready htram]
  case hbm => rw [exec_portAccessComplete_granted hg hopen, completeAccess_hbm hready htram]
  case trace => exact next_whenGranted hg _
  case replay => exact next_whenGranted hg _
  case stepScrub => exact next_whenGranted_onDev hg rfl
  case patrol => exact next_whenGranted hg _
  case signal => exact next_whenGranted_onDev hg rfl
  case hostWait => exact next_whenGranted_onDev hg (hostWaitReport_limited hwaits hlimit)
  case stall =>
    exact (next_whenGranted hg _).trans (next_settle_onDev (stallFault_running hmode henable hfree hwait hhalt hholds))
  case rateWindow =>
    exact ⟨_, exec_rateWindow_alive (granted_alive hg), getR_rateEnd s.dev, winBase_rateEnd s.dev, rfl⟩

end Sys2Proof.Machine
end

section
/-! PROOF. Run control, floor marks and values that are delivered here (R73, R78-R80, R87, R106, R107, R460). -/

namespace Sys2Proof.Machine

open Sys2Proof.Safety

/-- A delivered flit is taken, and has the effect that is known of the device that has taken it. -/
theorem receive_takes_as {ty sub body : Nat} {rx : Rx} {s : State} {f g : Dev → Dev} (h : Delivered ty sub rx s)
    (hf : f (taken ty sub rx body s) = g (taken ty sub rx body s)) :
    (.next (receive ty sub rx body (onDev f) s) : Host.Outcome State Fault Refusal) = .next (takes ty sub rx body g s) :=
  (receive_takes h f).trans (congrArg Host.Outcome.next (takes_congr hf))

/-- The manager notes the sender's H_D in place of an earlier one (R79). -/
theorem highIn_mgr {d : Dev} (hm : isMgr d = true) (pos h : Nat) : highIn pos h d =
    { d with tv := { d.tv with highs := (pos, h) :: d.tv.highs.filter (·.1 != pos) } } :=
  if_pos hm

/-- The manager notes an arrival once (R79). -/
theorem arrivedIn_mgr {d : Dev} (hm : isMgr d = true) (pos n : Nat) : arrivedIn pos n d =
    { d with tv := { d.tv with arriveds := (pos, n) :: d.tv.arriveds.filter (· != (pos, n)) } } :=
  if_pos hm

/-- The partition of the sender becomes a feeder, once (R73). -/
theorem feederIn_part {d : Dev} {pos p : Nat} (hp : partOf d pos = some p) : feederIn pos d =
    { d with tv := { d.tv with feeders := p :: d.tv.feeders.filter (· != p) } } := by
  simp only [feederIn, hp]

/-- A floor mark of the time after the last restore raises the floor stored of the sender's partition (R73, R107). -/
theorem floorIn_current {d : Dev} {pos restores p : Nat} (hr : restores = getF d TRV_STATUS_RESTORES)
    (hp : partOf d pos = some p) (count : Nat) : floorIn pos count restores d =
    { d with tv := { d.tv with floors := sset zeroAt d.tv.floors p (later (sget zeroAt d.tv.floors p) count) } } := by
  simp [floorIn, hr, hp]

/-- A SIGNAL flit of one to twelve values is received (R106). -/
theorem exec_signal_counted {values : List SigEntry} (hlo : 1 ≤ values.length) (hhi : values.length ≤ 12) (rx : Rx) (parity : Bool)
    (s : State) : exec (.signal rx parity values) s =
    .next (receive 0x20 (b2n parity + 2 * values.length) rx (signalBody values) (onDev (each values fun e d =>
      placeValue (512 * e.tile.toNat + e.slot.toNat) parity e.value (valueTraverse d e.tile.toNat parity) d)) s) :=
  have hne : values ≠ [] := List.ne_nil_of_length_pos hlo
  if_neg (by simp [hne, hhi])

/-- Settles O21: each flit is taken and has its operation's effect, in the branch that its hypotheses leave. -/
theorem runControlFlitsComplete : Obligations.RunControlFlitsComplete := by
  refine ⟨fun s rx => ⟨fun hd => ?hold, fun h hd hm => ?high, fun n hd => ?stop, fun n hd hm => ?arrived, fun p hd hp => ?feeder,
    fun q hd => ?hostwaitOn, fun q hd => ?hostwaitOff, fun last rope hd => ?ropeLost, fun n r p hd hr hp => ?floor⟩,
    fun s rx par vs hlo hhi hd => ?signal⟩
  case hold => exact receive_takes hd _
  case high => exact receive_takes_as hd (highIn_mgr hm _ _)
  case stop => exact receive_takes hd _
  case arrived => exact receive_takes_as hd (arrivedIn_mgr hm _ _)
  case feeder => exact receive_takes_as hd (feederIn_part hp)
  case hostwaitOn => exact receive_takes hd _
  case hostwaitOff => exact receive_takes hd _
  case ropeLost => exact receive_takes hd _
  case floor => exact receive_takes_as hd (floorIn_current hr hp _)
  case signal => rw [exec_signal_counted hlo hhi, receive_takes hd]

end Sys2Proof.Machine
end

section
/-! PROOF. Register writes of the link layer, BELAY and HEARTBEAT flits, and the exchanges of system time (R80, R100, R122, R124,
R127, R131). -/

namespace Sys2Proof.Machine

open Sys2Proof.Safety

/-- A write of a rope's register by an agent that may make it changes a rope that exists (R92, R442). -/
theorem next_whenWritable_rope {a : Agent} {rope : BitVec 5} {s : State} (hw : writable s.dev a = true) (hrope : rope.toNat < 18)
    (f : Dev → Dev) :
    (.next (whenWritable a (fun s => if rope.toNat < 18 then settle (onDev f s) else s) s) : Host.Outcome State Fault Refusal) =
      .next (settle (setDev s (f s.dev))) :=
  congrArg Host.Outcome.next ((whenWritable_of_writable hw _).trans (if_pos hrope))

theorem exec_linkBelayRaise_writable {a : Agent} {s : State} (h : writable s.dev a = true) (v : Word) :
    exec (.linkBelayRaise a v) s = .next (settle (onDev (belayRaise v) s)) :=
  congrArg Host.Outcome.next (whenWritable_of_writable h _)

theorem exec_belay_alive {s : State} (h : alive s.dev = true) (rope : BitVec 5) (reason : BitVec 8) (origin : BitVec 10)
    (epoch : BitVec 8) : exec (.belay rope reason origin epoch) s =
      .next (settle (onDev (belayIn rope.toNat reason.toNat origin.toNat epoch.toNat) s)) :=
  congrArg Host.Outcome.next (whenAlive_of_alive h _)

theorem exec_heartbeat_alive {s : State} (h : alive s.dev = true) (rope : BitVec 5) (pos : BitVec 10) (m : BitVec 3) (r : BitVec 2)
    (stranded : Bool) : exec (.heartbeat rope pos m r stranded) s =
      .next (setDev s (heartbeatIn rope.toNat pos.toNat m.toNat r.toNat stranded s.dev)) :=
  congrArg Host.Outcome.next (whenAlive_of_alive h _)

/-- A write of LINK_BELAY_RAISE with a REASON of a freeze raises it (R127). -/
theorem belayRaise_freeze {v : Word} (hgo : bitOf v.toNat 0 = true) (hreason : bitsOf v.toNat 15 8 = 1 ∨ bitsOf v.toNat 15 8 = 2)
    (d : Dev) : belayRaise v d = raiseFreeze (bitsOf v.toNat 15 8) d :=
  if_pos (by simpa [hgo] using hreason)

/-- An unknown BELAY from a position in use, with a defined REASON, is noted, repeated on the other ropes and holds (R80, R127, R128). -/
theorem belayIn_new {k reason origin epoch : Nat} {d : Dev} (hup : ropeUp d k = true) (hnew : knownBelay d origin epoch = false)
    (huse : isLost d origin = false) (hreason : reason = 1 ∨ reason = 2 ∨ reason = 0x10 ∨ reason = 0x11) :
    belayIn k reason origin epoch d =
      belayHold reason (floodBelay reason origin epoch (some k) (noteBelay reason origin epoch d)) := by
  have accepted : ¬(!ropeUp d k || knownBelay d origin epoch || isLost d origin) = true := by simp [hup, hnew, huse]
  have defined : (reason == 1 || reason == 2 || reason == 0x10 || reason == 0x11) = true := by simpa [or_assoc] using hreason
  exact (if_neg accepted).trans (if_pos defined)

/-- The sign of life of a peer that is no SPARE changes what its rope shows of the peer only (R100, R125). -/
theorem heartbeatIn_notSpare {k pos r : Nat} {d : Dev} (hwired : (ropeOf d k).wired = true) (huse : isLost d pos = false)
    (hrole : r ≠ 3) (m : Nat) (stranded : Bool) : heartbeatIn k pos m r stranded d =
      setRope d k { ropeOf d k with hbPos := pos, hbMode := m, hbRole := r, hbStranded := stranded } := by
  simp [heartbeatIn, hwired, huse, hrole]

/-- A flit that no silence holds joins its rope's queue (R28, R29). -/
theorem sendOn_free {f : Flit} {d : Dev} (h : silenced d f = false) (k : Nat) : sendOn k f d = enqueue k f d :=
  if_neg (by simp [h])

/-- The request for the time goes to the parent, over the rope to it (R131). -/
theorem timeAsk_parent {d : Dev} {p k t1 : Nat} (hparent : timeParent (syncParent d) = some (p, k))
    (hup : ropeUp (syncParent d) k = true)
    (hfree : silenced (syncParent d) (mkFlit (syncParent d) 0x16 0 p true (at8 8 t1)) = false) :
    timeAsk t1 d = enqueue k (mkFlit (syncParent d) 0x16 0 p true (at8 8 t1)) (syncParent d) := by
  simp only [timeAsk, hparent, hup, if_true, sendOn_free hfree]

/-- A TIME flit on a rope that is up is accepted, its buffer is free again, and its effect follows (R103, R114). -/
theorem timeFlit_up {d : Dev} {k : Nat} (hup : ropeUp d k = true) (f : Dev → Dev) :
    timeFlit k f d = f (freeBuffer k 0 0 true (acceptSeq k d)) :=
  if_neg (by simp [hup])

/-- A TIME_REPLY from the parent corrects the time of the device that accepted it (R131). -/
theorem exec_timeReply_parent {s : State} {rope : BitVec 5} {p : Nat} (hg : granted s.dev = true) (hup : ropeUp s.dev rope.toNat = true)
    (hparent : timeParent (freeBuffer rope.toNat 0 0 true (acceptSeq rope.toNat s.dev)) = some (p, rope.toNat)) (t1 t2 t3 t4 : DWord) :
    exec (.timeReply rope t1 t2 t3 t4) s = .next (settle (setDev s (timeOffset t1.toNat t2.toNat t3.toNat t4.toNat
      (syncParent (freeBuffer rope.toNat 0 0 true (acceptSeq rope.toNat s.dev)))))) := by
  refine (next_whenGranted hg _).trans (next_settle_onDev ((timeFlit_up hup _).trans ?_))
  simp only [hparent, beq_self_eq_true, if_true]

/-- Settles O25: each command runs, and its operation takes the branch that its hypotheses leave. -/
theorem linkWritesAndTimeComplete : Obligations.LinkWritesAndTimeComplete := by
  intro s
  refine ⟨fun a rope v hw hrope => ⟨?laneDis, ?retrain⟩, fun a v hw hgo hreason => ?raise,
    fun rope reason origin epoch hal hup hnew huse hreason => ?belay, fun rope pos m r st hal hwired huse hrole => ?heartbeat,
    fun t1 p k hg hparent hup hfree => ?ask, fun rope t1 t2 t3 hg hup hfree => ?request,
    fun rope t1 t2 t3 t4 p hg hup hparent => ?reply⟩
  case laneDis => exact next_whenWritable_rope hw hrope _
  case retrain => exact next_whenWritable_rope hw hrope _
  case raise =>
    rw [exec_linkBelayRaise_writable hw]
    exact next_settle_onDev (belayRaise_freeze hgo hreason _)
  case belay =>
    have defined : reason.toNat = 1 ∨ reason.toNat = 2 ∨ reason.toNat = 0x10 ∨ reason.toNat = 0x11 := by
      rcases hreason with rfl | rfl | rfl | rfl <;> decide
    rw [exec_belay_alive hal]
    exact next_settle_onDev (belayIn_new hup hnew huse defined)
  case heartbeat => rw [exec_heartbeat_alive hal, heartbeatIn_notSpare hwired huse hrole]
  case ask => exact next_whenGranted_onDev hg (timeAsk_parent hparent hup hfree)
  case request => exact next_whenGranted_onDev hg ((timeFlit_up hup _).trans (sendOn_free hfree _))
  case reply => exact exec_timeReply_parent hg hup hparent t1 t2 t3 t4

end Sys2Proof.Machine
end

section
/-! PROOF. Control flits, discarded flits and timers of the link layer (R94, R98, R103, R109-R111, R122-R124, R126). -/

namespace Sys2Proof.Machine

open Sys2Proof.Safety

/-- While the module works, a command that a debug halt does not withhold makes its change of the device, once it is known of this
device (R442). -/
theorem next_whenAlive_onDev {s : State} {f : Dev → Dev} {d : Dev} (h : alive s.dev = true) (hf : f s.dev = d) :
    (.next (whenAlive (onDev f) s) : Host.Outcome State Fault Refusal) = .next (setDev s d) := by
  subst hf; exact congrArg Host.Outcome.next (whenAlive_of_alive h _)

/-- The same with what becomes possible with the change. -/
theorem next_whenAlive_settle {s : State} {f : Dev → Dev} {d : Dev} (h : alive s.dev = true) (hf : f s.dev = d) :
    (.next (whenAlive (fun s => settle (onDev f s)) s) : Host.Outcome State Fault Refusal) = .next (settle (setDev s d)) :=
  (congrArg Host.Outcome.next (whenAlive_of_alive h _)).trans (next_settle_onDev hf)

/-- A working module that no debug halt holds is granted (R442). -/
theorem granted_of_alive {d : Dev} (hal : alive d = true) (hhalt : flag d DBG_HALT_HALTED = false) : granted d = true := by
  simp [granted, hal, hhalt]

/-- LC_NAK on a rope that is up acknowledges what lies before EXPSEQ, restripes over the peer's mask and resends (R110, R122). -/
theorem nakFlit_up {k : Nat} {d : Dev} (hup : ropeUp d k = true) (n : Nat) (lanes : BitVec 8) : nakFlit k n lanes d =
    let d' := ackFlits k ((n + 4095) % 4096) d
    resend k n (restripe k (setRope d' k { ropeOf d' k with txLanes := lanes })) :=
  if_neg (by simp [hup])

/-- Without an acknowledgement the flits leave again from the oldest one on (R110). -/
theorem resendOldest_cons {k : Nat} {d : Dev} {f : Flit} {r : List Flit} (h : (ropeOf d k).replay = f :: r) :
    resendOldest k d = resend k f.seq d := by
  simp only [resendOldest, h]

/-- A rope in use whose flits stay unacknowledged is lost (R110, R123). -/
theorem ackTimeout_unacknowledged {k : Nat} {d : Dev} (hup : ropeUp d k = true) (hwait : (ropeOf d k).replay ≠ []) :
    ackTimeout k d = loseRope k d :=
  if_pos (by simp [hup, hwait])

/-- The retrain period of a rope, when there is one, trains it again toward a peer in use (R124). -/
theorem retrainPeriod_rope {k : Nat} {d : Dev} (hperiod : getF d LINK_RETRAIN_PERIOD ≠ 0)
    (huse : isLost d (ropeOf d k).expPos = false) : retrainPeriod k none d = retrainRope k d := by
  simp [retrainPeriod, hperiod, huse]

/-- A flit that breaks the protocol is accepted in sequence on a rope that is up, and reported (R103). -/
theorem protocolFault_up {k : Nat} {d : Dev} (hup : ropeUp d k = true) (ty : Nat) :
    protocolFault k ty d = linkFault 0x14 k ty 0 (acceptSeq k d) :=
  if_pos hup

/-- Settles O24: each command runs in a module that works, and its operation takes the branch that its hypotheses leave. -/
theorem linkCommandsComplete : Obligations.LinkCommandsComplete := by
  intro s rope hal
  refine ⟨fun pos peer fallback lanes ready _ _ => ?train, fun payload _ => ?status, fun n lanes hup => ?nak,
    fun hup => ?statusTimer, fun _ _ => ?trainingTimeout, fun f r hreplay => ?resendTimeout,
    fun hup hwait => ?ackTimeout, fun lane _ _ => ?laneLoss, fun hperiod huse => ?retrainPeriod, fun lane => ?laneRejoin,
    ?silence, fun cause seq _ _ => ?discard, fun ty hhalt hup => ?protocolFault⟩
  case train => exact next_whenAlive_settle hal rfl
  case status => exact next_whenAlive_onDev hal rfl
  case nak => exact next_whenAlive_settle hal (nakFlit_up hup _ lanes)
  case statusTimer => exact next_whenAlive_onDev hal (if_pos hup)
  case trainingTimeout => exact next_whenAlive_settle hal rfl
  case resendTimeout => exact next_whenAlive_settle hal (resendOldest_cons hreplay)
  case ackTimeout => exact next_whenAlive_settle hal (ackTimeout_unacknowledged hup hwait)
  case laneLoss => exact next_whenAlive_settle hal rfl
  case retrainPeriod => exact next_whenAlive_onDev hal (retrainPeriod_rope hperiod huse)
  case laneRejoin => exact next_whenAlive_onDev hal rfl
  case silence => exact next_whenAlive_onDev hal rfl
  case discard => exact next_whenAlive_onDev hal rfl
  case protocolFault =>
    exact (next_whenGranted (granted_of_alive hal hhalt) _).trans (next_settle_onDev (protocolFault_up hup _))

end Sys2Proof.Machine
end

section
/-! PROOF. The FAULT flits and the trigger flits that are delivered here (R29, R126, R213, R214, R223, R244, R245). -/

namespace Sys2Proof.Machine

open Sys2Proof.Safety

/-- Settles O29: each flit is taken, and its operation follows on the device that has taken it. -/
theorem faultAndTriggerFlitsComplete : Obligations.FaultAndTriggerFlitsComplete := by
  intro s rx
  exact ⟨fun _ hd => receive_takes hd _, fun _ hd => receive_takes hd _, fun _ _ hd => receive_takes hd _,
    fun _ _ _ hd => receive_takes hd _, fun _ _ hd _ => receive_takes hd _⟩

end Sys2Proof.Machine
end

section
/-! PROOF. The flits of parity and rebuild that are delivered here (R153, R155, R256, R258, R259, R267). -/

namespace Sys2Proof.Machine

open Sys2Proof.Safety

/-- A PARITY flit of one or two deltas is received (R153). -/
theorem exec_parity_counted {es : List DeltaEntry} (hlo : 1 ≤ es.length) (hhi : es.length ≤ 2) (rx : Rx) (seq8 : BitVec 8)
    (s : State) : exec (.parity rx seq8 es) s =
    .next (receive 0x29 (es.length + 4 * seq8.toNat) rx (parityBody es) (parityIn rx.src.toNat seq8.toNat es) s) := by
  have hne : es ≠ [] := List.ne_nil_of_length_pos hlo
  have hthree : es.length ≠ 3 := by omega
  exact (if_neg (by simp [hthree])).trans (if_neg (by simp [hne, hhi]))

/-- A flit of one or two words of a rebuild is received (R256). -/
theorem exec_rebuildWords_counted {ws : List DeltaEntry} (hlo : 1 ≤ ws.length) (hhi : ws.length ≤ 2) (rx : Rx) (seq8 : BitVec 8)
    (s : State) : exec (.rebuildWords rx seq8 ws) s =
    .next (receive 0x29 (ws.length + 4 * seq8.toNat) rx (parityBody ws) (rebuildIn rx.src.toNat seq8.toNat ws) s) :=
  have hne : ws ≠ [] := List.ne_nil_of_length_pos hlo
  if_neg (by simp [hne, hhi])

/-- COUNT 3 is reserved: a link protocol fault, whatever the flit is addressed to. -/
theorem exec_parity_reserved {es : List DeltaEntry} (hlen : es.length = 3) {s : State} (hg : granted s.dev = true) (rx : Rx)
    (seq8 : BitVec 8) : exec (.parity rx seq8 es) s =
    .next (settle (setDev s (protocolFault rx.rope.toNat 0x29 s.dev))) :=
  (if_pos (beq_iff_eq.mpr hlen)).trans (next_whenGranted hg _)

/-- Settles O27: each flit is taken and its operation follows; the count of its entries decides whether a PARITY flit is one. -/
theorem parityCommandsComplete : Obligations.ParityCommandsComplete := by
  intro s rx
  refine ⟨fun seq8 es hlo hhi hd => ⟨?parity, ?rebuildWords⟩, fun seq8 es hlen hg => ?reserved, fun seq n hd => ?mark, fun hg => ?close,
    fun page n hd => ?pageEnd, fun epoch part addr one ho => ?rebuildReq, fun epoch part t e st isReply word ho => ?stepword⟩
  case parity => rw [exec_parity_counted hlo hhi, receive_delivered _ _ _ _ _ _ hd]
  case rebuildWords => rw [exec_rebuildWords_counted hlo hhi, receive_delivered _ _ _ _ _ _ hd]
  case reserved => exact exec_parity_reserved hlen hg rx seq8
  case mark => exact receive_takes hd _
  case close => exact next_whenGranted_onDev hg rfl
  case pageEnd => exact receive_takes hd _
  case rebuildReq => exact congrArg Host.Outcome.next (sysctl_ordered 13 rx epoch _ _ _ _ s ho)
  case stepword => exact sysctlIn_takes ho _

end Sys2Proof.Machine
end

section
/-! PROOF. STORE_BUFFER_DRAIN: the oldest store of a core leaves its buffer and writes its own bytes (R149, R345). -/

namespace Sys2Proof.Machine

open Sys2Proof.Safety

/-- A change that every member of a list leaves alone is left alone by the fold over it. -/
theorem each_invariant {α σ β : Type} {f : α → σ → σ} {obs : σ → β} (hf : ∀ a s, obs (f a s) = obs s) (l : List α) (s : σ) :
    obs (each l f s) = obs s := by
  induction l generalizing s with
  | nil => rfl
  | cons a r ih => exact (ih (f a s)).trans (hf a s)

@[simp] theorem eccDrop_gc (p : Nat → Bool) (d : Dev) : (eccDrop p d).gc = d.gc := by
  unfold eccDrop
  split <;> rfl

/-- A lost reservation leaves every store buffer as it is (R331). -/
theorem sbuf_unreserve (who : Option Nat) (a n : Nat) (d : Dev) (k : Nat) :
    (coreOf (unreserve who a n d) k).sbuf = (coreOf d k).sbuf := by
  unfold unreserve
  split
  · rfl
  · refine each_invariant (obs := fun d => (coreOf d k).sbuf) (fun e d => ?_) d.gc d
    split
    · split
      · rw [coreOf_setCore]
        split
        case isTrue h => subst h; rfl
        case isFalse => rfl
      · rfl
    · rfl

/-- A write of an SRAM leaves every store buffer as it is. -/
theorem sbuf_sramWrite (who : Option Nat) (ta : Nat) (bs : List Byte) (d : Dev) (k : Nat) :
    (coreOf (sramWrite who ta bs d) k).sbuf = (coreOf d k).sbuf := by
  unfold sramWrite
  rw [sbuf_unreserve]
  refine (each_invariant (obs := fun d => (coreOf d k).sbuf) (fun w d => ?_) _ _).trans ?_
  · show (coreOf (if _ then eccClear _ d else d) k).sbuf = _
    split
    · simp [coreOf, eccClear]
    · rfl
  · split <;> rfl

/-- A write of HBM leaves every store buffer as it is. -/
theorem sbuf_putMem (a : Nat) (bs : List Byte) (s : State) (k : Nat) :
    (coreOf (putMem a bs s).dev k).sbuf = (coreOf s.dev k).sbuf := by
  rw [← sbuf_unreserve none a bs.length s.dev k]
  simp [coreOf, putMem, eccWritten]

/-- A write of HBM past the region, within HBM, is a plain write of its bytes (R149). -/
theorem hbmWrite_past_region {a : Nat} {bs : List Byte} {s : State} (hreg : hostRegion s.dev ≤ a) (hne : bs ≠ [])
    (hfit : a + bs.length ≤ hbmSize) : hbmWrite a bs s = putMem a bs s := by
  have hz : min bs.length (hostRegion s.dev - a) = 0 := by omega
  have hall : bs.take (hbmSize - a) = bs := List.take_of_length_le (by omega)
  simp [hbmWrite, hz, hall, hne]

/-- A core's store keeps its own reservation, and writes HBM as any other agent's does (R331). -/
theorem coreHbmWrite_mem (c a : Nat) (bs : List Byte) (s : State) : (coreHbmWrite c a bs s).mem = (hbmWrite a bs s).mem := rfl

theorem sbuf_coreHbmWrite (c a : Nat) (bs : List Byte) (s : State) (k : Nat) :
    (coreOf (coreHbmWrite c a bs s).dev k).sbuf = (coreOf (hbmWrite a bs s).dev k).sbuf := by
  show (coreOf (if _ then _ else _) k).sbuf = _
  split
  · rfl
  · rw [coreOf_setCore]
    split
    case isTrue h => subst h; rfl
    case isFalse => rfl

/-- The state once the oldest store `e` has left the buffer of a core, `r` behind it, and the core's cached lines have it. -/
def unbuffered (c : Nat) (e : SBuf) (r : List SBuf) (s : State) : State :=
  setDev s (setCore s.dev c (updateLines e.at_ e.bytes { coreOf s.dev c with sbuf := r }))

theorem sbuf_unbuffered (c : Nat) (e : SBuf) (r : List SBuf) (s : State) :
    (coreOf (unbuffered c e r s).dev c).sbuf = r := by
  simp [unbuffered, updateLines]

/-- Past the region the store that has left the buffer is a plain write of its bytes (R149). -/
theorem hbmWrite_unbuffered {c : Nat} {e : SBuf} {r : List SBuf} {s : State} (hpast : hostRegion s.dev ≤ e.at_) (hne : e.bytes ≠ [])
    (hfit : e.at_ + e.bytes.length ≤ hbmSize) :
    hbmWrite e.at_ e.bytes (unbuffered c e r s) = putMem e.at_ e.bytes (unbuffered c e r s) :=
  hbmWrite_past_region hpast hne hfit

/-- The oldest store goes where its transfer address points (R345, R379). -/
theorem drainOne_oldest {c : Nat} {e : SBuf} {r : List SBuf} {s : State} (hb : (coreOf s.dev c).sbuf = e :: r) :
    drainOne c s = match regionOf e.at_ with
      | none => unbuffered c e r s
      | some 0 => coreHbmWrite c e.at_ e.bytes (unbuffered c e r s)
      | some _ => onDev (sramWrite (some c) e.at_ e.bytes) (unbuffered c e r s) := by
  simp only [drainOne, hb]
  rfl

/-- Settles O59: the drained store is a plain write of HBM past the region, or a write of an SRAM. -/
theorem drainWritesItsBytesOnly : Obligations.DrainWritesItsBytesOnly := by
  intro s c e r hg hb
  have hexec : exec (.storeBufferDrain c) s = .next (drainOne c.toNat s) := next_whenGranted hg _
  rw [hexec, drainOne_oldest hb]
  refine ⟨fun hreg hpast hne hfit => ⟨_, rfl, ?hbmBuffer, fun b => ?hbmBytes⟩, fun n hreg => ⟨_, rfl, ?sramBuffer, ?sramMem⟩⟩
  case hbmBuffer =>
    simp only [hreg]
    rw [sbuf_coreHbmWrite, hbmWrite_unbuffered hpast hne hfit, sbuf_putMem, sbuf_unbuffered]
  case hbmBytes =>
    simp only [hreg]
    rw [coreHbmWrite_mem, hbmWrite_unbuffered hpast hne hfit, hbmByte_putMem]
    rfl
  case sramBuffer =>
    simp only [hreg]
    exact (sbuf_sramWrite _ _ _ _ _).trans (sbuf_unbuffered _ _ _ _)
  case sramMem =>
    simp only [hreg]
    rfl

end Sys2Proof.Machine
end

section
/-! PROOF. What a step can do to the state beside the module itself: bytes of HBM are written and ranges of it cleared. -/

namespace Sys2Proof.Machine

open Sys2Proof.Safety

/-- `t` is `s` after changes of the module and writes and clears of HBM: nothing else of the state changes. -/
inductive Edits (s : State) : State → Prop
  | refl : Edits s s
  | dev {t : State} {d : Dev} (h : Edits s t) : Edits s { t with dev := d }
  | set {t : State} {a : Nat} {v : Byte} (h : Edits s t) : Edits s { t with mem := hbmSet t.mem a v }
  | clear {t : State} {a n : Nat} (h : Edits s t) : Edits s { t with mem := sclear t.mem a n }

/-- The state an answer holds is `s` after such changes. -/
def EditsIn {σ : Type} (st : σ → State) (s : State) (x : σ) : Prop := Edits s (st x)

protected theorem EditsIn.foldl {α σ : Type} {l : List α} {f : σ → α → σ} {x : σ} {st : σ → State} {s : State} (h : EditsIn st s x)
    (hf : ∀ y, EditsIn st s y → ∀ a, EditsIn st s (f y a)) : EditsIn st s (l.foldl f x) :=
  List.foldlRecOn (motive := EditsIn st s) l f h fun y hy a _ => hf y hy a

namespace Edits

variable {s t u : State}

/-- No edit touches the queue of waiting commands, so no command does (`edits_of_exec`). -/
theorem pending_eq (h : Edits s t) : t.pending = s.pending := by
  induction h with
  | refl => rfl
  | dev _ ih => exact ih
  | set _ ih => exact ih
  | clear _ ih => exact ih

/-- Edits keep HBM's canonical form. -/
theorem memOk (h : Edits s t) (hs : MemOk s) : MemOk t := by
  induction h with
  | refl => exact hs
  | dev _ ih => exact ih
  | set _ ih => exact hbmSet_wf _ _ _ ih
  | clear _ ih => exact sclear_wf _ _ _ ih

/-! The shapes in which the model's operations are put together. -/

protected theorem ite {c : Prop} {_ : Decidable c} (ht : Edits s t) (hu : Edits s u) : Edits s (if c then t else u) := by
  split
  · exact ht
  · exact hu

protected theorem each {α : Type} {l : List α} {f : α → State → State} (h : Edits s t)
    (hf : ∀ a u, Edits s u → Edits s (f a u)) : Edits s (each l f t) :=
  EditsIn.foldl (st := id) h fun u hu a => hf a u hu

protected theorem onDev {f : Dev → Dev} (h : Edits s t) : Edits s (onDev f t) := h.dev

protected theorem whenB {b : Bool} {f : State → State} (h : Edits s t) (hf : Edits s (f t)) : Edits s (whenB b f t) := .ite hf h

/-! The operations that write HBM. -/

protected theorem put {a : Nat} {bs : List Byte} {d : Dev} (h : Edits s t) :
    Edits s { t with mem := hbmPut t.mem a bs, dev := d } := by
  induction bs generalizing t a with
  | nil => exact h.dev
  | cons b r ih => exact ih h.set

protected theorem putPage {page : Nat} {cells : List Host.Cell} {d : Dev} (h : Edits s t) :
    Edits s { t with mem := putPage page cells t.mem, dev := d } :=
  (EditsIn.foldl (st := fun m => { t with mem := m }) h.clear fun m hm _ =>
    Edits.set (t := { t with mem := m }) hm).dev

protected theorem putMem {a : Nat} {bs : List Byte} (h : Edits s t) : Edits s (putMem a bs t) := h.put

protected theorem putWord {a : Nat} {v : DWord} (h : Edits s t) : Edits s (putWord a v t) := h.putMem

protected theorem clearMem {a n : Nat} (h : Edits s t) : Edits s (clearMem a n t) := h.clear.dev

end Edits

section
variable {s u : State}

protected theorem EditsIn.ite {σ : Type} {st : σ → State} {c : Prop} {_ : Decidable c} {x y : σ} (hx : EditsIn st s x)
    (hy : EditsIn st s y) : EditsIn st s (if c then x else y) := by
  split
  · exact hx
  · exact hy

protected theorem EditsIn.each {α σ : Type} {l : List α} {f : α → σ → σ} {st : σ → State} {x : σ} (h : EditsIn st s x)
    (hf : ∀ a y, EditsIn st s y → EditsIn st s (f a y)) : EditsIn st s (each l f x) :=
  h.foldl fun y hy a => hf a y hy

/-- The state beside a value that an operation answers. -/
theorem Edits.beside {α : Type} {x : α} (h : Edits s u) : EditsIn Prod.snd s (x, u) := h

theorem EditsIn.of_eq {α : Type} {p : α × State} {x : α} (h : EditsIn Prod.snd s p) (e : p = (x, u)) : Edits s u := by
  subst e; exact h

/-- The state beside two values. -/
theorem EditsIn.of_eq₃ {α β : Type} {p : α × β × State} {x : α} {y : β} (h : EditsIn (·.2.2) s p) (e : p = (x, y, u)) :
    Edits s u := by
  subst e; exact h

end

end Sys2Proof.Machine
end

section
/-! PROOF. The operations of queues edit the state (R184-R202). -/

namespace Sys2Proof.Machine

namespace Edits

variable {s t : State}

protected theorem setDesc {q : Nat} {x : QDesc} (h : Edits s t) : Edits s (setDesc q x t) := h.onDev.putMem

protected theorem setRdesc {q : Nat} {x : QDesc} (h : Edits s t) : Edits s (setRdesc q x t) := h.onDev.putMem

protected theorem sendEntryMgr {q : Nat} {x : QDesc} {i : Nat} (h : Edits s t) : Edits s (sendEntryMgr q x i t) := h.onDev

protected theorem writeSlot {e : HeldEntry} (h : Edits s t) : Edits s (writeSlot e t) :=
  .ite h.putMem.setDesc.onDev.sendEntryMgr h.putMem.setDesc.onDev

protected theorem releaseEntry {e : HeldEntry} (h : Edits s t) : Edits s (releaseEntry e t) :=
  have hj := Edits.ite h.onDev h
  .ite hj.writeSlot hj.onDev

protected theorem drainBacklog {q n : Nat} (h : Edits s t) : Edits s (drainBacklog q n t) := by
  induction n generalizing t with
  | zero => exact h
  | succ n ih =>
    refine .ite ?_ h
    split
    · exact ih h.onDev.writeSlot
    · exact h

protected theorem advanceCons {q : Nat} (h : Edits s t) : Edits s (advanceCons q t) :=
  .ite h.setDesc.onDev.onDev h.setDesc.onDev

protected theorem releaseSlots {q n : Nat} (h : Edits s t) : Edits s (releaseSlots q n t) := h.setDesc.drainBacklog.onDev

protected theorem countPublished {q : Nat} (h : Edits s t) : Edits s (countPublished q t) :=
  .ite h.setDesc.onDev h.setDesc

/-- One request of publishing goes on, waits for the journal, or ends with an error (R193, R194). -/
protected theorem stepPublish {n : Nat} {p : Publish} (h : Edits s t) : EditsIn Prod.snd s (stepPublish n p t) := by
  induction n generalizing p t with
  | zero => exact h
  | succ n ih =>
    unfold stepPublish
    dsimp only
    split
    · split
      · exact ih h.countPublished
      · exact h
    · split
      · exact h
      · split
        · exact ih h.onDev
        · split
          · exact (Edits.ite h.onDev.onDev h.onDev).onDev
          · split
            · exact ih h.onDev.onDev
            · exact h.onDev

protected theorem progressPubs (h : Edits s t) : Edits s (progressPubs t) :=
  h.onDev.each fun p u hu => by
    dsimp only
    split
    · exact (hu.stepPublish.of_eq ‹_›).onDev
    · exact hu.stepPublish.of_eq ‹_›

protected theorem startPublish {src : Agent} {q n : Nat} (h : Edits s t) : Edits s (startPublish src q n t) :=
  h.onDev.progressPubs

protected theorem sendRelayEntries {r : Nat} {src : Agent} {n slot number : Nat} (h : Edits s t) :
    EditsIn Prod.snd s (sendRelayEntries r src n slot number t) := by
  induction n generalizing slot number t with
  | zero => exact h
  | succ n ih =>
    unfold sendRelayEntries
    dsimp only
    split
    · exact ih h.onDev
    · split
      · exact h.onDev.onDev
      · exact ih h.onDev.onDev

protected theorem publish {a : Agent} {v : Word} (h : Edits s t) : Edits s (publish a v t) := by
  refine .ite h.onDev (.ite ?_ h.startPublish)
  extract_lets
  split
  exact .ite (h.sendRelayEntries.of_eq ‹_›) (h.sendRelayEntries.of_eq ‹_›).onDev

protected theorem release {a : Agent} {v : Word} (h : Edits s t) : Edits s (release a v t) :=
  .ite h.onDev (.ite h.setRdesc.onDev h.releaseSlots)

protected theorem takeEntries {q n : Nat} (h : Edits s t) : Edits s (takeEntries q n t) := by
  induction n generalizing t with
  | zero => exact h
  | succ n ih =>
    unfold takeEntries
    dsimp only
    split
    · exact h
    · exact .ite h.onDev.onDev (ih h.onDev.putMem.onDev.progressPubs)

protected theorem entryHome {c : Chunk} (h : Edits s t) : Edits s (entryHome c t) := by
  refine .ite h (.ite ?_ h.onDev.takeEntries)
  split
  · exact h.onDev.onDev
  · exact h.onDev

protected theorem takeRelayed {r n : Nat} (h : Edits s t) : Edits s (takeRelayed r n t) := by
  induction n generalizing t with
  | zero => exact h
  | succ n ih =>
    unfold takeRelayed
    dsimp only
    split
    · exact h
    · exact ih h.putMem.onDev.setRdesc.onDev

protected theorem entryMgr {pos : Nat} {c : Chunk} (h : Edits s t) : Edits s (entryMgr pos c t) := by
  unfold entryMgr
  split
  · exact .ite h h.onDev.takeRelayed
  · exact h

protected theorem onRelay {pos q : Nat} {f : Nat → QDesc → State → State} (h : Edits s t)
    (hf : ∀ r x, Edits s (f r x t)) : Edits s (onRelay pos q f t) := by
  refine .ite h ?_
  split
  · exact hf _ _
  · exact h

protected theorem prodIn {v r : Nat} {x : QDesc} (h : Edits s t) : Edits s (prodIn v r x t) := .ite h h.setRdesc.onDev

protected theorem consMgr {v r : Nat} {x : QDesc} (h : Edits s t) : Edits s (consMgr v r x t) := .ite h h.setRdesc.onDev

protected theorem consHome {q v : Nat} (h : Edits s t) : Edits s (consHome q v t) := .ite h h.releaseSlots

protected theorem refuseIn {code r : Nat} {x : QDesc} (h : Edits s t) : Edits s (refuseIn code r x t) := by
  unfold refuseIn
  split
  · exact h.onDev
  · exact h

protected theorem reattachIn {q resume : Nat} (h : Edits s t) : Edits s (reattachIn q resume t) :=
  .ite h (h.each fun _ _ hu => hu.sendEntryMgr)

end Edits

end Sys2Proof.Machine
end

section
/-! PROOF. Accesses of HBM by ports, hosts, guide cores and engines edit the state (R133-R149, R182, R218, R461). -/

namespace Sys2Proof.Machine

namespace Edits

variable {s t : State}

protected theorem restorePage {page : Nat} (h : Edits s t) : Edits s (restorePage page t) := by
  refine .ite ?_ h
  split
  · exact h.dev
  · exact h.putPage

protected theorem openOverlay {page : Nat} (h : Edits s t) : Edits s (openOverlay page t) := .ite h.onDev h.putPage

protected theorem replayAccess {acc : Access} {a : Nat} (h : Edits s t) : Edits s (replayAccess acc a t) := by
  unfold replayAccess
  split
  · exact h.dev
  · refine .ite h.dev.onDev ?_
    extract_lets r
    have hr : Edits s r := .ite h.dev h.dev.openOverlay
    split
    · exact hr.onDev.putWord
    · exact hr

/-- An access of a port to HBM: refused, put off, or made after the page's restore (R139-R149). -/
protected theorem hbmAccess {acc : Access} (h : Edits s t) : Edits s (hbmAccess acc t) := by
  refine .ite h.onDev (.ite h (.ite h.onDev (.ite h.replayAccess ?_)))
  extract_lets r
  have hr : Edits s r := h.restorePage
  split
  refine .ite hr.dev (.ite ?_ hr.dev)
  split
  · exact hr.dev
  · exact hr.dev
  · exact hr.dev.putWord

/-- One word made readable before the rest. The kernel cannot check the equation of `readWords`, as it would compute with the size of the
region: the step is taken of the function the recursion is made of. -/
theorem readWords_step {a : Nat} {l : List Nat} {rest : List.below (motive := fun _ => State → Option Got × State) (a :: l)} (h : Edits s t)
    (hrest : ∀ u, Edits s u → EditsIn Prod.snd s (rest.1 u)) : EditsIn Prod.snd s (readWords._f (a :: l) rest t) := by
  unfold readWords._f
  refine .ite h (.ite h.onDev ?_)
  extract_lets r
  have hr : Edits s r := .ite h.restorePage h
  split
  exact .ite (.ite (hrest _ hr.dev.putWord) (.ite hr.dev hr.dev)) (hrest _ hr.dev)

protected theorem readWords {l : List Nat} (h : Edits s t) : EditsIn Prod.snd s (readWords l t) := by
  delta readWords
  induction l generalizing t with
  | nil => exact h
  | cons a l ih => exact readWords_step h fun _ => ih

protected theorem hbmRead {a n : Nat} (h : Edits s t) : EditsIn Prod.snd s (hbmRead a n t) := by
  unfold hbmRead
  dsimp only
  split <;> exact h.readWords.of_eq ‹_›

/-- A write of one word of the region keeps its old value for the checkpoint and its change for parity (R149, R461). -/
protected theorem writeRegionWord {base a : Nat} {bs : List Byte} (h : Edits s t) : Edits s (writeRegionWord base a bs t) := by
  unfold writeRegionWord
  dsimp only
  refine .ite h.restorePage.dev ?_
  split
  · exact h.restorePage.dev
  · exact h.restorePage.dev
  · exact h.restorePage.dev.putWord

protected theorem hbmWrite {a : Nat} {bs : List Byte} (h : Edits s t) : Edits s (hbmWrite a bs t) :=
  have hz := Edits.ite h (.ite (h.each fun _ _ hu => .ite hu.onDev hu.writeRegionWord) h.onDev)
  .ite hz hz.putMem

protected theorem bar2Get {p a n : Nat} (h : Edits s t) : Edits s (bar2Get p a n t) := by
  unfold bar2Get
  split <;> exact (h.hbmRead.of_eq ‹_›).onDev

protected theorem retryReads (h : Edits s t) : Edits s (retryReads t) := h.onDev.each fun _ _ hu => hu.bar2Get

protected theorem guardedWrite {f : Dev → Dev} {a : Nat} {bs : List Byte} (h : Edits s t) : Edits s (guardedWrite f a bs t) :=
  h.each fun _ _ hu => .ite hu.onDev (.ite hu hu.hbmWrite)

protected theorem patrolRead {a : Nat} (h : Edits s t) : Edits s (patrolRead a t) :=
  .ite h (.ite h.dev (.ite h.dev.putWord (.ite h.dev h.dev)))

end Edits

end Sys2Proof.Machine
end

section
/-! PROOF. Traverses, the trace ring and replay records edit the state (R41-R87, R204-R220). -/

namespace Sys2Proof.Machine

namespace Edits

variable {s t : State}

protected theorem closeEntry {q trav : Nat} {full : Bool} (h : Edits s t) : Edits s (closeEntry q trav full t) :=
  have ht := Edits.ite h.onDev.onDev h.onDev
  .ite h.onDev (.ite ht (.ite ht.onDev ht.releaseEntry.onDev))

protected theorem popWord {n q : Nat} {given : Option Bool} (h : Edits s t) : EditsIn Prod.snd s (popWord n q given t) :=
  .ite h.onDev.beside h.onDev.beside

protected theorem ackEntry {q trav : Nat} (h : Edits s t) : Edits s (ackEntry q trav t) :=
  .ite (.ite h.onDev (.ite h.onDev.onDev h.onDev.advanceCons)) h

/-- A queue control of a step pushes, closes, pops or acknowledges (R189-R192). -/
theorem queueAction_edits {n trav : Nat} {full : List Nat} {q : Nat × Nat × Nat × Bool} {r : List (Option Bool) × List (Nat × Bool) × State}
    (h : EditsIn (·.2.2) s r) : EditsIn (·.2.2) s (queueAction n trav full q r) := by
  obtain ⟨pv, pops, t⟩ := r
  have ht : Edits s t := h
  refine .ite h (.ite ?pop (.ite (Edits.ite ht.onDev ht.ackEntry) (.ite (Edits.ite ht.onDev.closeEntry ht.onDev) (.ite ht.onDev h))))
  case pop =>
    split
    exact ht.popWord.of_eq ‹_›

protected theorem applyEffects {n trav st : Nat} {res : List Bool} {full : List Nat} {pv : List (Option Bool)}
    {pops : List (Nat × Bool)} (h : Edits s t) : EditsIn (·.2.2) s (applyEffects n trav st res full (pv, pops, t)) :=
  EditsIn.each (x := (pv, pops, t)) h fun e r hr => by
    extract_lets w r'
    have hr' : EditsIn (·.2.2) s r' := .ite (Edits.onDev hr) (.ite (queueAction_edits hr) hr)
    exact Edits.onDev hr'

protected theorem applyStep {n trav st : Nat} {res : List Bool} (h : Edits s t) : Edits s (applyStep n trav st res t) := by
  unfold applyStep
  extract_lets
  split
  split
  refine .ite h.dev.onDev ?_
  extract_lets
  split
  have he := h.dev.applyEffects.of_eq₃ ‹_›
  exact (Edits.ite he.onDev he.onDev.onDev).onDev

/-- A step of a tile waits, stops at an error, or is made (R45-R67). -/
protected theorem tileStep {n : Nat} (h : Edits s t) : Edits s (tileStep n t) := by
  refine .ite h.onDev (.ite h.onDev.onDev (.ite h.onDev ?_))
  extract_lets
  split
  · exact h.onDev.onDev
  · split
    · exact h.onDev.dev
    · extract_lets
      split
      · exact h.onDev.dev.onDev
      · split
        · exact h.onDev.dev.onDev
        · split
          · exact h.onDev.dev.onDev
          · exact h.onDev.dev.applyStep

protected theorem completeAccess {port : Nat} (h : Edits s t) : Edits s (completeAccess port t) := by
  unfold completeAccess
  split
  · exact .ite h.onDev h.hbmAccess
  · exact h

protected theorem writeTrace (h : Edits s t) : Edits s (writeTrace t) := by
  unfold writeTrace
  split
  · exact h
  · exact .ite h.dev (.ite h.dev h.dev.putMem)

protected theorem writeReplay (h : Edits s t) : Edits s (writeReplay t) := by
  unfold writeReplay
  split
  · exact h
  · exact .ite h.dev h.dev.putMem

end Edits

end Sys2Proof.Machine
end

section
/-! PROOF. Commits, rollbacks, rebuilds and replay edit the state, and so does what becomes possible with a command (R151-R182, R216-R220,
R256-R267). -/

namespace Sys2Proof.Machine

namespace Edits

variable {s t : State}

protected theorem bindQueues {im : Img} (h : Edits s t) : Edits s (bindQueues im t) :=
  EditsIn.foldl (st := Prod.snd) h.onDev.beside fun _ hy _ => (Edits.setDesc hy).beside

protected theorem releaseOutputs {k : Nat} (h : Edits s t) : Edits s (releaseOutputs k t) :=
  ((h.onDev.each fun _ _ hu => hu.releaseEntry).each fun _ _ hu => hu.advanceCons).onDev

protected theorem applyDeltas {ls : List PLog} (h : Edits s t) : Edits s (applyDeltas ls t) := h.each fun _ _ hu => hu.putWord

protected theorem spareCommit {seq : Nat} (h : Edits s t) : Edits s (spareCommit seq t) :=
  .ite h.dev.applyDeltas (.ite h.dev.clearMem (.ite (.ite h.dev.applyDeltas h.dev) h.dev))

protected theorem applyCommit {seq k : Nat} (h : Edits s t) : Edits s (applyCommit seq k t) := by
  unfold applyCommit
  split
  · exact h
  · exact .ite h.dev.releaseOutputs.spareCommit h.dev.releaseOutputs

protected theorem rebuildRings (h : Edits s t) : Edits s (rebuildRings t) :=
  h.each fun _ _ hu => hu.setDesc.onDev.each fun _ _ hv => hv.putMem

protected theorem adoptRestore {pos seq k : Nat} (h : Edits s t) : Edits s (adoptRestore pos seq k t) := by
  unfold adoptRestore
  split
  · exact h
  · exact h.dev.rebuildRings

protected theorem copyTram (h : Edits s t) : Edits s (copyTram t) := h.clearMem.each fun _ _ hu => hu.putWord

protected theorem enterReplay {seq k : Nat} (h : Edits s t) : Edits s (enterReplay seq k t) := by
  unfold enterReplay
  extract_lets
  split
  · exact h.dev.copyTram.onDev
  · exact h.dev

protected theorem leaveReplay (h : Edits s t) : Edits s (leaveReplay t) := h.dev

protected theorem endTransitionAt (h : Edits s t) : Edits s (endTransitionAt t) :=
  have he := (Edits.ite h.leaveReplay h).onDev
  have hd := Edits.ite (he.each fun _ _ hu => hu.setDesc) he
  .ite hd.clearMem (.ite (hd.each fun _ _ hu => hu.setRdesc) hd)

protected theorem takeoverAt (h : Edits s t) : Edits s (takeoverAt t) := .ite (h.onDev.each fun _ _ hu => hu.setRdesc) h.onDev

protected theorem mgrCommit (h : Edits s t) : Edits s (mgrCommit t) := by
  unfold mgrCommit
  extract_lets
  split
  · exact .ite h.dev.applyCommit h
  · exact h

protected theorem startReplay (h : Edits s t) : Edits s (startReplay t) := by
  unfold startReplay
  extract_lets d edited
  clear_value edited
  split
  · split
    · exact h.dev
    · exact h
    · exact .ite h.dev.enterReplay h
  · exact h

protected theorem audioPublish {p : Nat} (h : Edits s t) : Edits s (audioPublish p t) := by
  unfold audioPublish
  extract_lets
  split
  · exact h
  · exact .ite h.putMem.onDev.startPublish h

protected theorem settle (h : Edits s t) : Edits s (settle t) :=
  h.retryReads.onDev.mgrCommit.onDev.startReplay.onDev.progressPubs.audioPublish.audioPublish

/-- A flit received edits the state, where its effect does. -/
protected theorem receive {ty sub body : Nat} {rx : Rx} {f : State → State} (h : Edits s t) (hf : ∀ u, Edits s u → Edits s (f u)) :
    Edits s (receive ty sub rx body f t) := by
  refine .ite h (.ite h.dev ?_)
  split
  · exact h.dev
  · exact .ite (.ite h.dev (hf _ h.dev).settle) (.ite h.dev h.dev)

protected theorem sysctlIn {sub arg value extra : Nat} {rx : Rx} {epoch : BitVec 16} {f : State → State} (h : Edits s t)
    (hf : ∀ u, Edits s u → Edits s (f u)) : Edits s (sysctlIn sub rx epoch arg value extra f t) :=
  h.receive fun u hu => .ite (hf u hu) hu

protected theorem endTraverse {n : Nat} (h : Edits s t) : Edits s (endTraverse n t) := by
  refine .ite h.onDev.dev.settle ?_
  extract_lets
  split
  · exact .ite h.onDev.onDev h.onDev
  · exact h.onDev

protected theorem sendPage {pos page : Nat} (h : Edits s t) : Edits s (sendPage pos page t) := h.dev

protected theorem streamNextPage (h : Edits s t) : Edits s (streamNextPage t) := by
  unfold streamNextPage
  split
  · exact h
  · exact .ite (Edits.ite h h.sendPage).dev (Edits.ite h h.sendPage).dev

protected theorem xorWord {a : Nat} {v : DWord} (h : Edits s t) : Edits s (xorWord a v t) := h.onDev.putWord

protected theorem wordReply {src a : Nat} {v : DWord} (h : Edits s t) : Edits s (wordReply src a v t) := by
  refine .ite h ?_
  split <;> exact .ite h (.ite (h.dev.putWord.each fun _ _ hu => hu.writeRegionWord) h.dev)

protected theorem rebuildIn {src seq8 : Nat} {ws : List DeltaEntry} (h : Edits s t) : Edits s (rebuildIn src seq8 ws t) :=
  h.each fun _ _ hu => .ite hu.xorWord.onDev (.ite (.ite hu.xorWord hu) hu.wordReply)

protected theorem loadDeltas {src seq8 : Nat} {es : List DeltaEntry} (h : Edits s t) : Edits s (loadDeltas src seq8 es t) :=
  h.each fun _ _ hu => hu.onDev.xorWord

protected theorem parityIn {src seq8 : Nat} {es : List DeltaEntry} (h : Edits s t) : Edits s (parityIn src seq8 es t) :=
  .ite (.ite h.loadDeltas h.onDev) h.rebuildIn

protected theorem rebuildReqIn {src a : Nat} {one : Bool} (h : Edits s t) : Edits s (rebuildReqIn src a one t) :=
  .ite h (.ite (.ite h.onDev.onDev h.onDev) (.ite h (.ite h.onDev (.ite h h.sendPage.onDev))))

protected theorem commitIn {seq k : Nat} (h : Edits s t) : Edits s (commitIn seq k t) := (Edits.ite h.onDev h).applyCommit

protected theorem rollbackIn {seq k : Nat} (h : Edits s t) : Edits s (rollbackIn seq k t) := by
  refine .ite h.onDev.enterReplay (.ite h ?_)
  extract_lets r
  have hr : Edits s r := h.commitIn.onDev
  split
  · exact .ite hr.adoptRestore hr.onDev
  · exact hr.onDev

protected theorem beatIn {src k seq restores : Nat} (h : Edits s t) : Edits s (beatIn src k seq restores t) :=
  .ite h (.ite h.onDev (.ite h (.ite h.dev h.dev.commitIn)))

protected theorem adoptLoaded (h : Edits s t) : Edits s (adoptLoaded t) := by
  unfold adoptLoaded
  split
  · exact h
  · extract_lets
    split
    · exact h
    · exact .ite h h.onDev.bindQueues.onDev

protected theorem deliverOwn {f : Flit} (h : Edits s t) : Edits s (deliverOwn f t) :=
  have hd : Edits s (onDev (dropFlit f) t) := h.onDev
  .ite hd.onDev (.ite hd.onDev (.ite hd.onDev (.ite hd.onDev (.ite hd.entryHome (.ite hd.consHome (.ite hd.reattachIn hd))))))

protected theorem deliverWaiting (h : Edits s t) : Edits s (deliverWaiting t) := h.onDev.each fun _ _ hu => hu.deliverOwn

end Edits

end Sys2Proof.Machine
end

section
/-! PROOF. Guide cores from outside, DMA, Float, queues of the bridges, and register writes edit the state (R342-R345, R366, R379-R395,
R397-R433, R437-R445). -/

namespace Sys2Proof.Machine

namespace Edits

variable {s t : State}

protected theorem xferRead {ta n : Nat} (h : Edits s t) : EditsIn Prod.snd s (xferRead ta n t) := by
  refine .ite h.hbmRead ?_
  split <;> exact h.dev

protected theorem xferWrite {ta : Nat} {bs : List Byte} (h : Edits s t) : Edits s (xferWrite ta bs t) :=
  .ite h.guardedWrite h.onDev

protected theorem coreHbmWrite {c a : Nat} {bs : List Byte} (h : Edits s t) : Edits s (coreHbmWrite c a bs t) := by
  unfold coreHbmWrite
  exact h.hbmWrite.onDev

protected theorem drainOne {c : Nat} (h : Edits s t) : Edits s (drainOne c t) := by
  unfold drainOne
  extract_lets
  split
  · exact h
  · extract_lets
    split
    · exact h.onDev
    · exact h.onDev.coreHbmWrite
    · exact h.onDev.onDev

protected theorem drainStores {c : Nat} (h : Edits s t) : Edits s (drainStores c t) := h.each fun _ _ hu => hu.drainOne

protected theorem coreReset {c : Nat} (h : Edits s t) : Edits s (coreReset c t) := h.drainStores.onDev

protected theorem writeCoreCtl {c : Nat} {v : Word} (h : Edits s t) : Edits s (writeCoreCtl c v t) := .ite h.onDev.coreReset h.onDev

protected theorem expire {c : Nat} (h : Edits s t) : Edits s (expire c t) :=
  (Edits.ite h.onDev.coreReset (.ite h.onDev.onDev h.onDev)).onDev

protected theorem writeKick {c : Nat} {v : Word} (h : Edits s t) : Edits s (writeKick c v t) := .ite h.onDev h.expire

/-- The bytes a transfer reads, up to the address it stops at (R382). -/
protected theorem dmaReads {l : List (Nat × Nat)} (h : Edits s t) : EditsIn (·.2.2) s (dmaReads l t) := by
  induction l generalizing t with
  | nil => exact h
  | cons x l ih =>
    obtain ⟨a, b⟩ := x
    refine .ite h (.ite h ?_)
    split
    · split
      exact (ih (h.xferRead.of_eq ‹_›)).of_eq₃ ‹_›
    · exact h.xferRead.of_eq ‹_›
    · exact h.xferRead.of_eq ‹_›

protected theorem dmaMove {n m code : Nat} (h : Edits s t) : Edits s (dmaMove n m code t) := by
  unfold dmaMove
  extract_lets
  split
  · exact h.dmaReads.of_eq₃ ‹_›
  · split
    have hr := h.dmaReads.of_eq₃ ‹_›
    exact (hr.dev.each fun _ _ hu => hu.each fun _ _ hv => hv.xferWrite).onDev

protected theorem dmaFinish {n : Nat} (h : Edits s t) : Edits s (dmaFinish n t) := .ite h (.ite h.dev.dmaMove h.dmaMove)

protected theorem dmaStopAt {n moved : Nat} (h : Edits s t) : Edits s (dmaStopAt n moved t) := .ite h (.ite h.dmaFinish h.dmaMove)

protected theorem rowRead {x : FloatOp} {y : Nat} (h : Edits s t) : EditsIn Prod.snd s (rowRead x y t) := by
  refine .ite h ?_
  split
  · have hs := h.xferRead.of_eq ‹_›
    refine .ite hs ?_
    split
    · exact hs.xferRead.of_eq ‹_›
    · exact hs.xferRead
  · exact h.xferRead

/-- The rows an operation of Float reads, up to the first it cannot read (R394). -/
protected theorem rowsRead {x : FloatOp} {l : List Nat} (h : Edits s t) : EditsIn (·.2.2) s (rowsRead x l t) := by
  induction l generalizing t with
  | nil => exact h
  | cons y l ih =>
    unfold rowsRead
    split
    · split
      exact (ih (h.rowRead.of_eq ‹_›)).of_eq₃ ‹_›
    · exact h.rowRead.of_eq ‹_›
    · exact h.rowRead.of_eq ‹_›

protected theorem floatRows {n code : Nat} (h : Edits s t) : Edits s (floatRows n code t) := by
  unfold floatRows
  extract_lets
  split
  · exact h.rowsRead.of_eq₃ ‹_›
  · exact ((h.rowsRead.of_eq₃ ‹_›).each fun _ _ hu => hu.xferWrite).onDev

protected theorem floatCut (h : Edits s t) : Edits s (floatCut t) := h.dev.floatRows

protected theorem captureEntry {p : Nat} (h : Edits s t) : Edits s (captureEntry p t) := by
  refine .ite h (.ite h.dev.releaseSlots ?_)
  extract_lets
  split
  · exact h
  · exact h.dev.releaseSlots

protected theorem outputEntry {p : Nat} (h : Edits s t) : Edits s (outputEntry p t) := .ite h h.dev.releaseSlots

/-! Exceptions, NMI and debug events (R348-R350, R440, R441). -/

protected theorem bufStore {c ta : Nat} {bs : List Byte} (h : Edits s t) : Edits s (bufStore c ta bs t) := (Edits.ite h.drainOne h).onDev

protected theorem enter {c vector detail : Nat} {addr : Option Word} {ret : BitVec 20} (h : Edits s t) :
    Edits s (enter c vector detail addr ret t) :=
  .ite h.onDev.onDev h.onDev.bufStore.bufStore.onDev

protected theorem enterNmi {c : Nat} (h : Edits s t) : Edits s (enterNmi c t) := h.onDev.enter

protected theorem debugEvent {c reason unit detail : Nat} (h : Edits s t) : Edits s (debugEvent c reason unit detail t) :=
  .ite h.onDev.onDev h.onDev.enter.onDev

protected theorem debugBetween {c reason : Nat} (h : Edits s t) : Edits s (debugBetween c reason t) :=
  have hn := Edits.ite h.enterNmi h
  .ite hn hn.debugEvent

protected theorem endWait {c : Nat} (h : Edits s t) : Edits s (endWait c t) := .ite (.ite h.onDev.debugBetween h.onDev) h

protected theorem takeExt {c : Nat} (h : Edits s t) : Edits s (takeExt c t) := .ite h.endWait.enter h.endWait

protected theorem takeNmi (h : Edits s t) : Edits s (takeNmi t) := .ite h.endWait.enterNmi h.endWait

protected theorem debugRequest {c : Nat} (h : Edits s t) : Edits s (debugRequest c t) :=
  have hp := Edits.ite h.onDev h
  .ite hp.debugBetween hp

protected theorem writeDbgCtl {c : Nat} {v : Word} (h : Edits s t) : Edits s (writeDbgCtl c v t) := .ite h.onDev.debugRequest h.onDev

/-! Register writes (R3-R7, R275). -/

protected theorem writeGcore {off : Nat} {v : Word} (h : Edits s t) : Edits s (writeGcore off v t) :=
  .ite h.onDev (.ite h.onDev (.ite h.writeCoreCtl (.ite h.onDev h.onDev)))

protected theorem writeTimer {off : Nat} {v : Word} (h : Edits s t) : Edits s (writeTimer off v t) :=
  .ite (.ite h.onDev (.ite h.onDev h.onDev)) (.ite h.onDev (.ite (.ite h.onDev (.ite h.writeKick h.onDev)) h.onDev))

protected theorem writeDma {off : Nat} {v : Word} (h : Edits s t) : Edits s (writeDma off v t) :=
  have hs := Edits.ite h.onDev h
  .ite h (.ite (.ite hs.dev.dmaStopAt hs) (.ite h h.onDev))

protected theorem writeFloat {off : Nat} {v : Word} (h : Edits s t) : Edits s (writeFloat off v t) :=
  have hs := Edits.ite h.onDev h
  .ite (.ite hs.floatCut hs) (.ite h h.onDev)

protected theorem writeDebug {src : Agent} {off : Nat} {v : Word} (h : Edits s t) : Edits s (writeDebug src off v t) :=
  .ite h.onDev (.ite (.ite h.writeDbgCtl (.ite h.onDev h.onDev)) h.onDev)

/-- A register's write goes to the operation of its block (R5, R275). -/
protected theorem writeReg {src : Agent} {off : Nat} {v : Word} (h : Edits s t) : Edits s (writeReg src off v t) :=
  .ite h <| .ite (h.whenB h.publish) <| .ite (h.whenB h.release) <| .ite (h.whenB (by split; exacts [h.writeDma, h.writeFloat])) <|
  .ite h.onDev <| .ite h.onDev <| .ite h.onDev <| .ite h.onDev <| .ite h.onDev <| .ite h.writeGcore <| .ite h.onDev <|
  .ite h.writeTimer <| .ite h.onDev <| .ite h.writeDma <| .ite h.writeFloat <| .ite h.onDev <| .ite h.onDev <| .ite h.onDev <|
  .ite h.writeDebug h.onDev

protected theorem busWrite {a : Agent} {width off : Nat} {v : Word} (h : Edits s t) : Edits s (busWrite a width off v t) := by
  refine .ite h (.ite h.writeReg.settle ?_)
  split
  · exact h.onDev.settle
  all_goals exact h

end Edits

end Sys2Proof.Machine
end

section
/-! PROOF. The commands of hosts, ports and the debug port edit the state (R277-R295, R310, R437). -/

namespace Sys2Proof.Machine

namespace Edits

variable {s t : State}

protected theorem runCmd {r : CmdRef} {op : Nat} {f : Cmd → State → State} (h : Edits s t) (hf : ∀ c, Edits s (f c t)) :
    Edits s (runCmd r op f t) := by
  unfold runCmd
  split
  · exact (hf _).settle
  · exact h

protected theorem runMode {r : CmdRef} {op : Nat} {f : Cmd → Dev → Dev} (h : Edits s t) : Edits s (runMode r op f t) :=
  h.runCmd fun _ => h.onDev

protected theorem runWrite {r : CmdRef} {op : Nat} {given : List Byte} {busError : Bool} {f : Cmd → List Byte → State → State}
    (h : Edits s t) (hf : ∀ c bs, Edits s (f c bs t)) : Edits s (runWrite r op given busError f t) := by
  unfold runWrite
  split
  · exact h
  · refine .ite h (.ite h.onDev.settle (.ite h.onDev.settle ?_))
    split
    · exact (hf _ _).settle
    · exact h

protected theorem hbmSlice {a n : Nat} (h : Edits s t) : EditsIn Prod.snd s (hbmSlice a n t) := by
  unfold hbmSlice
  split <;> exact h.hbmRead.of_eq ‹_›

protected theorem memReadSlice {r : CmdRef} {c : Cmd} (h : Edits s t) : Edits s (memReadSlice r c t) := by
  unfold memReadSlice
  extract_lets
  split
  · exact h.onDev
  · split
    exact (h.hbmSlice.of_eq ‹_›).onDev

protected theorem traceReadSlice {r : CmdRef} {c : Cmd} (h : Edits s t) : Edits s (traceReadSlice r c t) := by
  unfold traceReadSlice
  extract_lets
  split
  · exact h.onDev
  · split
    exact (h.hbmSlice.of_eq ‹_›).onDev

protected theorem memWriteSlice {r : CmdRef} {c : Cmd} {bs : List Byte} (h : Edits s t) : Edits s (memWriteSlice r c bs t) :=
  .ite h.onDev h.hbmWrite.onDev

protected theorem loadImage {im : Img} {c : List Byte} (h : Edits s t) : Edits s (loadImage im c t) :=
  (h.onDev.bindQueues.clearMem.each fun _ _ hu => hu.putMem).dev

protected theorem loadHere {r : CmdRef} {part : Nat} {c : List Byte} (h : Edits s t) : Edits s (loadHere r part c t) := by
  unfold loadHere
  extract_lets
  split
  · exact h.onDev
  · exact h.loadImage.onDev

protected theorem loadPart {r : CmdRef} {image : List Byte} {busError : Bool} (h : Edits s t) : Edits s (loadPart r image busError t) := by
  unfold loadPart
  split
  · exact h
  · refine .ite h (.ite h.onDev ?_)
    split
    · exact .ite h.onDev (.ite h.loadHere (.ite h.onDev h))
    · split
      · exact h.loadHere
      · exact h

protected theorem attachRelay {r : CmdRef} {q index : Nat} (h : Edits s t) : Edits s (attachRelay r q index t) :=
  have hr := (Edits.ite h h.onDev).setRdesc
  .ite h.onDev (.ite h.onDev (.ite h.onDev (Edits.ite hr.onDev hr).onDev))

protected theorem attachOwn {r : CmdRef} {q : Nat} (h : Edits s t) : Edits s (attachOwn r q t) := by
  unfold attachOwn
  extract_lets x owner u
  have hu : Edits s u := by
    unfold u
    split
    · exact h.onDev
    · exact h
  exact .ite hu.onDev (.ite hu.setDesc.onDev hu.onDev)

protected theorem regWriteCmd {r : CmdRef} {c : Cmd} (h : Edits s t) : Edits s (regWriteCmd r c t) := h.writeReg.onDev.settle

protected theorem hbmTrained (h : Edits s t) : Edits s (hbmTrained t) := .ite h h.clearMem.onDev

protected theorem dapReadOp {r : BitVec 80} (h : Edits s t) : Edits s (dapReadOp r t) := by
  unfold dapReadOp
  split
  refine .ite h.onDev (.ite h.onDev (.ite h.onDev ?_))
  split
  · exact h.onDev
  · split
    · exact (h.xferRead.of_eq ‹_›).onDev
    · exact h.xferRead.of_eq ‹_›
    · exact (h.xferRead.of_eq ‹_›).onDev

protected theorem dapWriteOp {r : BitVec 80} (h : Edits s t) : Edits s (dapWriteOp r t) := by
  unfold dapWriteOp
  split
  refine .ite (.ite h.onDev (.ite h.onDev h.writeReg.settle.onDev)) (.ite h.onDev (.ite h.onDev ?_))
  split
  · exact h.onDev
  · exact (Edits.ite h.hbmWrite h.onDev).onDev

/-- A tick of TBCLK (R365). -/
protected theorem idleTick (h : Edits s t) : Edits s (idleTick t) := .ite (.ite h.onDev h.onDev.streamNextPage) h

end Edits

end Sys2Proof.Machine
end

section
/-! PROOF. What an instruction of a guide core does edits the state (R313-R350). -/

namespace Sys2Proof.Machine

open Sys2Proof.Safety

namespace Edits

variable {s t : State}

protected theorem fetchWord {c a : Nat} (h : Edits s t) : EditsIn Prod.snd s (fetchWord c a t) := by
  unfold fetchWord
  extract_lets d k n ha
  split
  · exact .ite h (.ite h.dev h)
  · refine .ite h ?_
    split
    · split <;> exact h.hbmRead.of_eq ‹_›
    · split
      · split
        · exact h.hbmRead.of_eq ‹_›
        · exact h
      · exact h

protected theorem fetchAll {c : Nat} {l : List Nat} (h : Edits s t) : EditsIn Prod.snd s (fetchAll c l t) := by
  induction l generalizing t with
  | nil => exact h
  | cons a l ih =>
    unfold fetchAll
    split
    · exact ih (h.fetchWord.of_eq ‹_›)
    · exact h.fetchWord

protected theorem fillProgram {c line : Nat} (h : Edits s t) : Edits s (fillProgram c line t) := by
  refine .ite h ?_
  split
  · exact (h.hbmRead.of_eq ‹_›).onDev
  · exact h

protected theorem fillLine {c l : Nat} (h : Edits s t) : Edits s (fillLine c l t) := by
  unfold fillLine
  split
  · exact (h.xferRead.of_eq ‹_›).onDev
  · exact h.xferRead.of_eq ‹_›

/-- A load reads memory, and a miss allocates its lines (R337, R340, R343). -/
protected theorem readData {c a n : Nat} (h : Edits s t) : EditsIn Prod.snd s (readData c a n t) := by
  refine .ite h ?_
  split
  · exact h.xferRead.of_eq ‹_›
  · exact h.xferRead.of_eq ‹_›
  · have hr := h.xferRead.of_eq ‹_›
    exact .ite hr (Edits.each hr fun _ _ hu => hu.fillLine).beside

protected theorem loadMem {c a n : Nat} (h : Edits s t) : EditsIn Prod.snd s (loadMem c a n t) := by
  unfold loadMem
  extract_lets
  split
  · exact h.readData
  · exact .ite h h

protected theorem loadControl {c a n : Nat} (h : Edits s t) : EditsIn Prod.snd s (loadControl c a n t) :=
  .ite h.beside (.ite h.beside (.ite h.dev.beside h.dev.beside))

protected theorem loadData {c a n : Nat} (h : Edits s t) : EditsIn Prod.snd s (loadData c a n t) := by
  unfold loadData
  split
  · exact h.dev
  · exact .ite h.loadControl h.loadMem

protected theorem storeData {c a : Nat} {bs : List Byte} (h : Edits s t) : EditsIn Prod.snd s (storeData c a bs t) := by
  unfold storeData
  split
  · exact h.dev
  · exact .ite h.beside (.ite h.beside h.bufStore.beside)

protected theorem storeControl {c a : Nat} {bs : List Byte} (h : Edits s t) : Edits s (storeControl c a bs t) :=
  .ite h (.ite h.busWrite h.busWrite.busWrite)

protected theorem storeNow {c ta : Nat} {bs : List Byte} (h : Edits s t) : Edits s (storeNow c ta bs t) :=
  .ite h.onDev.coreHbmWrite h.onDev.onDev

protected theorem readFrame {c sp : Nat} (h : Edits s t) : EditsIn Prod.snd s (readFrame c sp t) := by
  unfold readFrame
  split
  · exact h.loadMem.of_eq ‹_›
  · exact h.loadMem.of_eq ‹_›
  · have hp := h.loadMem.of_eq ‹_›
    split <;> exact hp.loadMem.of_eq ‹_›

protected theorem afterStep {c : Nat} {armed : Bool} (h : Edits s t) : Edits s (afterStep c armed t) := .ite h.debugBetween h

end Edits

/-- Every state an instruction's effect goes on with is an edit. -/
inductive EffEdits (s : State) : Eff → Prop
  | retire {u : State} (h : Edits s u) : EffEdits s (.retire u)
  | retireThen {u : State} {post : State → State} (h : Edits s u) (hpost : ∀ v, Edits s v → Edits s (post v)) :
      EffEdits s (.retireThen u post)
  | goto {pc : BitVec 20} {u : State} (h : Edits s u) : EffEdits s (.goto pc u)
  | trap {vector detail : Nat} {addr : Option Word} {ret : Option (BitVec 20)} {u : State} (h : Edits s u) :
      EffEdits s (.trap vector detail addr ret u)
  | debug {reason unit detail : Nat} {u : State} (h : Edits s u) : EffEdits s (.debug reason unit detail u)
  | lock {u : State} (h : Edits s u) : EffEdits s (.lock u)
  | wait {u : State} (h : Edits s u) : EffEdits s (.wait u)

protected theorem EffEdits.ite {s : State} {c : Prop} {_ : Decidable c} {x y : Eff} (hx : EffEdits s x) (hy : EffEdits s y) :
    EffEdits s (if c then x else y) := by
  split
  · exact hx
  · exact hy

/-- What follows an instruction's effect: retirement, a transfer, an entry or a debug event (R333-R336, R348). -/
theorem EffEdits.applyEff {s : State} {c : Nat} {pc a : BitVec 20} {paired armed : Bool} {head : Option GroupHead} {e : Eff}
    (h : EffEdits s e) : Edits s (applyEff c pc a paired head armed e) := by
  cases h with
  | retire hu => exact hu.onDev.afterStep
  | retireThen hu hpost => exact (hpost _ hu.onDev).afterStep
  | goto hu => exact hu.onDev.afterStep
  | trap hu => exact hu.enter
  | debug hu => exact hu.debugEvent
  | lock hu => exact hu
  | wait hu => exact hu

/-- An instruction edits the state where its body's effect does. -/
theorem keeps_issue {core : BitVec 5} {ext : List (BitVec 10)} {form : Dev → GCore → BitVec 20 → Form} {full : GCore → Bool}
    {body : BitVec 20 → State → Eff} {s : State} (hbody : ∀ a u, Edits s u → EffEdits s (body a u)) :
    Keeps (Edits s) (issue core ext form full body s) := by
  have hw : Edits s (endWait core.toNat s) := Edits.refl.endWait
  unfold issue
  extract_lets
  split
  · exact Edits.refl
  · split
    · exact hw
    · split
      · exact hw.fetchAll.of_eq ‹_›
      · exact (hw.fetchAll.of_eq ‹_›).enter
      · have hf := hw.fetchAll.of_eq ‹_›
        split
        · exact hf.enter
        · split
          · trivial
          · split
            · exact hf
            · split
              · exact hf.enter
              · split
                · exact hf.debugEvent
                · exact (hbody _ _ hf).applyEff

section
variable {s t : State}

theorem aluBody_edits {c rd : Nat} {ovf : Bool} {f : GCore → Word × Flags} (h : Edits s t) : EffEdits s (aluBody c rd ovf f t) :=
  .ite (.trap h) (.retire h.onDev)

theorem divBody_edits {c rd rs : Nat} {ext : List (BitVec 10)} {ovf : Bool} {f : Word → Word → Flags → Word × Flags} (h : Edits s t) :
    EffEdits s (divBody c rd ext rs ovf f t) :=
  .ite (.ite (.trap h) (aluBody_edits h)) (aluBody_edits h)

theorem flagBody_edits {c : Nat} {f : GCore → Word × Flags} (h : Edits s t) : EffEdits s (flagBody c f t) := .retire h.onDev

theorem moveBody_edits {c rd : Nat} {f : GCore → Word} (h : Edits s t) : EffEdits s (moveBody c rd f t) := .retire h.onDev

/-- A watchpoint that is hit takes the place of an access (R440). -/
theorem watched_edits {c a n : Nat} {write : Bool} {go : Eff} (h : Edits s t) (hgo : EffEdits s go) :
    EffEdits s (watched c a n write t go) := by
  unfold watched
  split
  · exact .debug h
  · exact hgo

theorem loadBody_edits {c a n : Nat} {regs : List Nat} {base : Option (Nat × Word)} {more : GCore → GCore} (h : Edits s t) :
    EffEdits s (loadBody c a n regs base more t) := by
  refine watched_edits h ?_
  split
  · exact .wait (h.loadData.of_eq ‹_›)
  · exact .trap (h.loadData.of_eq ‹_›)
  · exact .retire (h.loadData.of_eq ‹_›).onDev

theorem storeBody_edits {c a : Nat} {bs : List Byte} {base : Option (Nat × Word)} (h : Edits s t) :
    EffEdits s (storeBody c a bs base t) := by
  refine watched_edits h ?_
  split
  · exact .wait (h.storeData.of_eq ‹_›)
  · exact .trap (h.storeData.of_eq ‹_›)
  · exact .retire (h.storeData.of_eq ‹_›).onDev
  · exact .retireThen (h.storeData.of_eq ‹_›).onDev fun _ hv => hv.storeControl

theorem ldBody_edits {c size rd rb : Nat} {ext : List (BitVec 10)} {p : Bool} (h : Edits s t) :
    EffEdits s (ldBody c ext size p rd rb t) := by
  unfold ldBody
  exact loadBody_edits h

theorem popBody_edits {c rd : Nat} (h : Edits s t) : EffEdits s (popBody c rd t) := by
  unfold popBody
  exact loadBody_edits h

theorem stBody_edits {c size rd rb : Nat} {ext : List (BitVec 10)} {p : Bool} (h : Edits s t) :
    EffEdits s (stBody c ext size p rd rb t) := by
  unfold stBody
  exact storeBody_edits h

theorem pushBody_edits {c rs : Nat} (h : Edits s t) : EffEdits s (pushBody c rs t) := by
  unfold pushBody
  exact storeBody_edits h

theorem llBody_edits {c rd : Nat} (h : Edits s t) : EffEdits s (llBody c rd t) :=
  .ite (.wait h) (.ite (watched_edits h (.trap h)) (loadBody_edits h))

theorem scBody_edits {c rs : Nat} (h : Edits s t) : EffEdits s (scBody c rs t) := by
  refine .ite (.wait h) ?_
  split
  · exact .retire h.onDev
  · exact watched_edits h (.retire h.storeNow.onDev)

theorem syncBody_edits {c : Nat} (h : Edits s t) : EffEdits s (syncBody c t) := .ite (.retire h) (.wait h)

theorem branchBody_edits {c cond : Nat} {dist a : BitVec 20} (h : Edits s t) : EffEdits s (branchBody c cond dist a t) :=
  .ite (.goto h.onDev) (.retire h.onDev)

theorem jrBody_edits {c rs : Nat} (h : Edits s t) : EffEdits s (jrBody c rs t) := .goto h.onDev

theorem loopBody_edits {c rc len : Nat} {a : BitVec 20} (h : Edits s t) : EffEdits s (loopBody c rc len a t) :=
  .ite (.goto h) (.goto h.onDev)

theorem breaklBody_edits {c : Nat} {a : BitVec 20} (h : Edits s t) : EffEdits s (breaklBody c a t) := .goto h.onDev

theorem bkptBody_edits {c n : Nat} (h : Edits s t) : EffEdits s (bkptBody c n t) := .ite (.retire h.onDev) (.debug h)

theorem waitBody_edits {c : Nat} (h : Edits s t) : EffEdits s (waitBody c t) := .ite (.retire h) (.retire h.onDev)

theorem mtsBody_edits {c sr rs : Nat} (h : Edits s t) : EffEdits s (mtsBody c sr rs t) := .retireThen h fun _ hv => hv.onDev

theorem xretBody_edits {c : Nat} (h : Edits s t) : EffEdits s (xretBody c t) := by
  refine .ite (.lock h.onDev) ?_
  split
  · exact .wait (h.readFrame.of_eq ‹_›)
  · exact .lock (h.readFrame.of_eq ‹_›).onDev
  · exact .goto (h.readFrame.of_eq ‹_›).onDev

end

end Sys2Proof.Machine
end

section
/-! PROOF. Every command edits the state, so every step keeps HBM's canonical form (R133, R149). -/

namespace Sys2Proof.Machine

open Sys2Proof.Safety

theorem keeps_execAlu {c : BitVec 5} {ext : List (BitVec 10)} {rd rs : BitVec 4} {form : Form} {ovf : Bool}
    {f : Word → Word → Flags → Word × Flags} {s : State} : Keeps (Edits s) (execAlu c ext rd rs form ovf f s) :=
  keeps_issue fun _ _ => aluBody_edits

theorem keeps_execCompare {c : BitVec 5} {ext : List (BitVec 10)} {rd rs : BitVec 4} {f : Word → Word → Flags → Word × Flags}
    {s : State} : Keeps (Edits s) (execCompare c ext rd rs f s) :=
  keeps_issue fun _ _ => flagBody_edits

theorem keeps_execUnary {c : BitVec 5} {ext : List (BitVec 10)} {rd : BitVec 4} {f : Word → Word} {s : State} :
    Keeps (Edits s) (execUnary c ext rd f s) :=
  keeps_issue fun _ _ => moveBody_edits

/-- A guard that stands before the outcome: flits with a count of words that no rule gives. -/
theorem keeps_ite {P : State → Prop} {c : Prop} {_ : Decidable c} {x y : Host.Outcome State Fault Refusal} (hx : Keeps P x)
    (hy : Keeps P y) : Keeps P (if c then x else y) := by
  split
  · exact hx
  · exact hy

open Edits in
/-- What a command leaves is an edit of the state it finds: its own operation, under the guard of its kind. -/
theorem exec_keeps_edits (i : Instr) (s : State) : Keeps (Edits s) (exec i s) := by
  cases i <;> dsimp only [exec]
  -- events of the module, which change the module alone
  case resetN | vauxFirstGood | vauxLoss | vinGood | vioChange | resetNRelease | refclkDetected => exact refl.onDev
  case readClear | loRead | triggerUnitWrite | traceMaskWrite | cairnAck | latchClear | cairnSrcWrite | inject | gcorePdata | claim |
      complete | swi | clrpend | disable | tmrCountLatch | tmrCapRead | alarmArm | gpioPinWrite | gpioSet | gpioClr | mbxSendGo |
      mbxRxRelease | vidCommit | captureBind | auxStart | audioPortBind | dbgStim | dbgTraceDataHi | engineInitComplete | rateWindow |
      heartbeat | lcStatus | lcStatusTimer | retrainPeriod | laneRejoin | deviceSilence | fltNPulseEnd | portLinkUp | glitchFilter |
      countTick | capture | alarm | watchdogWarning | pulseEnd | auxReply | hpdChange | zcTimeout | fsyncAbsent | flitDiscard |
      fsyncReturn | managerTimeout | traverseBegin | tileNetworkArrival | stepMemoryScrub | hostwaitLimit | signalFlitClose |
      timeExchangePeriod | timeRequest | parityFlitClose | beatPeriod | probePeriod | commandSlice | dataLoadReturn | park | unpark |
      lineListApply | dmaStart | fill | copy | blend | tapReset | extest | idcode | samplePreload | clamp | highz | bypass | dapacc =>
    exact .ite refl.onDev refl
  case railOutOfWindow | powerMeasurement | temperatureReading | configurationRead | baseCampStart | bootWindowExpiry | belay | lcTrain |
      lcNak | ropeTrainingTimeout | resendTimeout | ropeAckTimeout | laneLoss | cairnEvent | portReset | blockBoundary | strand |
      strandTimeout | stall | timeReply | wallCapExpiry | restoreComplete | replayEnd | censusClose | loadComplete | frameBoundary |
      linkProtocolFault | linkBelayRaise | hostMbGo | hostMbPop | hostPpSqTail | hostPpCqHead | hostPpCqCfg | debugHalt | debugRelease =>
    exact .ite refl.onDev.settle refl
  case laneDis | retrain | ackWindowExpiry | settleExpiry => exact .ite (.ite refl.onDev.settle refl) refl
  -- flits
  case hold | high | stop | arrived | feeder | hostwaitOn | hostwaitOff | ropeLost | floor | parityMark | rebuildPageEnd | request |
      reply | boundary | ready | abandon | jack | ckpdataEnd | trigLine | trigFreeze | trace | report | silent | safe | takeover |
      cmd | cmdResp | bulk | probe => exact refl.receive fun _ h => h.onDev
  case mode | topo | lost | ack | census | censusReply | adopt | adopted | done | appoint | stepword =>
    exact refl.sysctlIn fun _ h => h.onDev
  case map => exact refl.sysctlIn fun _ h => h.onDev.deliverWaiting
  case beat => exact refl.sysctlIn fun _ h => h.beatIn
  case rebuildReq => exact refl.sysctlIn fun _ h => h.rebuildReqIn
  case signal => exact keeps_ite refl (refl.receive fun _ h => h.onDev)
  case parity => exact keeps_ite (.ite refl.onDev.settle refl) (keeps_ite refl (refl.receive fun _ h => h.parityIn))
  case rebuildWords => exact keeps_ite refl (refl.receive fun _ h => h.rebuildIn)
  case ckpdataState | ckpdataTram | ckpdataQpos | ckpdataJrnl => exact keeps_ite refl (refl.receive fun _ h => h.onDev)
  case commit => exact refl.receive fun _ h => .ite h h.commitIn
  case rollback => exact refl.receive fun _ h => h.rollbackIn
  case entry => exact refl.receive fun _ h => .ite (.ite h.entryMgr h) h.entryHome
  case prod => exact refl.receive fun _ h => h.onRelay fun _ _ => h.prodIn
  case cons => exact refl.receive fun _ h => .ite (h.onRelay fun _ _ => h.consMgr) h.consHome
  case refuse => exact refl.receive fun _ h => h.onRelay fun _ _ => h.refuseIn
  case reattach => exact refl.receive fun _ h => h.reattachIn
  -- the fabric, the executor and the engines
  case hbmTrainingComplete => exact .ite refl.hbmTrained refl
  case transitionEnd => exact .ite refl.endTransitionAt.takeoverAt.settle refl
  case tileStep => exact .ite refl.tileStep.settle refl
  case portAccessComplete => exact .ite (.ite refl refl.completeAccess.settle) refl
  case traverseEnd => exact .ite refl.endTraverse refl
  case traceRecordWrite => exact .ite refl.writeTrace refl
  case replayRecordWrite => exact .ite refl.writeReplay refl
  case patrolScrub => exact .ite refl.patrolRead refl
  case pageRestore => exact .ite refl.restorePage refl
  case adoptImageLoaded => exact .ite refl.adoptLoaded.settle refl
  case quePublish => exact .ite refl.publish.settle refl
  case queRelease => exact .ite refl.release.settle refl
  case bar2Read => exact .ite refl.bar2Get.settle refl
  case bar2Write => exact .ite refl.guardedWrite.settle refl
  case status | regRead | belayCommand | fabricRead => exact .ite (refl.runCmd fun _ => refl.onDev) refl
  case regWrite => exact .ite (refl.runCmd fun _ => refl.regWriteCmd) refl
  case load | loadAbort | unload | run | step | freeze | resume | replay | replayAbort => exact .ite refl.runMode refl
  case loadPart => exact .ite refl.loadPart.settle refl
  case memRead => exact .ite (refl.runCmd fun _ => refl.memReadSlice) refl
  case memWrite => exact .ite (refl.runWrite fun _ _ => refl.memWriteSlice) refl
  case fabricWrite => exact .ite (refl.runWrite fun _ _ => refl.onDev) refl
  case traceRead => exact .ite (refl.runCmd fun _ => refl.traceReadSlice) refl
  case queueAttach => exact .ite (refl.runCmd fun c => by split; exacts [refl.attachRelay, refl.attachOwn]) refl
  case dmaStop => exact .ite (.ite refl.dmaStopAt.settle refl) refl
  case dmaComplete => exact .ite refl.dmaFinish.settle refl
  case floatAbort => exact .ite (.ite refl.floatCut.settle refl) refl
  case floatComplete => exact .ite (.ite refl (Edits.ite refl.floatCut refl.floatRows).settle) refl
  case captureEntry => exact .ite refl.captureEntry.settle refl
  case outputEntryRead => exact .ite refl.outputEntry.settle refl
  case audioFrame => exact .ite refl.onDev.audioPublish refl
  -- registers, guide cores and the debug port
  case registerWrite => exact .ite refl.busWrite refl
  case gcoreRun | gcoreReset | det | icinv | dcinv => exact .ite refl.writeCoreCtl refl
  case kick => exact .ite refl.writeKick.settle refl
  case watchdogExpiry => exact .ite (.ite refl.expire.settle refl) refl
  case haltreq | dbgResume => exact .ite refl.writeDbgCtl refl
  case extint => exact .ite refl.takeExt refl
  case nmi => exact .ite refl.takeNmi refl
  case programCacheFill => exact .ite refl.fillProgram refl
  case storeBufferDrain => exact .ite refl.drainOne refl
  case dapRead => exact .ite (by dsimp only; split; exacts [.ite refl.dapReadOp refl, refl]) refl
  case dapWrite => exact .ite (by dsimp only; split; exacts [.ite refl.dapWriteOp refl, refl]) refl
  -- instructions of the guide cores
  case add | adc | sub | sbc | and | or | xor | lsl | lsr | asr | mul => exact keeps_execAlu
  case addi | shi | neg | not => exact keeps_issue fun _ _ => aluBody_edits
  case cmp | tst => exact keeps_execCompare
  case cmpi => exact keeps_issue fun _ _ => flagBody_edits
  case div | divu => exact keeps_issue fun _ _ => divBody_edits
  case sextb | sexth | zextb | zexth | clz | rev => exact keeps_execUnary
  case mov | movi => exact keeps_issue fun _ _ => moveBody_edits
  case mfs => exact keeps_issue fun _ _ h => .ite (.wait h) (moveBody_edits h)
  case mts => exact keeps_issue fun _ _ => mtsBody_edits
  case ld => exact keeps_issue fun _ _ => ldBody_edits
  case pop => exact keeps_issue fun _ _ => popBody_edits
  case st => exact keeps_issue fun _ _ => stBody_edits
  case push => exact keeps_issue fun _ _ => pushBody_edits
  case ll => exact keeps_issue fun _ _ => llBody_edits
  case sc => exact keeps_issue fun _ _ => scBody_edits
  case sync => exact keeps_issue fun _ _ => syncBody_edits
  case branch => exact keeps_issue fun _ _ => branchBody_edits
  case jmp => exact keeps_issue fun _ _ => .goto
  case call | callr => exact keeps_issue fun _ _ h => .goto h.onDev
  case jr => exact keeps_issue fun _ _ => jrBody_edits
  case loop => exact keeps_issue fun _ _ => loopBody_edits
  case breakl => exact keeps_issue fun _ _ => breaklBody_edits
  case nop => exact keeps_issue fun _ _ => .retire
  case trap => exact keeps_issue fun _ _ => .trap
  case bkpt => exact keeps_issue fun _ _ => bkptBody_edits
  case wait => exact keeps_issue fun _ _ => waitBody_edits
  case xret => exact keeps_issue fun _ _ => xretBody_edits
  case illegal => exact keeps_issue fun _ _ => .wait

theorem edits_of_exec {i : Instr} {s t : State} (h : exec i s = .next t) : Edits s t := by
  have hk := exec_keeps_edits i s
  rw [h] at hk
  exact hk

/-- Settles O49: a step is a tick or a command, and either edits the state; edits keep the canonical form. -/
theorem everyStepKeepsMemory : Obligations.EveryStepKeepsMemory := by
  intro s t hs h
  unfold step at h
  split at h
  · cases h
    exact Edits.refl.idleTick.memOk hs
  · exact (edits_of_exec h).memOk hs

end Sys2Proof.Machine
end

section
/-! PROOF. Checkpoints: the events of the engine, and the CKPCTL and CKPDATA flits that are delivered here (R156-R182). -/

namespace Sys2Proof.Machine

open Sys2Proof.Safety

/-- A holder that is not the manager sets its fence past what it has begun, and replies with it (R160 step 2). -/
theorem requestIn_holder {d : Dev} (hm : isMgr d = false) (hh : holds d = true) : requestIn d =
    sendMgr 0x14 1 (ckpctl 0 (highBegun d + max 4 d.ck.lead) 0)
      { d with tv := { d.tv with fence := some (highBegun d + max 4 d.ck.lead) } } :=
  if_neg (by simp [hm, hh])

/-- The manager that asks notes the sender's fence in place of an earlier one (R160 step 3). -/
theorem replyIn_asking {d : Dev} (hm : isMgr d = true) (hask : d.ck.requesting = true) (pos f : Nat) : replyIn pos f d =
    boundaryIfReplied { d with ck := { d.ck with replies := (pos, f) :: d.ck.replies.filter (·.1 != pos) } } :=
  if_pos (by simp [hm, hask])

/-- COMMIT acts on every device but the manager, which has named the checkpoint itself (R164). -/
theorem exec_commit_notMgr {rx : Rx} {s : State} {seq : Word} {k : DWord} {d : Dev} (hd : Delivered 0x14 4 rx s)
    (htaken : taken 0x14 4 rx (ckpctl seq.toNat k.toNat 0) s = d) (hm : isMgr d = false) :
    exec (.commit rx seq k) s = .next (settle (commitIn seq.toNat k.toNat (setDev s d))) := by
  subst htaken
  exact congrArg Host.Outcome.next ((receive_delivered 0x14 4 rx _ _ s hd).trans
    (congrArg settle (if_neg (Bool.eq_false_iff.mp hm))))

/-- A CKPDATA flit of one to three words is received (R169), and one that is delivered has its effect. -/
theorem ckpWords_takes {kind seq7 : Nat} {rx : Rx} {s : State} {ws : List DWord} (hlo : 1 ≤ ws.length) (hhi : ws.length ≤ 3)
    (hd : Delivered 0x28 (kind + 8 * seq7) rx s) (off : Nat) (f : Dev → Dev) :
    ckpWords kind rx seq7 off ws (onDev f) s = .next (takes 0x28 (kind + 8 * seq7) rx (ckpBody off ws) f s) := by
  have hne : ws ≠ [] := List.ne_nil_of_length_pos hlo
  have hcount : ¬(ws.isEmpty || 3 < ws.length) = true := by simp [hne, hhi]
  exact (if_neg hcount).trans (receive_takes hd f)

/-- Settles O26: each event is its operation; each flit is taken and has its operation's effect, in the branch that its hypotheses
leave. -/
theorem checkpointCommandsComplete : Obligations.CheckpointCommandsComplete := by
  refine ⟨fun s rx => ⟨fun page hg => ?pageRestore, fun hg => ?wallCap, fun hg _ => ?restoreComplete, fun hd hm hh => ?request,
    fun f hd hm hask => ?reply, fun seq k hd => ?boundary, fun seq k fromSpare asks hd => ?ready, fun seq k hd hm => ?commit,
    fun seq k hd => ?abandon, fun seq k hd => ?rollback, fun seq off stored hd => ?jack⟩,
    fun s rx seq7 off ws hlo hhi => ⟨fun hd => ?state, fun hd => ?tram, fun hd => ?qpos, fun hd => ?jrnl, fun seq k n hd => ?endOf⟩⟩
  case pageRestore => exact next_whenGranted hg _
  case wallCap => exact next_whenGranted hg _
  case restoreComplete => exact next_whenGranted hg _
  case request => exact receive_takes_as hd (requestIn_holder hm hh)
  case reply => exact receive_takes_as hd (replyIn_asking hm hask _ _)
  case boundary => exact receive_takes hd _
  case ready => exact receive_takes hd _
  case commit => exact exec_commit_notMgr hd rfl hm
  case abandon => exact receive_takes hd _
  case rollback => exact congrArg Host.Outcome.next (receive_delivered 0x14 6 rx _ _ s hd)
  case jack => exact receive_takes hd _
  case state => exact ckpWords_takes hlo hhi hd _ _
  case tram => exact ckpWords_takes hlo hhi hd _ _
  case qpos => exact ckpWords_takes hlo hhi hd _ _
  case jrnl => exact ckpWords_takes hlo hhi hd _ _
  case endOf => exact receive_takes hd _

end Sys2Proof.Machine
end

section
/-! PROOF. Queues: publishing and releasing, and the QUEUE flits that are delivered here (R193-R200). -/

namespace Sys2Proof.Machine

open Sys2Proof.Safety

/-- An agent that may write, with no debug halt, has its request of an engine taken (R442). -/
theorem whenServed_of_running {a : Agent} {s : State} (hw : writable s.dev a = true) (hrun : flag s.dev DBG_HALT_HALTED = false)
    (f : State → State) : whenServed a f s = f s :=
  if_pos (by simp [hw, hrun])

theorem exec_quePublish_running {a : Agent} {s : State} (hw : writable s.dev a = true) (hrun : flag s.dev DBG_HALT_HALTED = false)
    (v : Word) : exec (.quePublish a v) s = .next (settle (publish a v s)) :=
  congrArg Host.Outcome.next (whenServed_of_running hw hrun _)

theorem exec_queRelease_running {a : Agent} {s : State} (hw : writable s.dev a = true) (hrun : flag s.dev DBG_HALT_HALTED = false)
    (v : Word) : exec (.queRelease a v) s = .next (settle (release a v s)) :=
  congrArg Host.Outcome.next (whenServed_of_running hw hrun _)

/-- A delivered flit is taken, and the state its effect then leaves settles; `receive_takes_as` for effects on the whole state. -/
theorem next_receive_delivered {ty sub body : Nat} {rx : Rx} {s t : State} {f : State → State} (hd : Delivered ty sub rx s)
    (hf : f (setDev s (taken ty sub rx body s)) = t) :
    (.next (receive ty sub rx body f s) : Host.Outcome State Fault Refusal) = .next (settle t) :=
  congrArg Host.Outcome.next ((receive_delivered ty sub rx body f s hd).trans (congrArg settle hf))

/-- Settles O28: a request of an agent that is served is its operation; a flit is taken and has its operation's effect, and how it is
addressed selects the manager's side or the home device's. -/
theorem queueCommandsComplete : Obligations.QueueCommandsComplete := by
  intro s rx
  refine ⟨fun a v hw hrun => ⟨?publish, ?release⟩,
    fun q chunk last i data hd => ⟨fun hpos hm => ?entryMgr, fun hpart => ?entryHome⟩, fun q v hd => ?prod,
    fun q v hd => ⟨fun hpos => ?consMgr, fun hpart => ?consHome⟩, fun q i code hd => ?refuse, fun q i hd => ?reattach⟩
  case publish => exact exec_quePublish_running hw hrun v
  case release => exact exec_queRelease_running hw hrun v
  case entryMgr => exact next_receive_delivered hd ((if_pos hpos).trans (if_pos hm))
  case entryHome => exact next_receive_delivered hd (if_neg (Bool.eq_false_iff.mp hpart))
  case prod => exact next_receive_delivered hd rfl
  case consMgr => exact next_receive_delivered hd (if_pos hpos)
  case consHome => exact next_receive_delivered hd (if_neg (Bool.eq_false_iff.mp hpart))
  case refuse => exact next_receive_delivered hd rfl
  case reattach => exact next_receive_delivered hd rfl

end Sys2Proof.Machine
end

section
/-! PROOF. The commands of the Cairn and of the visibility unit: events, windows, acknowledgement, latches, classes, injection, trigger
units and trace masks (R205, R215, R223-R239). -/

namespace Sys2Proof.Machine

open Sys2Proof.Safety

/-- An agent that may write makes its change of the device, once it is known of this device (R442). -/
theorem next_whenWritable_onDev {a : Agent} {s : State} {f : Dev → Dev} {d : Dev} (h : writable s.dev a = true) (hf : f s.dev = d) :
    (.next (whenWritable a (onDev f) s) : Host.Outcome State Fault Refusal) = .next (setDev s d) := by
  subst hf; exact congrArg Host.Outcome.next (whenWritable_of_writable h _)

/-- An event of a source that no bit of SYS_READY follows is raised, and nothing else (R223, R226). -/
theorem faultEvent_source {src : Nat} (hne : src ≠ 0) (hle : src ≤ 0x24) (hsync : src ≠ 0x16) (hlock : src ≠ 0x19) (detail trav : Nat)
    (d : Dev) : faultEvent src detail trav d = raiseAt src detail trav false d := by
  have hused : (src == 0 || decide (0x24 < src)) = false := by simp [hne, hle]
  simp [faultEvent, hused, hsync, hlock]

/-- While the windows count, one that is not 0 expires (R231). -/
theorem exec_ackWindowExpiry_counting {s : State} {n : BitVec 2} (h : alive s.dev = true) (hcount : windowsCount s.dev = true)
    (hwin : getR s.dev (CAIRN_WIN_C n.toNat) ≠ 0#32) :
    exec (.ackWindowExpiry n) s = .next (settle (onDev (windowExpiry n.toNat) s)) :=
  congrArg Host.Outcome.next ((whenAlive_of_alive h _).trans (if_pos (by simp [hcount, hwin])))

/-- A write of the class of a source that R226 uses keeps it between FLOOR and 4 (R227). -/
theorem writeSrc_source {n : Nat} (hne : n ≠ 0) (hle : n ≤ 0x24) (v : Word) (d : Dev) : writeSrc n v d =
    setF (plainWrite (CAIRN_SRC n) v d) (CAIRN_SRC_CLASS n) (max (getF d (CAIRN_SRC_FLOOR n)) (min 4 (v.toNat % 8))) :=
  if_neg (by simp [hne, hle])

/-- A write of CAIRN_INJ_CTRL with GO injects (R239). -/
theorem writeInject_go {v : Word} (hgo : bitOf v.toNat 12 = true) (d : Dev) :
    writeInject v d = inject (plainWrite CAIRN_INJ_CTRL v d) :=
  if_pos hgo

/-- In STANDBY and in LOAD the mask is written, and the ring is sized by it (R205). -/
theorem writeTraceMask_loading {d : Dev} (hmode : mode d = 1 ∨ mode d = 2) (n : Nat) (v : Word) :
    writeTraceMask n v d = sizeTrace (setR d (VIS_TRACE_TMASK n) v) := by
  rcases hmode with h | h <;> simp [writeTraceMask, h]

/-- In FREEZE the mask is written, and a change of it is remembered until the next RUN (R205). -/
theorem writeTraceMask_freeze {d : Dev} (hmode : mode d = 4) (n : Nat) (v : Word) : writeTraceMask n v d =
    { setR d (VIS_TRACE_TMASK n) v with vs := { d.vs with
        emptyNext := d.vs.emptyNext || getR d (VIS_TRACE_TMASK n) != v } } := by
  simp only [writeTraceMask, hmode]; rfl

/-- Settles O20: each command is its operation of the device, in the branch that its hypotheses leave. -/
theorem cairnAndVisibilityCommandsComplete : Obligations.CairnAndVisibilityCommandsComplete := by
  refine ⟨fun s => ⟨fun x detail trav hal hne hle hsync hlock => ?event, fun n hal hcount hwin => ?window, fun a n v hw hn => ?ack,
    fun a v hw => ?latch, fun hal => ?pulse, fun a x v hw hne hle => ?source, fun a v hw hgo => ?inject⟩,
    fun s a hw => ⟨fun u reg v => ?unit, fun n v hmode => ?maskLoading, fun n v hmode => ?maskFreeze⟩⟩
  case event => exact next_whenAlive_settle hal (faultEvent_source hne hle hsync hlock _ _ _)
  case window => exact exec_ackWindowExpiry_counting hal hcount hwin
  case ack => exact next_whenWritable_onDev hw (if_pos hn)
  case latch => exact next_whenWritable_onDev hw rfl
  case pulse => exact next_whenAlive_onDev hal rfl
  case source => exact next_whenWritable_onDev hw (writeSrc_source hne hle v _)
  case inject => exact next_whenWritable_onDev hw (writeInject_go hgo _)
  case unit => exact next_whenWritable_onDev hw rfl
  case maskLoading => exact next_whenWritable_onDev hw (writeTraceMask_loading hmode _ v)
  case maskFreeze => exact next_whenWritable_onDev hw (writeTraceMask_freeze hmode _ v)

end Sys2Proof.Machine
end

section
/-! PROOF. The flits of relayed commands, of their data and of trace reads that are delivered here (R209, R285, R286). -/

namespace Sys2Proof.Machine

open Sys2Proof.Safety

/-- Settles O38: each flit is taken, and its operation follows on the device that has taken it. The operations tell a reserved PART,
KIND or SRC apart themselves, so the bounds on these are not needed. -/
theorem relayFlitsComplete : Obligations.RelayFlitsComplete := by
  intro s rx
  refine ⟨fun rtag part data hd _ => ?cmd, fun rtag part data hd _ => ?resp, fun kind rtag off data hd _ => ?bulk,
    fun src tag off data hd _ => ?trace⟩
  case cmd => exact receive_takes hd _
  case resp => exact receive_takes hd _
  case bulk => exact receive_takes hd _
  case trace => exact receive_takes hd _

end Sys2Proof.Machine
end

section
/-! PROOF. The resilience timers: BEAT, the end of a census, an adopted image and PROBE (R243, R249-R251, R260, R270). -/

namespace Sys2Proof.Machine

open Sys2Proof.Safety

theorem exec_beatPeriod_granted {s : State} (h : granted s.dev = true) : exec .beatPeriod s = .next (setDev s (beat s.dev)) :=
  congrArg Host.Outcome.next (whenGranted_of_granted h _)

theorem exec_censusClose_granted {s : State} (h : granted s.dev = true) :
    exec .censusClose s = .next (settle (onDev censusEnds s)) :=
  congrArg Host.Outcome.next (whenGranted_of_granted h _)

theorem exec_adoptImageLoaded_granted {s : State} (h : granted s.dev = true) :
    exec .adoptImageLoaded s = .next (settle (adoptLoaded s)) :=
  congrArg Host.Outcome.next (whenGranted_of_granted h _)

theorem exec_probePeriod_granted {s : State} (h : granted s.dev = true) : exec .probePeriod s = .next (setDev s (probe s.dev)) :=
  congrArg Host.Outcome.next (whenGranted_of_granted h _)

/-- The manager sends BEAT in every mode but SAFE (R243). -/
theorem beat_mgr {d : Dev} (hm : isMgr d = true) (hmode : mode d ≠ 7) : beat d = broadcast 0x12 5 (sysctl d (myPos d)
    (latest d).2 ((latest d).1 + getF d TRV_STATUS_RESTORES * 2 ^ 32)) d :=
  if_neg (by simp [hm, hmode])

/-- The deputy's census of a lost manager ends: a majority takes over, and a minority strands (R260). -/
theorem censusEnds_deputy {d : Dev} {c : Census} (hc : d.rs.census = some c) (hkind : c.kind = 2) (hrole : role d = 2) :
    let d' := { d with rs := { d.rs with census := none } }
    censusEnds d = if majority d' c.replies then takeoverTry { d' with rs := { d'.rs with takeover := some c.replies } }
      else strandNow d' := by
  have deputy : ¬(role d != 2) = true := by simp [hrole]
  simp only [censusEnds, hc, hkind, beq_self_eq_true, if_true]
  exact if_neg deputy

/-- A stranded device sends PROBE on every rope that is up (R270). -/
theorem probe_stranded {d : Dev} (h : d.md.stranded = true) : probe d = each (upRopes d) (fun k d =>
    sendOn k (mkFlit d 0x12 15 (getF d (LINK_RP_STAT_PEER k)) true
      (sysctl d (myPos d) (trvCount d) (getF d RES_STATUS_EPOCH))) d) d :=
  if_neg (by simp [h])

/-- Settles O31: each timer is its operation, in the branch that its hypotheses leave. -/
theorem resilienceTimersComplete : Obligations.ResilienceTimersComplete := by
  intro s hg
  refine ⟨fun hm hmode => ?beat, fun c hc hkind hrole => ?census, exec_adoptImageLoaded_granted hg, fun hstranded => ?probe⟩
  case beat => rw [exec_beatPeriod_granted hg, beat_mgr hm hmode]
  case census =>
    rw [exec_censusClose_granted hg]
    exact next_settle_onDev (censusEnds_deputy hc hkind hrole)
  case probe => rw [exec_probePeriod_granted hg, probe_stranded hstranded]

end Sys2Proof.Machine
end

section
/-! PROOF. Writes of a partner port's command and completion registers (R280-R282). -/

namespace Sys2Proof.Machine

open Sys2Proof.Safety

/-- An agent that may write makes its change of the device, with what becomes possible with it, once the change is known of this device
(R442). -/
theorem next_whenWritable_settle {a : Agent} {s : State} {f : Dev → Dev} {d : Dev} (h : writable s.dev a = true) (hf : f s.dev = d) :
    (.next (whenWritable a (fun s => settle (onDev f s)) s) : Host.Outcome State Fault Refusal) = .next (settle (setDev s d)) :=
  (congrArg Host.Outcome.next (whenWritable_of_writable h _)).trans (next_settle_onDev hf)

section
variable {p : Nat} {v : Word} {d : Dev}

/-- GO submits the descriptor the window holds, once the copy of the last one has been taken (R280). -/
theorem mailboxSubmit_go (hgo : v.getLsbD 0 = true) (hfree : mailboxGo d p = false) : mailboxSubmit p v d =
    takeAll p (submit p false ((List.range 16).map fun i => sget (fun _ => 0#32) (portOf d p).mb i) d) :=
  if_neg (by simp [hgo, hfree])

/-- POP takes the head record out of the FIFO (R280). -/
theorem mailboxPop_pop (hpop : v.getLsbD 0 = true) :
    mailboxPop p v d = roomMade p (setPort d p { portOf d p with fifo := (portOf d p).fifo.drop 1 }) :=
  if_pos hpop

/-- A doorbell submits what the port fetched, when that is all of the new entries (R281). -/
theorem doorbell_fetched {fetched : List (List Word)} (hall : fetched.length = ringNew d p (v.toNat % 4096)) : doorbell p v fetched d =
    takeAll p (each fetched (submit p true) (setF d (HOST_PP_SQ_TAIL_INDEX p) (v.toNat % 4096))) :=
  if_neg (by simp [hall])

/-- A size of 0 disables the completion ring, whether it was enabled or not (R282). -/
theorem cplConfig_disable (hsize : v.toNat % 16 = 0) :
    cplConfig p v d = roomMade p (setF d (HOST_PP_CQ_CFG_SIZE_LOG2 p) 0) := by
  simp [cplConfig, hsize]

/-- A size that is not 0 starts a disabled completion ring afresh (R282). -/
theorem cplConfig_start (hsize : v.toNat % 16 ≠ 0) (hoff : ringSize (getF d (HOST_PP_CQ_CFG_SIZE_LOG2 p)) = 0) :
    let d' := setF d (HOST_PP_CQ_CFG_SIZE_LOG2 p) (v.toNat % 16)
    cplConfig p v d = roomMade p (setPort (setF (setF d' (HOST_PP_CQ_HEAD_INDEX p) 0) (HOST_PP_CQ_TAIL_INDEX p) 0) p
      { portOf d' p with phase := true }) := by
  simp [cplConfig, hsize, hoff]

end

/-- Settles O32: each write is its operation on the port, in the branch that its hypotheses leave. -/
theorem hostRingCommandsComplete : Obligations.HostRingCommandsComplete := by
  intro s p
  refine ⟨fun v hw hgo hfree => ?go, fun v hw hpop => ?pop, fun a v fetched hw hall => ?doorbell, fun a v hw => ?head,
    fun a v hw => ⟨fun hsize => ?disable, fun hsize hoff => ?start⟩⟩
  case go => exact next_whenWritable_settle hw (mailboxSubmit_go hgo hfree)
  case pop => exact next_whenWritable_settle hw (mailboxPop_pop hpop)
  case doorbell => exact next_whenWritable_settle hw (doorbell_fetched hall)
  case head => exact next_whenWritable_settle hw rfl
  case disable => exact next_whenWritable_settle hw (cplConfig_disable hsize)
  case start => exact next_whenWritable_settle hw (cplConfig_start hsize hoff)

end Sys2Proof.Machine
end

section
/-! PROOF. The slices of the transfer commands (R283, R286, R288). The lemmas of the reads name the access in a slice's
own words before they rewrite it: unfolded to compare the two, it is too deep for the kernel. -/

namespace Sys2Proof.Machine

open Sys2Proof.Safety

/-- An accepted write whose next bytes are at this device's executor runs, while no debug halt stands. -/
theorem granted_runWrite {s : State} {r : CmdRef} {op : Nat} {c : Cmd} {given bs : List Byte} (hg : granted s.dev = true)
    (hc : cmdFor s.dev r op = some c) (hdata : writeData r c given s.dev = some bs) (f : Cmd → List Byte → State → State) :
    (.next (whenGranted (runWrite r op given false f) s) : Host.Outcome State Fault Refusal) = .next (settle (f c bs s)) :=
  congrArg Host.Outcome.next ((whenGranted_of_granted hg _).trans (runWrite_for r op given bs f s c hc hdata))

/-- A range that is not empty and ends within its space is not refused with RANGE (R283). -/
theorem not_rangeEnd {len size stop : Nat} (hlen : len ≠ 0) (hfit : stop ≤ size) : ¬(len == 0 || decide (size < stop)) = true := by
  simp [hlen, hfit]

section
variable {r : CmdRef} {c : Cmd} {s s1 : State} {x : Slice}

/-- MEM_READ of a range within HBM reads its next slice there. -/
theorem memReadSlice_inRange (hlen : lengthOf c.desc ≠ 0) (hfit : param2 c.desc 4 % 2 ^ 37 + lengthOf c.desc ≤ hbmSize)
    (hread : hbmSlice (param2 c.desc 4 % 2 ^ 37 + c.bytes) (sliceBytes r 1 (lengthOf c.desc - c.bytes)) s = (x, s1)) :
    memReadSlice r c s = setDev s1 (readSlice r c (lengthOf c.desc) x s1.dev) := by
  unfold memReadSlice
  extract_lets len a
  rw [if_neg (not_rangeEnd hlen hfit), hread]
  rfl

/-- MEM_WRITE of a range within HBM writes its next slice there. -/
theorem memWriteSlice_inRange (hlen : lengthOf c.desc ≠ 0) (hfit : param2 c.desc 4 % 2 ^ 37 + lengthOf c.desc ≤ hbmSize)
    (bs : List Byte) : memWriteSlice r c bs s =
      onDev (writeSlice r c bs.length) (hbmWrite (param2 c.desc 4 % 2 ^ 37 + c.bytes) bs s) :=
  if_neg (not_rangeEnd hlen hfit)

/-- TRACE_READ of a range within the replay buffer or the trace ring reads its next slice there. -/
theorem traceReadSlice_inRange (hlen : lengthOf c.desc ≠ 0)
    (hfit : param2 c.desc 5 + lengthOf c.desc ≤ (if param c.desc 4 == 1 then getF s.dev VIS_RPL_AREA_SIZE_GIB * 2 ^ 30 - 2 ^ 24
      else getF s.dev VIS_TRACE_AREA_SIZE_GIB * 2 ^ 30))
    (hread : hbmSlice ((if param c.desc 4 == 1 then get2 s.dev VIS_RPL_BASE_LO else get2 s.dev VIS_TRACE_BASE_LO) +
      param2 c.desc 5 + c.bytes) (sliceBytes r 1 (lengthOf c.desc - c.bytes)) s = (x, s1)) :
    traceReadSlice r c s = setDev s1 (readSlice r c (lengthOf c.desc) x s1.dev) := by
  unfold traceReadSlice
  extract_lets d len off replay base size
  rw [if_neg (not_rangeEnd hlen hfit),
    show hbmSlice (base + off + c.bytes) (sliceBytes r 1 (len - c.bytes)) s = (x, s1) from hread]
  rfl

/-- FABRIC_READ of items that all read well delivers them. -/
theorem fabricReadSlice_inRange {d d1 : Dev} {bs : List Byte} (hrange : fabricRange c.desc = true)
    (hitems : fabricItems (param c.desc 4)
      (sliceBytes r (itemBytes (param c.desc 4)) (lengthOf c.desc - c.bytes) / itemBytes (param c.desc 4))
      (param c.desc 5 + c.bytes / itemBytes (param c.desc 4)) d = (bs, false, d1)) :
    fabricReadSlice r c d = readSlice r c (lengthOf c.desc) ⟨bs, false, false⟩ d1 := by
  unfold fabricReadSlice
  extract_lets sp len ib n
  rw [if_neg (by simp [hrange]), show fabricItems sp n (param c.desc 5 + c.bytes / ib) d = (bs, false, d1) from hitems]
  rfl

/-- FABRIC_WRITE of a range within its space writes its next items there. -/
theorem fabricWriteSlice_inRange {d : Dev} (hrange : fabricRange c.desc = true) (bs : List Byte) : fabricWriteSlice r c bs d =
    writeSlice r c bs.length (each (dwordsOf bs).zipIdx
      (fun w d => writeItem (param c.desc 4) (param c.desc 5 + c.bytes / 8 + w.2) w.1 d) d) :=
  if_neg (by simp [hrange])

end

/-- Settles O36: the executor runs the accepted command, whose next slice lies in its space. A read's slice is stated for every
outcome of the access, so that its not waiting is not needed. -/
theorem transferCommandsComplete : Obligations.TransferCommandsComplete := by
  intro s r c hg hlen
  refine ⟨fun x s1 hc hfit hread _ => ?memRead, fun data bs hc hfit hdata => ?memWrite, fun bs d hc hrange hitems => ?fabricRead,
    fun data bs hc hrange hdata => ?fabricWrite, fun x s1 hc hfit hread _ => ?traceRead⟩
  case memRead => exact (granted_runCmd hg hc _).trans (by rw [memReadSlice_inRange hlen hfit hread])
  case memWrite => exact (granted_runWrite hg hc hdata _).trans (by rw [memWriteSlice_inRange hlen hfit])
  case fabricRead => exact (granted_runCmd hg hc _).trans (next_settle_onDev (fabricReadSlice_inRange hrange hitems))
  case fabricWrite => exact (granted_runWrite hg hc hdata _).trans (next_settle_onDev (fabricWriteSlice_inRange hrange bs))
  case traceRead => exact (granted_runCmd hg hc _).trans (by rw [traceReadSlice_inRange hlen hfit hread])

end Sys2Proof.Machine
end

section
/-! PROOF. LOAD_PART and QUEUE_ATTACH (R287, R294, R310). -/

namespace Sys2Proof.Machine

open Sys2Proof.Safety

/-- An image that passes its checks is loaded, and its command ends once the spare's copy is stored (R310; assumptions row 40). -/
theorem loadHere_passed {r : CmdRef} {part : Nat} {c : List Byte} {s : State} {im : Img}
    (hpass : checkImage s.dev c part s.dev.hs.noCheck none none s.dev.hs.relayQs.length
      (if isMgr s.dev then myPart s.dev else 1024) = .ok im) :
    let s1 := loadImage im c s
    let d := if isMgr s1.dev then { s1.dev with hs := { s1.dev.hs with loadN := im.n, loadBuild := im.build } } else s1.dev
    let d := onCmd r (fun x => { x with bytes := u64 c 8, moved := 1 }) d
    loadHere r part c s = setDev s1 (if copyStored d then partEnds r part (u64 c 8) d else d) := by
  simp only [loadHere, hpass]
  rfl

section
variable {p : BitVec 2} {t : BitVec 16} {c : Cmd} {s : State}
  (hc : findCmd s.dev (.host p t) = some c) (hop : opcodeOf c.desc = 0x11) (hmode : mode s.dev = 2) (hnew : c.moved = 0)
include hc hop hmode hnew

/-- In LOAD a LOAD_PART of a port that has not begun goes by who holds its partition (R287). -/
theorem loadPart_begins (image : List Byte) : loadPart (.host p t) image false s =
    if holds s.dev && myPart s.dev == param c.desc 4 then loadHere (.host p t) (param c.desc 4) (image.take (lengthOf c.desc)) s
    else if isMgr s.dev then onDev (loadThere (.host p t) c.desc (param c.desc 4) (image.take (lengthOf c.desc))) s
    else s := by
  simp [loadPart, hc, hop, hmode, hnew]

/-- The holder loads its own partition. -/
theorem loadPart_own (hholds : holds s.dev = true) (hown : myPart s.dev = param c.desc 4) (image : List Byte) :
    loadPart (.host p t) image false s = loadHere (.host p t) (param c.desc 4) (image.take (lengthOf c.desc)) s :=
  (loadPart_begins hc hop hmode hnew image).trans (if_pos (by simp [hholds, hown]))

/-- The manager sends the container of another partition to its holder. -/
theorem loadPart_other (hm : isMgr s.dev = true) (hother : myPart s.dev ≠ param c.desc 4) (image : List Byte) :
    loadPart (.host p t) image false s =
      onDev (loadThere (.host p t) c.desc (param c.desc 4) (image.take (lengthOf c.desc))) s :=
  (loadPart_begins hc hop hmode hnew image).trans ((if_neg (by simp [hother])).trans (if_pos hm))

end

theorem exec_loadPart_granted {s : State} (h : granted s.dev = true) (r : CmdRef) (image : List Byte) (busError : Bool) :
    exec (.loadPart r image busError) s = .next (settle (loadPart r image busError s)) :=
  next_whenGranted h _

/-- An accepted QUEUE_ATTACH attaches a relayed queue when RELAY is set, and else a queue of this device (R294). -/
theorem exec_queueAttach_accepted {s : State} {r : CmdRef} {c : Cmd} (hg : granted s.dev = true)
    (hc : cmdFor s.dev r 0x40 = some c) : exec (.queueAttach r) s =
    .next (settle (if bitOf (param c.desc 0) 31 then attachRelay r (param c.desc 0 % 8192) (param2 c.desc 1) s
      else attachOwn r (param c.desc 0 % 8192) s)) :=
  (granted_runCmd hg hc _).trans (by split <;> rfl)

/-- Settles O37: who holds the partition, and whether the queue is relayed, select the operation. The operations of an attach check
the queue and its owner themselves, so what is known of these is not needed. -/
theorem loadPartAndAttachComplete : Obligations.LoadPartAndAttachComplete := by
  intro s r c hg
  refine ⟨?_, fun hc => ⟨fun hrelay _ _ => ?own, fun hrelay _ _ _ => ?relay⟩⟩
  · rintro p t image im rfl hc hop hmode hnew
    refine ⟨fun hholds hown hpass => ?here, fun hm hother _ _ => ?there⟩
    case here => rw [exec_loadPart_granted hg, loadPart_own hc hop hmode hnew hholds hown, loadHere_passed hpass]
    case there =>
      rw [exec_loadPart_granted hg, loadPart_other hc hop hmode hnew hm hother]
      exact next_settle_onDev rfl
  case own => rw [exec_queueAttach_accepted hg hc, if_neg (by simp [hrelay])]
  case relay => rw [exec_queueAttach_accepted hg hc, if_pos hrelay]

end Sys2Proof.Machine
end

section
/-! PROOF. The computing instructions of the guide cores: what they write and when they trap (R320-R325, R330). -/

namespace Sys2Proof.Machine

open Sys2Proof.Safety

theorem onCore_congr {c : Nat} {f f' : GCore → GCore} {d : Dev} (h : f (coreOf d c) = f' (coreOf d c)) : onCore c f d = onCore c f' d :=
  congrArg (setCore d c) h

section
variable {core : BitVec 5} {ext : List (BitVec 10)} {fm : Form} {s s1 : State}

/-- An instruction that is ready completes with what its body comes to (R318, R336). -/
theorem issue_formed {form : Dev → GCore → BitVec 20 → Form} {full : GCore → Bool} {body : BitVec 20 → State → Eff} {e : Eff}
    (hr : Ready core ext (form s.dev (coreOf s.dev core.toNat) (instrAt core ext s)) full s s1)
    (hbody : body (instrAt core ext s) s1 = e) : issue core ext form full body s =
      .next (doneBy core ext (form s.dev (coreOf s.dev core.toNat) (instrAt core ext s)) s s1 e) := by
  rw [issue_ready core ext form full body s s1 hr, hbody]

/-- The same for an instruction whose form is fixed. -/
theorem issue_body {full : GCore → Bool} {e : Eff} {body : BitVec 20 → State → Eff} (hr : Ready core ext fm full s s1)
    (hbody : body (instrAt core ext s) s1 = e) :
    issue core ext (fun _ _ _ => fm) full body s = .next (doneBy core ext fm s s1 e) :=
  issue_formed (form := fun _ _ _ => fm) hr hbody

/-- An instruction that raises an exception saves the address of its first word (R349). -/
theorem issue_trap {vector detail : Nat} {body : BitVec 20 → State → Eff} (hr : Ready core ext fm neverFull s s1)
    (hbody : body (instrAt core ext s) s1 = .trap vector detail none none s1) :
    issue core ext (fun _ _ _ => fm) neverFull body s = .next (enter core.toNat vector detail none (coreOf s.dev core.toNat).pc s1) :=
  issue_body hr hbody

/-- A result and its flags are written, unless V is to trap (R321, R325). -/
theorem aluBody_retires {c rd : Nat} {ovf : Bool} {r : Word} {fl : Flags} {f : GCore → Word × Flags}
    (hf : f (coreOf s.dev c) = (r, fl)) (hv : (ovf && overflowTraps (coreOf s.dev c) && fl.v) = false) :
    aluBody c rd ovf f s = .retire (onDev (onCore c (writeResult rd r fl)) s) := by
  simp only [aluBody, hf, hv, Bool.false_eq_true, if_false]

/-- A V of 1 raises OVF while OVE is 1, and nothing is written (R325). -/
theorem aluBody_traps {c rd : Nat} {r : Word} {fl : Flags} {f : GCore → Word × Flags} (hove : (coreOf s.dev c).st.getLsbD 7 = true)
    (hf : f (coreOf s.dev c) = (r, fl)) (hv : fl.v = true) : aluBody c rd true f s = .trap 6 0 none none s := by
  simp only [aluBody, hf, hv, overflowTraps, hove, Bool.and_self, if_true]

variable {rd : Nat} {ovf : Bool} {r : Word} {fl : Flags} {f : GCore → Word × Flags}

theorem issue_alu (hr : Ready core ext fm neverFull s s1) (hf : f (coreOf s1.dev core.toNat) = (r, fl))
    (hv : (ovf && overflowTraps (coreOf s1.dev core.toNat) && fl.v) = false) :
    issue core ext (fun _ _ _ => fm) neverFull (fun _ => aluBody core.toNat rd ovf f) s =
      .next (doneBy core ext fm s s1 (retires core (writeResult rd r fl) s1)) :=
  issue_body hr (aluBody_retires hf hv)

theorem issue_ovf (hr : Ready core ext fm neverFull s s1) (hove : (coreOf s1.dev core.toNat).st.getLsbD 7 = true)
    (hf : f (coreOf s1.dev core.toNat) = (r, fl)) (hv : fl.v = true) :
    issue core ext (fun _ _ _ => fm) neverFull (fun _ => aluBody core.toNat rd true f) s =
      .next (enter core.toNat 6 0 none (coreOf s.dev core.toNat).pc s1) :=
  issue_trap hr (aluBody_traps hove hf hv)

/-- A comparison sets its flags (R321, R324). -/
theorem issue_flags (hr : Ready core ext fm neverFull s s1) (hf : f (coreOf s1.dev core.toNat) = (r, fl)) :
    issue core ext (fun _ _ _ => fm) neverFull (fun _ => flagBody core.toNat f) s =
      .next (doneBy core ext fm s s1 (retires core (fun g => { g with st := withFlags g.st fl }) s1)) :=
  issue_body hr (congrArg (fun d => Eff.retire { s1 with dev := d }) (onCore_congr (by rw [hf])))

/-- A move writes its register (R321, R324, R330). -/
theorem moveBody_retires {c : Nat} {v : GCore → Word} (hv : v (coreOf s.dev c) = r) :
    moveBody c rd v s = .retire (onDev (onCore c (putW rd r)) s) :=
  congrArg (fun d => Eff.retire { s with dev := d }) (onCore_congr (by rw [hv]))

theorem issue_move {v : GCore → Word} (hr : Ready core ext fm neverFull s s1) (hv : v (coreOf s1.dev core.toNat) = r) :
    issue core ext (fun _ _ _ => fm) neverFull (fun _ => moveBody core.toNat rd v) s =
      .next (doneBy core ext fm s s1 (retires core (putW rd r) s1)) :=
  issue_body hr (moveBody_retires hv)

end

/-! Results and flags from exact values (R321-R324). -/

theorem addWith_false (a b : Word) (f : Flags) :
    addWith a b false f = (a + b, ⟨a + b == 0#32, (a + b).msb, decide (2 ^ 32 ≤ a.toNat + b.toNat),
      decide ((a + b).toInt ≠ a.toInt + b.toInt)⟩) := by
  have e : BitVec.ofNat 32 (a.toNat + b.toNat) = a + b := by simp [BitVec.ofNat_add]
  simp [addWith_eq, b2n, e]

theorem subWith_true (a b : Word) (f : Flags) :
    subWith a b true f = (a - b, ⟨a - b == 0#32, (a - b).msb, decide (b.toNat ≤ a.toNat),
      decide ((a - b).toInt ≠ a.toInt - b.toInt)⟩) := by
  have e : BitVec.ofInt 32 (a.toInt - b.toInt) = a - b := by
    rw [Int.sub_eq_add_neg, BitVec.ofInt_add, BitVec.ofInt_neg, BitVec.ofInt_toInt, BitVec.ofInt_toInt, BitVec.sub_eq_add_neg]
  simp [subWith_eq, b2n, e]

theorem subWith_carry (a b : Word) (c : Bool) (f : Flags) :
    subWith a b c f = (BitVec.ofInt 32 (a.toInt - b.toInt - (1 - (b2n c : Int))),
      ⟨BitVec.ofInt 32 (a.toInt - b.toInt - (1 - (b2n c : Int))) == 0#32, (BitVec.ofInt 32 (a.toInt - b.toInt - (1 - (b2n c : Int)))).msb,
        decide (b.toNat + (1 - b2n c) ≤ a.toNat),
        decide ((BitVec.ofInt 32 (a.toInt - b.toInt - (1 - (b2n c : Int)))).toInt ≠ a.toInt - b.toInt - (1 - (b2n c : Int)))⟩) := by
  rw [subWith_eq]
  cases c <;> rfl

theorem mulWith_eq (a b : Word) (f : Flags) :
    mulWith a b f = (a * b, ⟨a * b == 0#32, (a * b).msb, f.c, decide ((a * b).toInt ≠ a.toInt * b.toInt)⟩) := by
  have e : BitVec.ofInt 32 (a.toInt * b.toInt) = a * b := by
    rw [BitVec.ofInt_mul, BitVec.ofInt_toInt, BitVec.ofInt_toInt]
  simp only [mulWith, zeroNeg, overflows_iff, e]

/-- A value that 32 bits hold does not overflow. -/
theorem overflows_toInt (w : Word) : overflows w.toInt = false := by simp [overflows_iff]

/-- The quotient overflows for 0x80000000 by -1 only (R323). -/
theorem divSigned_eq {a b : Word} (h : a ≠ 0x80000000#32 ∨ b ≠ 0xFFFFFFFF#32) (f : Flags) :
    divSigned a b f = (BitVec.ofInt 32 (a.toInt.tdiv b.toInt), ⟨BitVec.ofInt 32 (a.toInt.tdiv b.toInt) == 0#32,
      (BitVec.ofInt 32 (a.toInt.tdiv b.toInt)).msb, false, false⟩) := by
  have e : overflows (a.toInt.tdiv b.toInt) = false := by
    rw [← BitVec.toInt_sdiv_of_ne_or_ne a b h]; exact overflows_toInt _
  simp only [divSigned, zeroNeg, e]

/-! Shifts (R322). -/

section
variable {n : Nat}

theorem shiftLeft_of_le (h : n ≤ 32) (a : Word) (f : Flags) :
    shiftLeft a n f = (a <<< n, ⟨a <<< n == 0#32, (a <<< n).msb, if n = 0 then f.c else a.getLsbD (32 - n), f.v⟩) := by
  simp only [shiftLeft, zeroNeg, beq_iff_eq, h, if_true]

theorem shiftRight_of_le (h : n ≤ 32) (a : Word) (f : Flags) :
    shiftRight a n f = (a >>> n, ⟨a >>> n == 0#32, (a >>> n).msb, if n = 0 then f.c else a.getLsbD (n - 1), f.v⟩) := by
  simp only [shiftRight, zeroNeg, beq_iff_eq, h, if_true]

theorem shiftArith_of_le (h : n ≤ 32) (a : Word) (f : Flags) : shiftArith a n f = (a.sshiftRight n,
    ⟨a.sshiftRight n == 0#32, (a.sshiftRight n).msb, if n = 0 then f.c else a.getLsbD (n - 1), f.v⟩) := by
  simp only [shiftArith, zeroNeg, beq_iff_eq, h, if_true]

theorem shiftLeft_zero (h : n = 0) (a : Word) (f : Flags) : shiftLeft a n f = (a, ⟨a == 0#32, a.msb, f.c, f.v⟩) := by
  subst h; simp [shiftLeft_of_le]

theorem shiftLeft_pos (h1 : 1 ≤ n) (h31 : n ≤ 31) (a : Word) (f : Flags) :
    shiftLeft a n f = (a <<< n, ⟨a <<< n == 0#32, (a <<< n).msb, a.getLsbD (32 - n), f.v⟩) := by
  rw [shiftLeft_of_le (by omega), if_neg (by omega)]

theorem shiftRight_zero (h : n = 0) (a : Word) (f : Flags) : shiftRight a n f = (a, ⟨a == 0#32, a.msb, f.c, f.v⟩) := by
  subst h; simp [shiftRight_of_le]

theorem shiftRight_pos (h1 : 1 ≤ n) (h31 : n ≤ 31) (a : Word) (f : Flags) :
    shiftRight a n f = (a >>> n, ⟨a >>> n == 0#32, (a >>> n).msb, a.getLsbD (n - 1), f.v⟩) := by
  rw [shiftRight_of_le (by omega), if_neg (by omega)]

theorem shiftArith_zero (h : n = 0) (a : Word) (f : Flags) : shiftArith a n f = (a, ⟨a == 0#32, a.msb, f.c, f.v⟩) := by
  subst h; simp [shiftArith_of_le]

theorem shiftArith_pos (h1 : 1 ≤ n) (h31 : n ≤ 31) (a : Word) (f : Flags) :
    shiftArith a n f = (a.sshiftRight n, ⟨a.sshiftRight n == 0#32, (a.sshiftRight n).msb, a.getLsbD (n - 1), f.v⟩) := by
  rw [shiftArith_of_le (by omega), if_neg (by omega)]

/-! From 32 on nothing of the word but its sign is left, and C is the last bit shifted out (R322). -/

theorem shiftLeft_of_ge (h : 32 ≤ n) (a : Word) (f : Flags) :
    shiftLeft a n f = (0#32, ⟨0#32 == 0#32, (0#32).msb, decide (n = 32) && a.getLsbD 0, f.v⟩) := by
  have hc : (if n ≤ 32 then a.getLsbD (32 - n) else false) = (decide (n = 32) && a.getLsbD 0) := by
    rcases Nat.eq_or_lt_of_le h with rfl | hlt
    · rfl
    · simp [Nat.not_le.mpr hlt, Nat.ne_of_gt hlt]
  have h0 : (n == 0) = false := by simp; omega
  simp only [shiftLeft, zeroNeg, BitVec.shiftLeft_eq_zero h, h0, hc, Bool.false_eq_true, if_false]

theorem shiftRight_of_ge (h : 32 ≤ n) (a : Word) (f : Flags) :
    shiftRight a n f = (0#32, ⟨0#32 == 0#32, (0#32).msb, decide (n = 32) && a.msb, f.v⟩) := by
  have hc : (if n ≤ 32 then a.getLsbD (n - 1) else false) = (decide (n = 32) && a.msb) := by
    rcases Nat.eq_or_lt_of_le h with rfl | hlt
    · exact (BitVec.msb_eq_getLsbD_last a).symm
    · simp [Nat.not_le.mpr hlt, Nat.ne_of_gt hlt]
  have h0 : (n == 0) = false := by simp; omega
  simp only [shiftRight, zeroNeg, BitVec.ushiftRight_eq_zero h, h0, hc, Bool.false_eq_true, if_false]

theorem sshiftRight_of_ge (h : 32 ≤ n) (a : Word) : a.sshiftRight n = if a.msb then 0xFFFFFFFF#32 else 0#32 := by
  cases hm : a.msb with
  | false => rw [BitVec.sshiftRight_eq_of_msb_false hm, BitVec.ushiftRight_eq_zero h]; rfl
  | true => rw [BitVec.sshiftRight_eq_of_msb_true hm, BitVec.ushiftRight_eq_zero h]; rfl

theorem shiftArith_of_ge (h : 32 ≤ n) (a : Word) (f : Flags) :
    shiftArith a n f = (if a.msb then 0xFFFFFFFF#32 else 0#32,
      ⟨(if a.msb then 0xFFFFFFFF#32 else 0#32) == 0#32, (if a.msb then 0xFFFFFFFF#32 else 0#32).msb, a.msb, f.v⟩) := by
  have hc : (if n ≤ 32 then a.getLsbD (n - 1) else a.msb) = a.msb := by
    split
    · obtain rfl : n = 32 := by omega
      exact (BitVec.msb_eq_getLsbD_last a).symm
    · rfl
  have h0 : (n == 0) = false := by simp; omega
  simp only [shiftArith, zeroNeg, sshiftRight_of_ge h, h0, hc, Bool.false_eq_true, if_false]

end

/-- Settles O39: each instruction retires with its result and flags, from exact values. -/
theorem registerClassComplete : Obligations.RegisterClassComplete := by
  intro s s1 core ext rd rs
  refine ⟨fun hr => ?mov, fun hr => ⟨fun hv => ?add, fun hv => ?sub, ?and, ?or, ?xor⟩, fun hr => ⟨fun hv => ?adc, fun hv => ?sbc⟩,
    fun hr => ⟨?cmp, ?tst⟩, fun hr hv => ?mul⟩
  case mov => exact issue_move hr rfl
  case add => exact issue_alu hr (addWith_false _ _ _) hv
  case sub => exact issue_alu hr (subWith_true _ _ _) hv
  case and | or | xor => exact issue_alu hr rfl rfl
  case adc => exact issue_alu hr (addWith_eq _ _ _ _) hv
  case sbc => exact issue_alu hr (subWith_carry _ _ _ _) hv
  case cmp => exact issue_flags hr (subWith_true _ _ _)
  case tst => exact issue_flags hr rfl
  case mul => exact issue_alu hr (mulWith_eq _ _ _) hv

/-- Settles O40: a count of 0, of 1 to 31, and of 32 or more each has its result and its C. -/
theorem shiftInstructionsComplete : Obligations.ShiftInstructionsComplete := by
  intro s s1 core ext rd
  refine ⟨fun rs hr => ⟨fun h0 => ⟨?lsl0, ?lsr0, ?asr0⟩, fun h1 h31 => ⟨?lsl, ?lsr, ?asr⟩, fun h32 => ⟨?lsl32, ?lsr32, ?asr32⟩⟩,
    fun imm6 hr => ⟨fun hdir => ?left, fun hdir => ?right⟩⟩
  case lsl0 => exact issue_alu hr (shiftLeft_zero h0 _ _) rfl
  case lsr0 => exact issue_alu hr (shiftRight_zero h0 _ _) rfl
  case asr0 => exact issue_alu hr (shiftArith_zero h0 _ _) rfl
  case lsl => exact issue_alu hr (shiftLeft_pos h1 h31 _ _) rfl
  case lsr => exact issue_alu hr (shiftRight_pos h1 h31 _ _) rfl
  case asr => exact issue_alu hr (shiftArith_pos h1 h31 _ _) rfl
  case lsl32 => exact issue_alu hr (shiftLeft_of_ge h32 _ _) rfl
  case lsr32 => exact issue_alu hr (shiftRight_of_ge h32 _ _) rfl
  case asr32 => exact issue_alu hr (shiftArith_of_ge h32 _ _) rfl
  case left => exact issue_alu hr ((if_neg (Bool.eq_false_iff.mp hdir)).trans (shiftLeft_of_le (by omega) _ _)) rfl
  case right => exact issue_alu hr ((if_pos hdir).trans (shiftRight_of_le (by omega) _ _)) rfl

section
variable {s : State} {c rd rs : Nat} {ext : List (BitVec 10)} {ovf : Bool} {f : Word → Word → Flags → Word × Flags}

/-- A division by another value than 0 computes (R323). -/
theorem divBody_of_ne (h : operandS (coreOf s.dev c) ext rs ≠ 0#32) : divBody c rd ext rs ovf f s =
    aluBody c rd ovf (fun g => f (getW g rd) (operandS (coreOf s.dev c) ext rs) (flagsOf g.st)) s :=
  if_neg (by simpa using h)

/-- A division by 0 writes what R323 says while DZE is 0. -/
theorem divBody_of_zero (h : operandS (coreOf s.dev c) ext rs = 0#32) (hdze : (coreOf s.dev c).st.getLsbD 6 = false) :
    divBody c rd ext rs ovf f s = aluBody c rd ovf (fun _ => divZero) s :=
  (if_pos (by simpa using h)).trans (if_neg (Bool.eq_false_iff.mp hdze))

/-- A division by 0 raises DIVZ while DZE is 1 (R323). -/
theorem divBody_traps (h : operandS (coreOf s.dev c) ext rs = 0#32) (hdze : (coreOf s.dev c).st.getLsbD 6 = true) :
    divBody c rd ext rs ovf f s = .trap 5 0 none none s :=
  (if_pos (by simpa using h)).trans (if_pos hdze)

end

/-- 0x80000000 by -1 overflows (R323). -/
theorem divSigned_min (f : Flags) :
    divSigned 0x80000000#32 0xFFFFFFFF#32 f = (0x80000000#32, ⟨false, true, false, true⟩) := by
  simp only [divSigned, zeroNeg]; rfl

theorem issue_div {core : BitVec 5} {ext : List (BitVec 10)} {fm : Form} {s s1 : State} {rd rs : Nat} {ovf : Bool}
    {f : Word → Word → Flags → Word × Flags} {e : Eff} (hr : Ready core ext fm neverFull s s1)
    (hbody : divBody core.toNat rd ext rs ovf f s1 = e) :
    issue core ext (fun _ _ _ => fm) neverFull (fun _ => divBody core.toNat rd ext rs ovf f) s =
      .next (doneBy core ext fm s s1 e) :=
  issue_body hr hbody

/-- Settles O41: a divisor that is not 0 gives the quotient, 0 what DZE selects. -/
theorem divisionInstructionsComplete : Obligations.DivisionInstructionsComplete := by
  intro s s1 core ext rd rs g a b F ends hr
  refine ⟨fun hb => ?divu, fun hb hq => ?div, fun ha hb hove => ?min, fun hb hdze => ⟨?divuZero, fun hove => ?divZero⟩,
    fun hb hdze => ⟨?divTraps, ?divuTraps⟩⟩
  case divu => exact issue_div hr ((divBody_of_ne hb).trans (aluBody_retires rfl rfl))
  case div => exact issue_div hr ((divBody_of_ne hb).trans (aluBody_retires (divSigned_eq hq _) (Bool.and_false _)))
  case min =>
    have hb0 : b ≠ 0#32 := hb ▸ by decide
    have hq := (congrArg₂ (divSigned · · (flagsOf g.st)) ha hb).trans (divSigned_min _)
    exact issue_div hr ((divBody_of_ne hb0).trans (aluBody_retires hq (congrArg (true && · && true) hove)))
  case divuZero => exact issue_div hr ((divBody_of_zero hb hdze).trans (aluBody_retires rfl rfl))
  case divZero =>
    exact issue_div hr ((divBody_of_zero hb hdze).trans (aluBody_retires rfl (congrArg (true && · && true) hove)))
  case divTraps | divuTraps => exact issue_div hr (divBody_traps hb hdze)

/-- NEG overflows for 0x80000000 only, and its C says that nothing was borrowed (R330). -/
theorem subWith_neg (a : Word) (f : Flags) :
    subWith 0#32 a true f = (0#32 - a, ⟨0#32 - a == 0#32, (0#32 - a).msb, decide (a = 0#32), a == 0x80000000#32⟩) := by
  have hc : (a.toNat ≤ (0#32).toNat) = (a = 0#32) := by simp [← BitVec.toNat_inj]
  have hv : ((0#32 - a).toInt ≠ (0#32).toInt - a.toInt) = (a = 0x80000000#32) := by
    rw [← BitVec.toInt_inj, BitVec.toInt_sub]
    have := a.toInt_lt
    have := a.le_toInt
    simp [Int.bmod_def]
    omega
  simp only [subWith_true, hc, hv, beq_eq_decide]

/-- Settles O42: each of them has a V of 1 by hypothesis. -/
theorem overflowRaisesOvf : Obligations.OverflowRaisesOvf := by
  intro s s1 core ext rd rs imm6 g a b i F traps hove
  refine ⟨fun hr hv => ?add, fun hr hv => ?sub, fun hr hv => ?mul, fun hr hv => ?addi, fun hr ha => ?neg,
    fun hr => ⟨fun hv => ?adc, fun hv => ?sbc⟩, ?div⟩
  case add | addi => exact issue_ovf hr hove (addWith_false _ _ _) (decide_eq_true hv)
  case sub => exact issue_ovf hr hove (subWith_true _ _ _) (decide_eq_true hv)
  case mul => exact issue_ovf hr hove (mulWith_eq _ _ _) (decide_eq_true hv)
  case neg => exact issue_ovf hr hove (subWith_neg _ _) (beq_iff_eq.mpr ha)
  case adc => exact issue_ovf hr hove (addWith_eq _ _ _ _) (decide_eq_true hv)
  case sbc => exact issue_ovf hr hove (subWith_carry _ _ _ _) (decide_eq_true hv)
  case div =>
    rintro hr (⟨ha, hb⟩ | ⟨hb, hdze⟩)
    · have hb0 : b ≠ 0#32 := hb ▸ by decide
      have hq := (congrArg₂ (divSigned · · (flagsOf g.st)) ha hb).trans (divSigned_min _)
      exact issue_div hr ((divBody_of_ne hb0).trans (aluBody_traps hove hq rfl))
    · exact issue_div hr ((divBody_of_zero hb hdze).trans (aluBody_traps hove rfl rfl))

/-! The system operations that compute without flags (R330). -/

theorem zeroExtend_byte (a : Word) : (a.setWidth 8).setWidth 32 = a &&& 0xFF#32 := by
  apply BitVec.eq_of_toNat_eq
  have h := Nat.and_two_pow_sub_one_eq_mod a.toNat 8
  simp only [BitVec.toNat_setWidth, BitVec.toNat_and, BitVec.toNat_ofNat, Nat.reducePow, Nat.reduceMod, Nat.reduceSub] at h ⊢
  omega

theorem zeroExtend_half (a : Word) : (a.setWidth 16).setWidth 32 = a &&& 0xFFFF#32 := by
  apply BitVec.eq_of_toNat_eq
  have h := Nat.and_two_pow_sub_one_eq_mod a.toNat 16
  simp only [BitVec.toNat_setWidth, BitVec.toNat_and, BitVec.toNat_ofNat, Nat.reducePow, Nat.reduceMod, Nat.reduceSub] at h ⊢
  omega

/-- The numbers below `m` up to the first that fails a test. -/
theorem length_takeWhile_range {p : Nat → Bool} {n m : Nat} (hn : n ≤ m) (hbelow : ∀ j, j < n → p j = true)
    (hat : n < m → p n = false) : ((List.range m).takeWhile p).length = n := by
  obtain ⟨k, rfl⟩ := Nat.exists_eq_add_of_le hn
  rw [List.range_add, List.takeWhile_append_of_pos (fun a ha => hbelow a (List.mem_range.mp ha))]
  cases k with
  | zero => simp
  | succ k => simp [List.range_succ_eq_map, hat (by omega)]

/-- A word whose top `n` bits are 0, and no more of them, has `n` leading zeros. -/
theorem leadingZeros_eq {a : Word} {n : Nat} (hn : n ≤ 32) (hzero : ∀ j, j < n → a.getLsbD (31 - j) = false)
    (hone : n < 32 → a.getLsbD (31 - n) = true) : leadingZeros a = n :=
  length_takeWhile_range hn (fun j hj => by simp [hzero j hj]) fun h => by simp [hone h]

theorem reverseBytes_eq (a : Word) : reverseBytes a = BitVec.ofNat 32
    (a.toNat / 2 ^ 24 + a.toNat / 2 ^ 16 % 256 * 2 ^ 8 + a.toNat / 2 ^ 8 % 256 * 2 ^ 16 + a.toNat % 256 * 2 ^ 24) := by
  have ha := a.isLt
  have hbytes : natOf (bytesOf 4 a.toNat).reverse =
      a.toNat / 256 / 256 / 256 % 256 + 256 * (a.toNat / 256 / 256 % 256 + 256 * (a.toNat / 256 % 256 + 256 * (a.toNat % 256))) := rfl
  refine congrArg (BitVec.ofNat 32) (hbytes.trans ?_)
  simp only [Nat.div_div_eq_div_mul, Nat.reduceMul, Nat.reducePow]
  omega

/-- CMPI compares by the difference (R324). -/
theorem subWith_cmp (a i : Word) (f : Flags) : subWith a i true f = (a - i, ⟨a == i, (a - i).msb, decide (i.toNat ≤ a.toNat),
    decide ((a - i).toInt ≠ a.toInt - i.toInt)⟩) := by
  have hz : (a - i == 0#32) = (a == i) := by simp [beq_eq_decide, BitVec.sub_eq_iff_eq_add]
  rw [subWith_true, hz]

/-- Settles O43: each instruction retires with its result and flags. -/
theorem immediateAndUnaryComplete : Obligations.ImmediateAndUnaryComplete := by
  intro s s1 core ext rd
  refine ⟨fun imm6 => ⟨fun hr => ?movi, fun hr hv => ?addi, fun hr => ?cmpi⟩, fun hr => ⟨fun hv => ?neg, ?not⟩,
    fun hr => ⟨?sextb, ?sexth, ?zextb, ?zexth, fun n hn hzero hone => ?clz, ?rev⟩⟩
  case movi => exact issue_move hr rfl
  case addi => exact issue_alu hr (addWith_false _ _ _) hv
  case cmpi => exact issue_flags hr (subWith_cmp _ _ _)
  case neg => exact issue_alu hr (subWith_neg _ _) hv
  case not => exact issue_alu hr rfl rfl
  case sextb | sexth => exact issue_move hr rfl
  case zextb => exact issue_move hr (zeroExtend_byte _)
  case zexth => exact issue_move hr (zeroExtend_half _)
  case clz => exact issue_move hr (congrArg _ (leadingZeros_eq hn hzero hone))
  case rev => exact issue_move hr (reverseBytes_eq _)

end Sys2Proof.Machine
end

section
/-! PROOF. The memory class, control transfer and the other system operations of the guide cores (R317, R326-R334, R338, R348, R441). -/

namespace Sys2Proof.Machine

open Sys2Proof.Safety

section
variable {s s2 : State} {c a n : Nat}

/-- An access that no watchpoint stops goes on (R440). -/
theorem watched_of_none {write : Bool} (h : watchHit s.dev c a n write = none) (go : Eff) : watched c a n write s go = go := by
  simp only [watched, h]

/-- A load whose data is there writes the base, and then its bytes reach their registers (R326, R337). -/
theorem loadBody_data {bs : List Byte} {later : Bool} (hw : watchHit s.dev c a n false = none)
    (hl : loadData c a n s = (.data bs later, s2)) (regs : List Nat) (base : Option (Nat × Word)) (more : GCore → GCore) :
    loadBody c a n regs base more s = .retire (onDev (onCore c fun g =>
      more (landData regs bs later (base.elim g fun b => putW b.1 b.2 g))) s2) := by
  simp only [loadBody, watched_of_none hw, hl]
  cases base <;> rfl

variable {bs : List Byte}

/-- A store that the store buffer takes retires with its base (R326, R345). -/
theorem storeBody_buffered (hw : watchHit s.dev c a bs.length true = none) (hs : storeData c a bs s = (.buffered, s2))
    (base : Option (Nat × Word)) :
    storeBody c a bs base s = .retire (onDev (onCore c fun g => base.elim g fun b => putW b.1 b.2 g) s2) := by
  simp only [storeBody, watched_of_none hw, hs]
  cases base <;> rfl

/-- A store to a register reaches it once the instruction has retired (R345). -/
theorem storeBody_register (hw : watchHit s.dev c a bs.length true = none) (hs : storeData c a bs s = (.register, s2))
    (base : Option (Nat × Word)) : storeBody c a bs base s =
      .retireThen (onDev (onCore c fun g => base.elim g fun b => putW b.1 b.2 g) s2) (storeControl c a bs) := by
  simp only [storeBody, watched_of_none hw, hs]
  cases base <;> rfl

/-- LL of an aligned word of memory is a load that leaves a reservation (R331). -/
theorem llBody_word {rd : Nat} (hbuf : (coreOf s.dev c).sbuf = []) (ha : (getW (coreOf s.dev c) rd).toNat = a) (hal : a % 4 = 0)
    (hmapped : areaOf a ≠ none) (hmem : areaOf a ≠ some .control) : llBody c rd s =
      loadBody c a 4 [rd] none (fun g => { g with resv := some (transferOf s.dev c a) }) s := by
  subst ha
  simp [llBody, hbuf, hal, hmapped, hmem]

/-- SC without a reservation stores nothing (R331). -/
theorem scBody_unreserved {rs : Nat} (hbuf : (coreOf s.dev c).sbuf = []) (hresv : (coreOf s.dev c).resv = none) :
    scBody c rs s = .retire (onDev (onCore c fun g => { g with
      resv := none, st := withFlags g.st { flagsOf g.st with z := false } }) s) := by
  simp [scBody, hbuf, hresv]

/-- SC with a reservation stores its word (R331). -/
theorem scBody_reserved {rs ta : Nat} (hbuf : (coreOf s.dev c).sbuf = []) (hresv : (coreOf s.dev c).resv = some ta)
    (hw : watchHit s.dev c (dataOf s.dev c ta) 4 true = none) : scBody c rs s = .retire (onDev (onCore c fun g => { g with
      resv := none, st := withFlags g.st { flagsOf g.st with z := true } })
        (storeNow c ta (bytesOf 4 (getW (coreOf s.dev c) rs).toNat) s)) := by
  simp [scBody, hbuf, hresv, watched_of_none hw]

theorem syncBody_empty (hbuf : (coreOf s.dev c).sbuf = []) : syncBody c s = .retire s := by simp [syncBody, hbuf]

end

/-- Settles O44: each access goes on where no watchpoint, wait or DATA stops it. -/
theorem memoryInstructionsComplete : Obligations.MemoryInstructionsComplete := by
  intro s s1 core ext
  refine ⟨fun size p rd rb => ⟨fun bs later s2 hr hw hl => ?ld, fun s2 hr hw => ⟨fun hs => ?stBuffered, fun hs => ?stRegister⟩⟩,
    fun rs s2 hr hw hs => ?push, fun rd bs later s2 hr hw hl => ?pop, fun rd bs later s2 hr hbuf hal hmapped hmem hw hl => ?ll,
    fun rs hr hbuf => ⟨fun hresv => ?scNone, fun ta hresv hw => ?sc⟩, fun hr hbuf => ?sync⟩
  case ld =>
    refine (issue_body (body := fun _ => ldBody core.toNat ext size.toNat p rd.toNat rb.toNat) hr (loadBody_data hw hl _ _ _)).trans ?_
    cases p <;> rfl
  case stBuffered =>
    refine (issue_body (body := fun _ => stBody core.toNat ext size.toNat p rd.toNat rb.toNat) hr (storeBody_buffered hw hs _)).trans ?_
    cases p <;> rfl
  case stRegister =>
    refine (issue_body (body := fun _ => stBody core.toNat ext size.toNat p rd.toNat rb.toNat) hr (storeBody_register hw hs _)).trans ?_
    cases p <;> rfl
  case push => exact issue_body (body := fun _ => pushBody core.toNat rs.toNat) hr (storeBody_buffered hw hs (some (15, _)))
  case pop => exact issue_body (body := fun _ => popBody core.toNat rd.toNat) hr (loadBody_data hw hl [_] (some (15, _)) id)
  case ll =>
    exact issue_body (body := fun _ => llBody core.toNat rd.toNat) hr
      ((llBody_word hbuf rfl hal hmapped hmem).trans (loadBody_data hw hl _ _ _))
  case scNone => exact issue_body (body := fun _ => scBody core.toNat rs.toNat) hr (scBody_unreserved hbuf hresv)
  case sc => exact issue_body (body := fun _ => scBody core.toNat rs.toNat) hr (scBody_reserved hbuf hresv hw)
  case sync => exact issue_body (body := fun _ => syncBody core.toNat) hr (syncBody_empty hbuf)

section
variable {s s2 : State} {c : Nat}

/-- The outcome of a branch trains the predictor, and a wrong prediction is counted (R338). -/
def branchNoted (c : Nat) (a : BitVec 20) (taken : Bool) (s : State) : State :=
  onDev (fun d => countMiss c (predictTaken s.dev (coreOf s.dev c) c a != taken) (train c a taken d)) s

theorem branchBody_taken {cond : Nat} (h : condHolds cond (flagsOf (coreOf s.dev c).st) = true) (dist a : BitVec 20) :
    branchBody c cond dist a s = .goto (a + 1 + dist) (branchNoted c a true s) := by
  simp only [branchBody, h, if_true]; rfl

theorem branchBody_untaken {cond : Nat} (h : condHolds cond (flagsOf (coreOf s.dev c).st) = false) (dist a : BitVec 20) :
    branchBody c cond dist a s = .retire (branchNoted c a false s) := by
  simp only [branchBody, h, Bool.false_eq_true, if_false]; rfl

/-- JR past the return stack only jumps (R330, R338). -/
theorem jrBody_plain {rs : BitVec 4} (h : rs ≠ 14 ∨ detMode s.dev c = true ∨ (coreOf s.dev c).ras = []) :
    jrBody c rs.toNat s = .goto ((getW (coreOf s.dev c) rs.toNat).setWidth 20) s := by
  have hkeep : (if rs.toNat != 14 || detMode s.dev c then s.dev else match (coreOf s.dev c).ras with
      | [] => s.dev
      | x :: r => if x == (getW (coreOf s.dev c) rs.toNat).setWidth 20 then onCore c (fun g => { g with ras := r }) s.dev
        else countMiss c true s.dev) = s.dev := by
    rcases h with h | h | h
    · exact if_pos (by simpa [bne_iff_ne, ← BitVec.toNat_inj] using Or.inl h)
    · exact if_pos (by simp [h])
    · simp [h]
  exact congrArg (fun d => Eff.goto ((getW (coreOf s.dev c) rs.toNat).setWidth 20) { s with dev := d }) hkeep

/-- JR w14 pops the return stack where its top is the target, and else is mispredicted (R338). -/
theorem jrBody_return {x : BitVec 20} {r : List (BitVec 20)} (hdet : detMode s.dev c = false) (hras : (coreOf s.dev c).ras = x :: r) :
    jrBody c 14 s = .goto ((getW (coreOf s.dev c) 14).setWidth 20) (onDev (if x = (getW (coreOf s.dev c) 14).setWidth 20 then
      onCore c (fun g => { g with ras := r }) else countMiss c true) s) := by
  simp only [jrBody, onDev, hdet, hras, bne_self_eq_false, Bool.or_self, Bool.false_eq_true, if_false, beq_iff_eq]
  split <;> rfl

theorem loopBody_zero {rc len : Nat} {a : BitVec 20} (h : getW (coreOf s.dev c) rc = 0#32) :
    loopBody c rc len a s = .goto (a + 1 + BitVec.ofNat 20 len) s := if_pos (by simp [h])

/-- LOOP starts the next level (R332). -/
def loopStarted (c rc len : Nat) (a : BitVec 20) (s : State) : State :=
  let d := loopDepth (coreOf s.dev c)
  onDev (onCore c fun g => { g with
    ls := sset (fun _ => 0#20) g.ls d (a + 1)
    le := sset (fun _ => 0#20) g.le d (a + BitVec.ofNat 20 len)
    lc := sset (fun _ => 0#32) g.lc d (getW (coreOf s.dev c) rc)
    st := withDepth g.st (d + 1) }) s

theorem loopBody_start {rc len : Nat} {a : BitVec 20} (h : getW (coreOf s.dev c) rc ≠ 0#32) :
    loopBody c rc len a s = .goto (a + 1) (loopStarted c rc len a s) := if_neg (by simpa using h)

end

/-- The conditions of R328 by their codes. -/
theorem condHolds_table {cond : BitVec 4} (h : cond ≠ 15) (f : Flags) : condHolds cond.toNat f =
    [f.z, !f.z, !f.c, f.c, !f.c || f.z, f.c && !f.z, f.n != f.v, f.n == f.v, f.z || f.n != f.v, !f.z && f.n == f.v,
      f.n, !f.n, f.v, !f.v, true].getD cond.toNat false := by
  have hlt : cond.toNat < 15 := by
    have := cond.isLt
    have : cond.toNat ≠ 15 := fun e => h (BitVec.eq_of_toNat_eq e)
    omega
  generalize cond.toNat = n at hlt
  interval_cases n <;> rfl

theorem ready_not_bad {core : BitVec 5} {ext : List (BitVec 10)} {fm : Form} {full : GCore → Bool} {s s1 : State}
    (h : Ready core ext fm full s s1) : fm.bad = false := by
  obtain ⟨-, -, hbad, -⟩ := h
  exact hbad

/-- A conditional branch as the pipeline sees it (R334, R338). -/
def branchFormOf (c : Nat) (cond : BitVec 4) (d : Dev) (g : GCore) (a : BitVec 20) : Form :=
  { plainForm [] [] with readsFlags := true, setsFlags := false, branch := true, ends := predictTaken d g c a, bad := cond == 15 }

theorem exec_branch (core : BitVec 5) (ext : List (BitVec 10)) (cond : BitVec 4) (d6 : BitVec 6) (s : State) :
    exec (.branch core ext cond d6) s = issue core ext (branchFormOf core.toNat cond) neverFull
      (branchBody core.toNat cond.toNat (disp ext 6 d6.toNat)) s := rfl

/-- Settles O45: each transfer goes where its body says. -/
theorem controlInstructionsComplete : Obligations.ControlInstructionsComplete := by
  intro s s1 core ext
  refine ⟨fun cond d6 hr => ?branch, fun d9 => ⟨fun hr => ?jmp, fun hr => ?call⟩, fun hr => ?nop,
    fun rs => ⟨fun hr => ⟨fun h => ?jr, fun x r h hdet hras => ?jrReturn⟩, fun hr => ?callr⟩,
    fun rc hr => ⟨fun h => ?loopZero, fun h => ?loop⟩, fun hr => ?breakl⟩
  case branch =>
    have hcond := condHolds_table (beq_eq_false_iff_ne.mp (ready_not_bad hr)) (flagsOf (coreOf s1.dev core.toNat).st)
    refine ⟨fun h => ?taken, fun h => ?untaken⟩
    case taken => rw [h, exec_branch]; exact issue_formed hr (branchBody_taken (hcond.trans h) _ _)
    case untaken => rw [h, exec_branch]; exact issue_formed hr (branchBody_untaken (hcond.trans h) _ _)
  case jmp => exact issue_body (body := fun a s => .goto (a + 1 + disp ext 9 d9.toNat) s) hr rfl
  case call =>
    exact issue_body (body := fun a s => .goto (a + 1 + disp ext 9 d9.toNat) (onDev (linkCall core.toNat a) s)) hr rfl
  case nop => exact issue_body (body := fun _ s => .retire s) hr rfl
  case jr => exact issue_body (body := fun _ => jrBody core.toNat rs.toNat) hr (jrBody_plain h)
  case jrReturn =>
    subst h
    exact issue_body (body := fun _ => jrBody core.toNat 14) hr (jrBody_return hdet hras)
  case callr =>
    exact issue_body (body := fun a s => .goto ((getW (coreOf s.dev core.toNat) rs.toNat).setWidth 20)
      (onDev (linkCall core.toNat a) s)) hr rfl
  case loopZero => exact issue_body (body := loopBody core.toNat rc.toNat (prefixValue ext)) hr (loopBody_zero h)
  case loop => exact issue_body (body := loopBody core.toNat rc.toNat (prefixValue ext)) hr (loopBody_start h)
  case breakl => exact issue_body (body := breaklBody core.toNat) hr rfl

section
variable {s s2 : State} {c : Nat}

/-- XRET with a good stack restores PC and ST from it (R348). -/
theorem xretBody_frame {ret st : Word} (hok : stackOk (coreOf s.dev c).ssp = true) (hfit : (coreOf s.dev c).ssp.toNat + 8 ≤ 0x20000)
    (hread : readFrame c (coreOf s.dev c).ssp.toNat s = (some (some (ret, st)), s2)) :
    xretBody c s = .goto (ret.setWidth 20) (onDev (fun d =>
      let d' := setCore d c { unload 16 (coreOf d c) with
        ssp := (coreOf s.dev c).ssp + 8, st := cutSt st, resv := none
        nmi := if (coreOf d c).nmi == some (coreOf s.dev c).ssp then none else (coreOf d c).nmi }
      if (coreOf d c).monitor == some (coreOf s.dev c).ssp then leaveMonitor c d' else d') s2) := by
  have hgood : (!stackOk (coreOf s.dev c).ssp || decide (0x20000 < (coreOf s.dev c).ssp.toNat + 8)) = false := by
    simp [hok, Nat.not_lt.mpr hfit]
  simp only [xretBody, hgood, hread, Bool.false_eq_true, if_false]

/-- BKPT is the debug event outside monitor mode, and sets NESTED in it (R441). -/
theorem bkptBody_event {n : Nat} (h : (coreOf s.dev c).monitor = none) : bkptBody c n s = .debug 1 0 n s :=
  if_neg (by simp [h])

theorem bkptBody_nested {n : Nat} (h : (coreOf s.dev c).monitor ≠ none) :
    bkptBody c n s = .retire (onDev (fun d => setFlag d (DBG_CORE_STAT_NESTED c) true) s) :=
  if_pos (Option.isSome_iff_ne_none.mpr h)

/-- A special register is read, unless a load still writes USP (R317, R337). -/
theorem mfsBody_read {sr : BitVec 4} {rd : Nat}
    (h : sr ≠ 1 ∨ ((coreOf s.dev c).loads.any fun l => l.regs.any fun x => x.1 == 15) = false) :
    (if sr.toNat == 1 && (coreOf s.dev c).loads.any (fun l => l.regs.any fun x => x.1 == 15) then Eff.wait s
      else moveBody c rd (fun g => getSr g sr.toNat) s) = moveBody c rd (fun g => getSr g sr.toNat) s := by
  refine if_neg ?_
  rcases h with h | h
  · have hne : sr.toNat ≠ 1 := fun e => h (BitVec.eq_of_toNat_eq e)
    simp [hne]
  · simp [h]

end

/-- Settles O46: each operation completes with its body's effect. -/
theorem systemInstructionsComplete : Obligations.SystemInstructionsComplete := by
  intro s s1 core ext
  refine ⟨fun ret st s2 hr hok hfit hread => ?xret, fun n hr => ⟨?trap, fun hm => ?bkpt, fun hm => ?nested⟩,
    fun hr => ⟨fun hw => ?awake, fun hw => ?wait⟩, fun sr rs hr => ?mts, fun sr rd hr hload => ?mfs, fun hf hlen => ?illegal⟩
  case xret =>
    exact issue_formed (form := fun _ g _ => { sysForm 0 with reads := [15], illegal := if supervisor g then none else some 1 })
      (body := fun _ => xretBody core.toNat) hr (xretBody_frame hok hfit hread)
  case trap => exact issue_body (body := fun a s => .trap 7 n.toNat none (some (a + 1)) s) hr rfl
  case bkpt => exact issue_body (body := fun _ => bkptBody core.toNat n.toNat) hr (bkptBody_event hm)
  case nested => exact issue_body (body := fun _ => bkptBody core.toNat n.toNat) hr (bkptBody_nested hm)
  case awake => exact issue_body (body := fun _ => waitBody core.toNat) hr (if_pos hw)
  case wait => exact issue_body (body := fun _ => waitBody core.toNat) hr (if_neg (Bool.eq_false_iff.mp hw))
  case mts =>
    exact issue_formed (form := fun _ g _ => { srForm g sr.toNat with reads := [rs.toNat] })
      (body := fun _ => mtsBody core.toNat sr.toNat rs.toNat) hr rfl
  case mfs =>
    exact issue_formed (form := fun _ g _ => { srForm g sr.toNat with writes := [rd.toNat] })
      (body := fun _ s => if sr.toNat == 1 && (coreOf s.dev core.toNat).loads.any (fun l => l.regs.any fun x => x.1 == 15) then .wait s
        else moveBody core.toNat rd.toNat (fun g => getSr g sr.toNat) s) hr ((mfsBody_read hload).trans (moveBody_retires rfl))
  case illegal =>
    have hdetail : illegalDetail ext { sysForm 0 with illegal := some 0 } = some 0 := by
      simp [illegalDetail, Nat.not_le.mpr hlen]
    exact issue_illegal core ext (fun _ _ _ => { sysForm 0 with illegal := some 0 }) neverFull (fun _ s => .wait s) s s1 0 hf hdetail

/-- A fetched instruction with a reserved encoding and no illegal use of prefixes or privilege stops (R334). -/
theorem issue_reserved {core : BitVec 5} {ext : List (BitVec 10)} {form : Dev → GCore → BitVec 20 → Form} {full : GCore → Bool}
    {body : BitVec 20 → State → Eff} {s s1 : State}
    (h : Fetches core ext (form s.dev (coreOf s.dev core.toNat) (instrAt core ext s)) s s1)
    (hlegal : illegalDetail ext (form s.dev (coreOf s.dev core.toNat) (instrAt core ext s)) = none)
    (hbad : (form s.dev (coreOf s.dev core.toNat) (instrAt core ext s)).bad = true) :
    issue core ext form full body s = .fault .reservedEncoding := by
  obtain ⟨hgranted, hwait, hexec, hfirst, hfetch⟩ := h
  have hissues : (!executing s.dev core.toNat || (!(pairs s.dev core.toNat (ext.length + 1)
      (form s.dev (coreOf s.dev core.toNat) (instrAt core ext s))) && (nmiDue s.dev core.toNat || extDue s.dev core.toNat))) = false := by
    rcases hfirst with hp | ⟨hnmi, hext⟩
    · simp [hexec, hp]
    · simp [hexec, hnmi, hext]
  simp only [instrAt] at hissues hlegal hbad
  simp only [issue, hgranted, hwait, hissues, hfetch, hlegal, hbad, Bool.not_true, Bool.false_eq_true, if_false, if_true]

/-- A form that may be prefixed and raises nothing by itself is legal after up to three prefixes (R320). -/
theorem illegalDetail_of_prefixed {ext : List (BitVec 10)} {fm : Form} (hlen : ext.length < 4) (hpre : fm.prefixes = true)
    (hill : fm.illegal = none) : illegalDetail ext fm = none := by
  simp [illegalDetail, Nat.not_le.mpr hlen, hpre, hill]

/-- Without prefixes a form is legal when it raises nothing by itself. -/
theorem illegalDetail_of_unprefixed {fm : Form} (hill : fm.illegal = none) : illegalDetail [] fm = none := by
  simp [illegalDetail, hill]

/-- Settles O54: each encoding is fetched, passes the checks before it, and is reserved. -/
theorem reservedEncodingsStop : Obligations.ReservedEncodingsStop := by
  intro s s1 core ext hlen
  refine ⟨fun d6 hf => ?branch, fun p rd rb hodd => ⟨fun hf => ?ld, fun hf => ?st⟩,
    fun opd hopd hext => ⟨fun hf => ?nop, fun hf hsup => ?xret, fun hf => ⟨?wait, ?breakl, ?sync⟩⟩⟩
  case branch =>
    rw [exec_branch]
    exact issue_reserved hf (illegalDetail_of_prefixed hlen rfl rfl) rfl
  case ld =>
    exact issue_reserved (form := fun _ _ _ => loadForm 3 p rd.toNat rb.toNat)
      (body := fun _ => ldBody core.toNat ext 3 p rd.toNat rb.toNat) hf (illegalDetail_of_prefixed hlen rfl rfl) (by simp [loadForm, hodd])
  case st =>
    exact issue_reserved (form := fun _ _ _ => storeForm 3 p rd.toNat rb.toNat)
      (body := fun _ => stBody core.toNat ext 3 p rd.toNat rb.toNat) hf (illegalDetail_of_prefixed hlen rfl rfl) (by simp [storeForm, hodd])
  all_goals
    subst hext
    have hbad : (opd.toNat != 0) = true := bne_iff_ne.mpr fun e => hopd (BitVec.eq_of_toNat_eq e)
  case nop =>
    exact issue_reserved (form := fun _ _ _ => { sysForm opd.toNat with sys := false }) (body := fun _ s => .retire s) hf
      (illegalDetail_of_unprefixed rfl) hbad
  case xret =>
    have hill : (if supervisor (coreOf s.dev core.toNat) then none else some 1 : Option Nat) = none := if_pos hsup
    exact issue_reserved (form := fun _ g _ => { sysForm opd.toNat with reads := [15], illegal := if supervisor g then none else some 1 })
      (body := fun _ => xretBody core.toNat) (by simpa only [hill] using hf) (illegalDetail_of_unprefixed hill) hbad
  case wait =>
    exact issue_reserved (form := fun _ _ _ => sysForm opd.toNat) (body := fun _ => waitBody core.toNat) hf
      (illegalDetail_of_unprefixed rfl) hbad
  case breakl =>
    exact issue_reserved (form := fun _ _ _ => sysForm opd.toNat) (body := breaklBody core.toNat) hf
      (illegalDetail_of_unprefixed rfl) hbad
  case sync =>
    exact issue_reserved (form := fun _ _ _ => sysForm opd.toNat) (body := fun _ => syncBody core.toNat) hf
      (illegalDetail_of_unprefixed rfl) hbad

end Sys2Proof.Machine
end

section
/-! PROOF. What a command does in a module that does not work or that a debug halt holds, and that it goes on and leaves the queue
(R297, R334, R435, R442). -/

namespace Sys2Proof.Machine

open Sys2Proof.Safety

/-- Settles O50: a command edits the state, and no edit touches the queue. -/
theorem commandsLeaveTheQueue : Obligations.CommandsLeaveTheQueue := fun _ _ _ h => (edits_of_exec h).pending_eq

section
variable {s : State}

/-! Where no debug halt may stand, nothing happens while one does (R442). -/

theorem whenGranted_of_held {f : State → State} (h : granted s.dev = false) : whenGranted f s = s := if_neg (Bool.eq_false_iff.mp h)

theorem whenServed_of_held {a : Agent} {f : State → State} (h : granted s.dev = false) : whenServed a f s = s := by
  refine if_neg fun hserved => ?_
  obtain ⟨hw, hrun⟩ := Bool.and_eq_true_iff.mp hserved
  have hgranted : granted s.dev = true := Bool.and_eq_true_iff.mpr ⟨(Bool.and_eq_true_iff.mp hw).1, hrun⟩
  exact absurd (h.symm.trans hgranted) Bool.false_ne_true

theorem receive_of_held {ty sub body : Nat} {rx : Rx} {f : State → State} (h : granted s.dev = false) :
    receive ty sub rx body f s = s := if_pos (by simp [h])

theorem issue_of_held {core : BitVec 5} {ext : List (BitVec 10)} {form : Dev → GCore → BitVec 20 → Form} {full : GCore → Bool}
    {body : BitVec 20 → State → Eff} (h : granted s.dev = false) : issue core ext form full body s = .next s := if_pos (by simp [h])

theorem execAlu_of_held {c : BitVec 5} {ext : List (BitVec 10)} {rd rs : BitVec 4} {form : Form} {ovf : Bool}
    {f : Word → Word → Flags → Word × Flags} (h : granted s.dev = false) : execAlu c ext rd rs form ovf f s = .next s :=
  issue_of_held h

theorem execCompare_of_held {c : BitVec 5} {ext : List (BitVec 10)} {rd rs : BitVec 4} {f : Word → Word → Flags → Word × Flags}
    (h : granted s.dev = false) : execCompare c ext rd rs f s = .next s := issue_of_held h

theorem execUnary_of_held {c : BitVec 5} {ext : List (BitVec 10)} {rd : BitVec 4} {f : Word → Word} (h : granted s.dev = false) :
    execUnary c ext rd f s = .next s := issue_of_held h

/-- A guard before the outcome, where both ways leave the state. -/
theorem ite_next {c : Prop} {_ : Decidable c} {x y : Host.Outcome State Fault Refusal} (hx : x = .next s) (hy : y = .next s) :
    (if c then x else y) = .next s := by
  split
  · exact hx
  · exact hy

end

/-- The commands that a debug halt holds: the guide cores' instructions and events, flits, the fabric, the engines and the executor
(R442). -/
def heldByHalt : Instr → Bool
  | .mov _ _ _ _ | .div _ _ _ _ | .divu _ _ _ _ | .movi _ _ _ _ | .addi _ _ _ _ | .cmpi _ _ _ _ | .shi _ _ _ _ |
  .ld _ _ _ _ _ _ | .st _ _ _ _ _ _ | .branch _ _ _ _ | .jmp _ _ _ | .call _ _ _ | .nop _ _ _ | .jr _ _ _ | .callr _ _ _ |
  .xret _ _ _ | .trap _ _ _ | .bkpt _ _ _ | .wait _ _ _ | .loop _ _ _ | .breakl _ _ _ | .ll _ _ _ | .sc _ _ _ | .push _ _ _
  | .pop _ _ _ | .sync _ _ _ | .neg _ _ _ | .not _ _ _ | .mts _ _ _ _ | .mfs _ _ _ _ | .illegal _ _ | .add _ _ _ _ |
  .adc _ _ _ _ | .sub _ _ _ _ | .sbc _ _ _ _ | .and _ _ _ _ | .or _ _ _ _ | .xor _ _ _ _ | .lsl _ _ _ _ | .lsr _ _ _ _ |
  .asr _ _ _ _ | .mul _ _ _ _ | .cmp _ _ _ _ | .tst _ _ _ _ | .sextb _ _ _ | .sexth _ _ _ | .zextb _ _ _ | .zexth _ _ _ |
  .clz _ _ _ | .rev _ _ _ | .transitionEnd | .managerTimeout | .strand | .strandTimeout | .traverseBegin _ | .tileStep _ |
  .tileNetworkArrival _ | .portAccessComplete _ | .traverseEnd _ | .traceRecordWrite | .stepMemoryScrub _ _ | .patrolScrub _
  | .stall | .hostwaitLimit | .signalFlitClose _ _ | .timeExchangePeriod _ | .timeRequest _ _ _ _ | .timeReply _ _ _ _ _ |
  .parityFlitClose | .pageRestore _ | .wallCapExpiry | .restoreComplete | .replayEnd | .beatPeriod | .censusClose |
  .adoptImageLoaded | .probePeriod | .status _ | .regRead _ | .regWrite _ | .belayCommand _ | .load _ | .loadPart _ _ _ |
  .loadComplete | .loadAbort _ | .unload _ | .run _ | .step _ | .freeze _ | .resume _ | .replay _ | .replayAbort _ |
  .memRead _ | .memWrite _ _ _ | .fabricRead _ | .fabricWrite _ _ _ | .traceRead _ | .queueAttach _ | .commandSlice _ |
  .extint _ | .nmi | .dataLoadReturn _ | .programCacheFill _ _ | .storeBufferDrain _ | .dmaComplete _ | .floatComplete |
  .park _ | .unpark _ | .frameBoundary | .lineListApply _ | .captureEntry _ | .outputEntryRead _ | .linkProtocolFault _ _ |
  .replayRecordWrite | .quePublish _ _ | .queRelease _ _ | .dmaStart _ _ _ | .dmaStop _ _ _ _ | .fill _ _ | .copy _ _ |
  .blend _ _ | .floatAbort _ _ | .hold _ | .high _ _ | .stop _ _ | .arrived _ _ | .feeder _ | .hostwaitOn _ _ |
  .hostwaitOff _ _ | .ropeLost _ _ _ | .floor _ _ _ | .parityMark _ _ _ | .rebuildPageEnd _ _ _ | .request _ | .reply _ _ |
  .boundary _ _ _ | .ready _ _ _ _ _ | .commit _ _ _ | .abandon _ _ _ | .rollback _ _ _ | .jack _ _ _ _ |
  .ckpdataEnd _ _ _ _ | .entry _ _ _ _ _ _ | .prod _ _ _ | .cons _ _ _ | .refuse _ _ _ _ | .reattach _ _ _ |
  .trigLine _ _ _ _ | .trigFreeze _ _ _ | .trace _ _ _ _ _ | .report _ _ | .silent _ _ | .safe _ _ _ | .takeover _ _ _ _ _ _
  | .probe _ _ _ _ _ | .cmd _ _ _ _ | .cmdResp _ _ _ _ | .bulk _ _ _ _ _ | .mode _ _ _ _ _ _ _ | .topo _ _ _ _ |
  .map _ _ _ _ | .lost _ _ _ | .ack _ _ _ _ | .beat _ _ _ _ _ _ | .census _ _ _ | .censusReply _ _ _ _ _ _ _ |
  .adopt _ _ _ _ _ | .adopted _ _ _ | .done _ _ _ _ _ | .appoint _ _ _ | .rebuildReq _ _ _ _ _ | .stepword _ _ _ _ _ _ _ _ |
  .signal _ _ _ | .rebuildWords _ _ _ | .parity _ _ _ | .ckpdataState _ _ _ _ | .ckpdataTram _ _ _ _ | .ckpdataQpos _ _ _ _
  | .ckpdataJrnl _ _ _ _ => true
  | _ => false

/-- A command that a debug halt holds leaves the whole state while one stands, and in a module that does not work. -/
theorem exec_of_held {s : State} (h : granted s.dev = false) {c : Instr} (hc : heldByHalt c = true) : exec c s = .next s := by
  cases c <;> dsimp only [exec]
  case mov | div | divu | movi | addi | cmpi | shi | ld | st | branch | jmp | call | nop | jr | callr | xret | trap | bkpt | wait
      | loop | breakl | ll | sc | push | pop | sync | neg | not | mts | mfs | illegal =>
    exact issue_of_held h
  case add | adc | sub | sbc | and | or | xor | lsl | lsr | asr | mul => exact execAlu_of_held h
  case cmp | tst => exact execCompare_of_held h
  case sextb | sexth | zextb | zexth | clz | rev => exact execUnary_of_held h
  case transitionEnd | managerTimeout | strand | strandTimeout | traverseBegin | tileStep | tileNetworkArrival |
      portAccessComplete | traverseEnd | traceRecordWrite | stepMemoryScrub | patrolScrub | stall | hostwaitLimit |
      signalFlitClose | timeExchangePeriod | timeRequest | timeReply | parityFlitClose | pageRestore | wallCapExpiry |
      restoreComplete | replayEnd | beatPeriod | censusClose | adoptImageLoaded | probePeriod | status | regRead | regWrite |
      belayCommand | load | loadPart | loadComplete | loadAbort | unload | run | step | freeze | resume | replay | replayAbort |
      memRead | memWrite | fabricRead | fabricWrite | traceRead | queueAttach | commandSlice | extint | nmi | dataLoadReturn |
      programCacheFill | storeBufferDrain | dmaComplete | floatComplete | park | unpark | frameBoundary | lineListApply |
      captureEntry | outputEntryRead | linkProtocolFault | replayRecordWrite =>
    exact congrArg _ (whenGranted_of_held h)
  case quePublish | queRelease | dmaStart | dmaStop | fill | copy | blend | floatAbort =>
    exact congrArg _ (whenServed_of_held h)
  case hold | high | stop | arrived | feeder | hostwaitOn | hostwaitOff | ropeLost | floor | parityMark | rebuildPageEnd |
      request | reply | boundary | ready | commit | abandon | rollback | jack | ckpdataEnd | entry | prod | cons | refuse |
      reattach | trigLine | trigFreeze | trace | report | silent | safe | takeover | probe | cmd | cmdResp | bulk | mode | topo
      | map | lost | ack | beat | census | censusReply | adopt | adopted | done | appoint | rebuildReq | stepword =>
    exact congrArg _ (receive_of_held h)
  case signal | rebuildWords | ckpdataState | ckpdataTram | ckpdataQpos | ckpdataJrnl =>
    exact ite_next rfl (congrArg _ (receive_of_held h))
  case parity => exact ite_next (congrArg _ (whenGranted_of_held h)) (ite_next rfl (congrArg _ (receive_of_held h)))
  all_goals cases hc

/-- Settles O52: a debug halt holds each of these commands. -/
theorem debugHaltStopsEngines : Obligations.DebugHaltStopsEngines := by
  intro s hhalt core ext rd rs imm6 imm9 size p ch tile r rx v k line c hc
  have hgranted : granted s.dev = false := by simp [granted, hhalt]
  refine exec_of_held hgranted ?_
  revert c
  exact List.all_eq_true.mp rfl

section
variable {s : State} (h : alive s.dev = false)
include h

/-! A module that does not work takes no event and no access (R297). -/

theorem granted_of_dead : granted s.dev = false := by simp [granted, h]

theorem whenAlive_of_dead {f : State → State} : whenAlive f s = s := if_neg (Bool.eq_false_iff.mp h)

theorem whenWritable_of_dead {a : Agent} {f : State → State} : whenWritable a f s = s := if_neg (by simp [writable, h])

end

/-- Settles O51: what is neither held by a debug halt nor a pin or the TAP's acts in a module that works. -/
theorem deadModuleKeepsItsState : Obligations.DeadModuleKeepsItsState := by
  intro c s h
  cases c
  case registerWrite | readClear | loRead | linkBelayRaise | laneDis | retrain | bar2Read | bar2Write | triggerUnitWrite |
      traceMaskWrite | cairnAck | latchClear | cairnSrcWrite | inject | hostMbGo | hostMbPop | hostPpSqTail | hostPpCqHead |
      hostPpCqCfg | gcoreRun | gcoreReset | det | icinv | dcinv | gcorePdata | claim | complete | swi | clrpend | disable |
      tmrCountLatch | tmrCapRead | alarmArm | kick | gpioPinWrite | gpioSet | gpioClr | mbxSendGo | mbxRxRelease | vidCommit |
      captureBind | auxStart | audioPortBind | dapRead | dapWrite | debugHalt | debugRelease | haltreq | dbgResume | dbgStim |
      dbgTraceDataHi =>
    exact .inl (congrArg Host.Outcome.next (whenWritable_of_dead h))
  case railOutOfWindow | powerMeasurement | temperatureReading | configurationRead | baseCampStart | hbmTrainingComplete |
      engineInitComplete | bootWindowExpiry | rateWindow | belay | heartbeat | lcTrain | lcStatus | lcNak | lcStatusTimer |
      ropeTrainingTimeout | resendTimeout | ropeAckTimeout | laneLoss | retrainPeriod | laneRejoin | deviceSilence | cairnEvent
      | ackWindowExpiry | fltNPulseEnd | settleExpiry | portReset | portLinkUp | glitchFilter | countTick | capture | alarm |
      watchdogWarning | watchdogExpiry | pulseEnd | auxReply | hpdChange | blockBoundary | zcTimeout | fsyncAbsent | flitDiscard
      | audioFrame | fsyncReturn =>
    exact .inl (congrArg Host.Outcome.next (whenAlive_of_dead h))
  case resetN | vauxFirstGood | vauxLoss | vinGood | vioChange | resetNRelease | refclkDetected | tapReset | extest | idcode |
      samplePreload | clamp | highz | bypass | dapacc => simp
  all_goals exact .inl (exec_of_held (granted_of_dead h) rfl)

/-- An instruction whose encoding is not reserved goes on in every state (R334). -/
theorem issue_goesOn {core : BitVec 5} {ext : List (BitVec 10)} {form : Dev → GCore → BitVec 20 → Form} {full : GCore → Bool}
    {body : BitVec 20 → State → Eff} {s : State} (hform : ∀ d g a, (form d g a).bad = false) :
    GoesOn (issue core ext form full body s) := by
  unfold issue
  extract_lets
  split
  · exact ⟨_, rfl⟩
  · split
    · exact ⟨_, rfl⟩
    · split
      · exact ⟨_, rfl⟩
      · exact ⟨_, rfl⟩
      · split
        · exact ⟨_, rfl⟩
        · rw [if_neg (Bool.eq_false_iff.mp (hform _ _ _))]
          split
          · exact ⟨_, rfl⟩
          · split
            · exact ⟨_, rfl⟩
            · split <;> exact ⟨_, rfl⟩

theorem execAlu_goesOn {c : BitVec 5} {ext : List (BitVec 10)} {rd rs : BitVec 4} {form : Form} {ovf : Bool}
    {f : Word → Word → Flags → Word × Flags} {s : State} (hform : form.bad = false) : GoesOn (execAlu c ext rd rs form ovf f s) :=
  issue_goesOn fun _ _ _ => hform

theorem execCompare_goesOn {c : BitVec 5} {ext : List (BitVec 10)} {rd rs : BitVec 4} {f : Word → Word → Flags → Word × Flags}
    {s : State} : GoesOn (execCompare c ext rd rs f s) := issue_goesOn fun _ _ _ => rfl

theorem execUnary_goesOn {c : BitVec 5} {ext : List (BitVec 10)} {rd : BitVec 4} {f : Word → Word} {s : State} :
    GoesOn (execUnary c ext rd f s) := issue_goesOn fun _ _ _ => rfl

theorem goesOn_ite {c : Prop} {_ : Decidable c} {x y : Host.Outcome State Fault Refusal} (hx : GoesOn x) (hy : GoesOn y) :
    GoesOn (if c then x else y) := by
  split
  · exact hx
  · exact hy

/-- An OPD of 0 is not reserved. -/
theorem opd_not_bad {opd : BitVec 4} (h : opd = 0) : (opd.toNat != 0) = false := by subst h; rfl

/-- A pair with an even register is not reserved. -/
theorem pair_not_bad {size : BitVec 2} {rd : BitVec 4} (h : size = 3 → rd.toNat % 2 ≠ 1) :
    (size.toNat == 3 && rd.toNat % 2 == 1) = false := by
  by_cases hs : size = 3
  · simp [h hs]
  · have hne : size.toNat ≠ 3 := fun e => hs (BitVec.eq_of_toNat_eq e)
    simp [hne]

/-- Settles O53: an instruction is the issue of a form that is not reserved, and every other command has an outcome without a stop. -/
theorem ordinaryCommandsGoOn : Obligations.OrdinaryCommandsGoOn := by
  intro c s hbranch hpair hopd
  cases c <;> dsimp only [exec]
  case branch core ext cond d6 =>
    exact issue_goesOn fun _ _ _ => beq_eq_false_iff_ne.mpr fun e => hbranch core ext d6 (e ▸ rfl)
  case ld core ext size p rd rb =>
    exact issue_goesOn fun _ _ _ => pair_not_bad fun hs hodd => (hpair core ext p rd rb hodd).1 (hs ▸ rfl)
  case st core ext size p rd rb =>
    exact issue_goesOn fun _ _ _ => pair_not_bad fun hs hodd => (hpair core ext p rd rb hodd).2 (hs ▸ rfl)
  case nop core ext opd =>
    exact issue_goesOn fun _ _ _ => opd_not_bad (not_not.mp fun hne => have ⟨hnop, _⟩ := hopd core ext opd hne; hnop rfl)
  case xret core ext opd =>
    exact issue_goesOn fun _ _ _ => opd_not_bad (not_not.mp fun hne => have ⟨_, hxret, _⟩ := hopd core ext opd hne; hxret rfl)
  case wait core ext opd =>
    exact issue_goesOn fun _ _ _ => opd_not_bad (not_not.mp fun hne => have ⟨_, _, hwait, _⟩ := hopd core ext opd hne; hwait rfl)
  case breakl core ext opd =>
    exact issue_goesOn fun _ _ _ => opd_not_bad (not_not.mp fun hne => have ⟨_, _, _, hbreakl, _⟩ := hopd core ext opd hne; hbreakl rfl)
  case sync core ext opd =>
    exact issue_goesOn fun _ _ _ => opd_not_bad (not_not.mp fun hne => have ⟨_, _, _, _, hsync⟩ := hopd core ext opd hne; hsync rfl)
  case mov | div | divu | movi | addi | cmpi | shi | jmp | call | jr | callr | trap | bkpt | loop | ll | sc | push | pop | neg |
      not | mts | mfs | illegal =>
    exact issue_goesOn fun _ _ _ => rfl
  case add | adc | sub | sbc | and | or | xor | lsl | lsr | asr | mul => exact execAlu_goesOn rfl
  case cmp | tst => exact execCompare_goesOn
  case sextb | sexth | zextb | zexth | clz | rev => exact execUnary_goesOn
  case signal | rebuildWords | ckpdataState | ckpdataTram | ckpdataQpos | ckpdataJrnl => exact goesOn_ite ⟨_, rfl⟩ ⟨_, rfl⟩
  case parity => exact goesOn_ite ⟨_, rfl⟩ (goesOn_ite ⟨_, rfl⟩ ⟨_, rfl⟩)
  all_goals exact ⟨_, rfl⟩

end Sys2Proof.Machine
end

section
/-! PROOF. A step takes the front of the queue or ticks, and reset (R316, R317, R365). -/

namespace Sys2Proof.Machine

open Sys2Proof.Safety

/-- What a tick of TBCLK (R365) leaves beside the registers it counts in: the local tick count and the parity stream. -/
def streamAt (d : Dev) : Nat × Parity := (d.ticks, d.par)

theorem setTime_streamAt (t : Nat) (d : Dev) : streamAt (setTime t d) = streamAt d := by unfold setTime; extract_lets; split <;> rfl

theorem tickTime_streamAt (d : Dev) : streamAt (tickTime d) = streamAt d := by
  unfold tickTime
  split
  · exact setTime_streamAt _ _
  · split <;> exact setTime_streamAt _ _

theorem tickRuntime_streamAt (d : Dev) : streamAt (tickRuntime d) = streamAt d := by unfold tickRuntime; split <;> rfl

theorem tickWatchdog_streamAt (c : Nat) (d : Dev) : streamAt (tickWatchdog c d) = streamAt d := by unfold tickWatchdog; split <;> rfl

theorem tickWatchdogs_streamAt (d : Dev) : streamAt (tickWatchdogs d) = streamAt d := by
  unfold tickWatchdogs
  split
  · exact each_invariant tickWatchdog_streamAt _ d
  · rfl

theorem emit_streamAt (o : Out) (d : Dev) : streamAt (emit o d) = streamAt d := rfl

theorem heartbeats_streamAt (d : Dev) : streamAt (heartbeats d) = streamAt d := each_invariant (fun _ => emit_streamAt _) _ d

/-- The module one tick later (R365). -/
def ticked (d : Dev) : Dev := heartbeats (tickWatchdogs (tickRuntime (tickTime { d with ticks := d.ticks + 1 })))

theorem ticked_streamAt (d : Dev) : streamAt (ticked d) = (d.ticks + 1, d.par) := by
  rw [ticked, heartbeats_streamAt, tickWatchdogs_streamAt, tickRuntime_streamAt, tickTime_streamAt]; rfl

/-- Without a parity stream a tick does nothing else. -/
theorem idleTick_streamless {s : State} (hclk : (alive s.dev && s.dev.pw.tbclk) = true) (hpar : s.dev.par.streamTo = none) :
    idleTick s = onDev ticked s := by
  have hnone : (ticked s.dev).par.streamTo = none := (congrArg (·.2.streamTo) (ticked_streamAt s.dev)).trans hpar
  have hpage : streamNextPage (onDev ticked s) = onDev ticked s := by simp only [streamNextPage, onDev_dev, hnone]
  refine (if_pos hclk).trans (ite_eq_left_iff.mpr fun _ => hpage)

/-- Settles O47: the front of the queue is the command that runs, and an empty queue ticks. -/
theorem stepRunsTheFrontCommand : Obligations.StepRunsTheFrontCommand := by
  refine ⟨fun c r s hp => ?front, fun s hp hclk => ?still, fun s hp hclk => ⟨idleTick s, ?ticks, fun hpar => ?left⟩⟩
  case front => simp only [step, hp]
  case still =>
    have htick : idleTick s = s := if_neg (Bool.eq_false_iff.mp hclk)
    simp only [step, hp, htick]
  case ticks => simp only [step, hp]
  case left =>
    rw [idleTick_streamless hclk hpar]
    exact ⟨congrArg Prod.fst (ticked_streamAt s.dev), hp, rfl⟩

/-- Every general register of a core that was reset is 0 (R316). -/
theorem getHome_gcore0 (n h : Nat) : getHome (gcore0 n) h = 0#32 := by
  unfold getHome
  split_ifs <;> rfl

/-- Every loop register of a core that was reset is 0 (R316, R317). -/
theorem getSr_gcore0 (n : Nat) {sr : Nat} (h : 4 ≤ sr) : getSr (gcore0 n) sr = 0#32 := by
  unfold getSr
  rw [if_neg (by simp; omega), if_neg (by simp; omega), if_neg (by simp; omega), if_neg (by simp; omega)]
  split_ifs <;> rfl

/-- Settles O48: reset's state lists nothing, so all of it reads as its reset value. -/
theorem resetLeavesResetValues : Obligations.ResetLeavesResetValues := by
  refine ⟨reset_mem_wf, rfl, fun _ => rfl, fun core r => ?cores, fun _ => rfl, by decide +kernel⟩
  exact ⟨getHome_gcore0 core.toNat _, rfl, rfl, rfl, rfl, rfl, rfl, fun _ hsr => getSr_gcore0 core.toNat hsr⟩

end Sys2Proof.Machine
end

section
/-! PROOF. Retirement: the loop-end action, and what a computing instruction leaves unchanged (R321, R324, R330, R333). -/

namespace Sys2Proof.Machine

open Sys2Proof.Safety

/-! The bits of ST and the loop depth in it (R317). -/

theorem getLsbD_eq_fieldOf (w : Word) (j : Nat) : w.getLsbD j = (fieldOf w ⟨0, j, j⟩ == 1) := by
  simp [fieldOf, bitsOf, BitVec.getLsbD, Nat.testBit_eq_decide_div_mod_eq, beq_eq_decide]

theorem getLsbD_withDepth (st : Word) (n : Nat) {j : Nat} (hj : j < 8 ∨ 10 < j) : (withDepth st n).getLsbD j = st.getLsbD j := by
  rw [getLsbD_eq_fieldOf, getLsbD_eq_fieldOf]
  exact congrArg (· == 1) (fieldOf_withField_disjoint st ⟨0, 10, 8⟩ ⟨0, j, j⟩ n (by decide) (by decide) le_rfl hj)

/-- A number below 16 has no bit from 4 on. -/
theorem getLsbD_ofNat_of_lt {n j : Nat} (hn : n < 2 ^ 4) (hj : 4 ≤ j) : (BitVec.ofNat 32 n).getLsbD j = false := by
  have hbit := Nat.testBit_lt_two_pow (Nat.lt_of_lt_of_le hn (Nat.pow_le_pow_right (by decide) hj))
  simp [BitVec.getLsbD_ofNat, hbit]

theorem getLsbD_withFlags (st : Word) (f : Flags) {j : Nat} (hj : 4 ≤ j) : (withFlags st f).getLsbD j = st.getLsbD j := by
  have hlt : b2n f.z + 2 * b2n f.n + 4 * b2n f.c + 8 * b2n f.v < 2 ^ 4 := by
    simp only [b2n]; split_ifs <;> decide
  rw [withFlags, BitVec.getLsbD_or, BitVec.getLsbD_and, BitVec.getLsbD_not, getLsbD_ofNat_of_lt (by decide) hj,
    getLsbD_ofNat_of_lt hlt hj]
  by_cases h : j < 32
  · simp [h]
  · simp [h, BitVec.getLsbD_of_ge _ _ (Nat.le_of_not_lt h)]

theorem loopDepth_withDepth (st : Word) {n : Nat} (hn : n ≤ 4) (g : GCore) : loopDepth { g with st := withDepth st n } = n :=
  (fieldOf_withField st ⟨0, 10, 8⟩ n (by decide) (by decide)).trans (Nat.mod_eq_of_lt (by simp; omega))

/-! The loop-end action of an instruction at `b` with `n` levels open (R333). -/

section
variable {g : GCore} {b : BitVec 20} {n : Nat}

theorem loopEnd_away (h : n = 0 ∨ sget (fun _ => 0#20) g.le (n - 1) ≠ b) : loopEnd g b n = (g, b + 1) := by
  cases n with
  | zero => rfl
  | succ m =>
    have hne : sget (fun _ => 0#20) g.le m ≠ b := h.resolve_left (Nat.succ_ne_zero m)
    simp [loopEnd, hne]

theorem loopEnd_again (hn : 1 ≤ n) (h : sget (fun _ => 0#20) g.le (n - 1) = b) (hlc : sget (fun _ => 0#32) g.lc (n - 1) ≠ 1#32) :
    loopEnd g b n = ({ g with lc := sset (fun _ => 0#32) g.lc (n - 1) (sget (fun _ => 0#32) g.lc (n - 1) - 1) },
      sget (fun _ => 0#20) g.ls (n - 1)) := by
  obtain ⟨m, rfl⟩ := Nat.exists_eq_add_of_le' hn
  rw [Nat.add_sub_cancel] at *
  have hmore : (sget (fun _ => 0#32) g.lc m - 1 != 0#32) = true := by
    simp only [bne_iff_ne, ne_eq, BitVec.sub_eq_iff_eq_add, BitVec.zero_add]; exact hlc
  simp only [loopEnd, h, bne_self_eq_false, Bool.false_eq_true, if_false, hmore, if_true]

theorem loopEnd_last (hn : 1 ≤ n) (h : sget (fun _ => 0#20) g.le (n - 1) = b) (hlc : sget (fun _ => 0#32) g.lc (n - 1) = 1#32) :
    loopEnd g b n =
      loopEnd { g with lc := sset (fun _ => 0#32) g.lc (n - 1) 0#32, st := withDepth g.st (n - 1) } b (n - 1) := by
  obtain ⟨m, rfl⟩ := Nat.exists_eq_add_of_le' hn
  rw [Nat.add_sub_cancel] at *
  simp [loopEnd, h, hlc]

/-- The innermost level ends and no outer level ends with it. -/
theorem loopEnd_last_away (hn : 1 ≤ n) (h : sget (fun _ => 0#20) g.le (n - 1) = b) (hlc : sget (fun _ => 0#32) g.lc (n - 1) = 1#32)
    (hout : n = 1 ∨ sget (fun _ => 0#20) g.le (n - 2) ≠ b) :
    loopEnd g b n = ({ g with lc := sset (fun _ => 0#32) g.lc (n - 1) 0#32, st := withDepth g.st (n - 1) }, b + 1) :=
  (loopEnd_last hn h hlc).trans (loopEnd_away (hout.imp (fun hone => by rw [hone]) id))

/-- The innermost level ends, and the next outer one at the same word goes on. -/
theorem loopEnd_last_again (hn : 2 ≤ n) (h : sget (fun _ => 0#20) g.le (n - 1) = b) (hlc : sget (fun _ => 0#32) g.lc (n - 1) = 1#32)
    (hout : sget (fun _ => 0#20) g.le (n - 2) = b) (hlc2 : sget (fun _ => 0#32) g.lc (n - 2) ≠ 1#32) :
    loopEnd g b n = ({ g with
      lc := sset (fun _ => 0#32) (sset (fun _ => 0#32) g.lc (n - 1) 0#32) (n - 2) (sget (fun _ => 0#32) g.lc (n - 2) - 1)
      st := withDepth g.st (n - 1) }, sget (fun _ => 0#20) g.ls (n - 2)) := by
  have hlower : sget (fun _ => 0#32) (sset (fun _ => 0#32) g.lc (n - 1) 0#32) (n - 2) = sget (fun _ => 0#32) g.lc (n - 2) :=
    sget_sset_other _ _ _ _ _ (by omega)
  rw [loopEnd_last (by omega) h hlc, ← hlower]
  rw [← hlower] at hlc2
  exact loopEnd_again (n := n - 1) (by omega) hout hlc2

end

/-- With no step armed an instruction that retires is followed by nothing (R333, R440). -/
theorem doneBy_retire {core : BitVec 5} {s1 : State} (hstep : stepping s1.dev core.toNat = false) (ext : List (BitVec 10)) (fm : Form)
    (s t : State) : doneBy core ext fm s s1 (.retire t) = onDev (retireAt core.toNat (instrAt core ext s)
      (pairs s.dev core.toNat (ext.length + 1) fm) (opens s1.dev core.toNat (instrAt core ext s).toNat (ext.length + 1) fm)) t := by
  simp only [doneBy, applyEff, afterStep, hstep, Bool.false_and, Bool.false_eq_true, if_false]

/-- The core of a retirement: the loop-end action, its next PC, and the open group (R333, R335). -/
theorem coreOf_retireAt (c : Nat) (a : BitVec 20) (paired : Bool) (head : Option GroupHead) (d : Dev) :
    coreOf (retireAt c a paired head d) c = { (loopEnd (coreOf d c) a (loopDepth (coreOf d c))).1 with
      pc := (loopEnd (coreOf d c) a (loopDepth (coreOf d c))).2, group := if paired then none else head } := by
  cases paired <;> exact coreOf_setCore_same _ _ _

/-- A count read after another one is written. -/
theorem sget_loop (l : Store Word) (k : Nat) (v : Word) (i : Nat) : sget (fun _ => 0#32) (sset (fun _ => 0#32) l k v) i =
    if i = k then v else sget (fun _ => 0#32) l i := by
  rw [sget_sset]; exact if_congr eq_comm rfl rfl

/-- Settles O56: the NOP leaves its core as the loop-end action does. -/
theorem loopEndDecidesThePc : Obligations.LoopEndDecidesThePc := by
  intro s s1 core c g a le lc ls n hr hstep hpc hn
  have hexec := (issue_body (body := fun _ s => .retire s) hr rfl).trans (congrArg Host.Outcome.next (doneBy_retire hstep _ _ s s1))
  rw [show instrAt core [] s = a from BitVec.add_zero _] at hexec
  refine ⟨_, hexec, rfl, ?_⟩
  rw [onDev_dev, coreOf_retireAt]
  refine ⟨fun h => ?away, fun h1 hle hlc => ?again, fun h1 hle hlc hout => ?last, fun h2 hle hlc hle2 hlc2 => ?outer⟩
  case away => rw [loopEnd_away h]; exact ⟨rfl, rfl, rfl⟩
  case again =>
    rw [loopEnd_again h1 hle hlc]
    refine ⟨rfl, rfl, fun i => (sget_loop _ _ _ i).trans ?_⟩
    by_cases hi : i = n - 1
    · subst hi; rfl
    · simp only [hi, if_false, lc]
  case last =>
    rw [loopEnd_last_away h1 hle hlc hout]
    exact ⟨rfl, loopDepth_withDepth g.st (by omega) g, sget_loop g.lc (n - 1) 0#32⟩
  case outer =>
    rw [loopEnd_last_again h2 hle hlc hle2 hlc2]
    exact ⟨rfl, loopDepth_withDepth g.st (by omega) g, sget_sset_same _ _ _ _⟩

/-! What computing leaves of its core (R321, R324, R330). -/

/-- The core keeps everything but its position, its loop counts and depth, its registers, and the flags if `flags` says so; of the
registers it writes at most the one at `home`, and none unless `writes` says so. -/
structure Keeps (writes flags : Bool) (home : Nat) (g g' : GCore) : Prop where
  rest : g' = { g with
    w := g'.w, usp := g'.usp, ssp := g'.ssp, st := g'.st, lc := g'.lc, pc := g'.pc, group := g'.group, loads := g'.loads }
  homes : ∀ h, h ≠ home ∨ writes = false → getHome g' h = getHome g h
  bits : ∀ j, 4 ≤ j ∨ flags = false → j < 8 ∨ 10 < j → g'.st.getLsbD j = g.st.getLsbD j

section
variable {wr fl : Bool} {home : Nat} {g : GCore}

theorem Keeps.refl : Keeps wr fl home g g := ⟨rfl, fun _ _ => rfl, fun _ _ _ => rfl⟩

theorem Keeps.trans {g1 g2 : GCore} (h1 : Keeps wr fl home g g1) (h2 : Keeps wr fl home g1 g2) : Keeps wr fl home g g2 where
  rest := by rw [h2.rest, h1.rest]
  homes h hh := (h2.homes h hh).trans (h1.homes h hh)
  bits j hj hd := (h2.bits j hj hd).trans (h1.bits j hj hd)

theorem keeps_withFlags (f : Flags) : Keeps wr true home g { g with st := withFlags g.st f } :=
  ⟨rfl, fun _ _ => rfl, fun _ hj _ => getLsbD_withFlags _ f (hj.resolve_right (by decide))⟩

theorem getHome_setHome_other {h k : Nat} (hk : k ≠ h) (v : Word) (g : GCore) : getHome (setHome h v g) k = getHome g k := by
  unfold setHome
  split
  · next h15 => simp_all [getHome]
  · split
    · next h16 => simp_all [getHome]
    · simp only [getHome, sget_sset_other _ _ _ _ _ hk.symm]

theorem keeps_setHome (v : Word) : Keeps true fl home g (setHome home v g) where
  rest := by unfold setHome; split_ifs <;> rfl
  homes k hk := getHome_setHome_other (hk.resolve_right (by decide)) v g
  bits j _ _ := by unfold setHome; split_ifs <;> rfl

theorem keeps_putW (rd : Nat) (v : Word) : Keeps true fl (homeOf g rd) g (putW rd v g) :=
  Keeps.trans (g1 := unload (homeOf g rd) g) ⟨rfl, fun _ _ => rfl, fun _ _ _ => rfl⟩ (keeps_setHome v)

theorem keeps_writeResult (rd : Nat) (r : Word) (f : Flags) : Keeps true true (homeOf g rd) g (writeResult rd r f g) := by
  have hsup : supervisor { g with st := withFlags g.st f } = supervisor g := getLsbD_withFlags _ _ (le_refl 4)
  have hhome : homeOf { g with st := withFlags g.st f } rd = homeOf g rd := by simp only [homeOf, hsup]
  exact (keeps_withFlags f).trans (hhome ▸ keeps_putW rd r)

theorem keeps_loopEnd (b : BitVec 20) (n : Nat) : Keeps wr fl home g (loopEnd g b n).1 := by
  induction n generalizing g with
  | zero => exact Keeps.refl
  | succ n ih =>
    have hcount (v : Word) : Keeps wr fl home g { g with lc := sset (fun _ => 0#32) g.lc n v } :=
      ⟨rfl, fun _ _ => rfl, fun _ _ _ => rfl⟩
    have hdepth (k : GCore) : Keeps wr fl home k { k with st := withDepth k.st n } :=
      ⟨rfl, fun _ _ => rfl, fun _ _ hj => getLsbD_withDepth _ _ hj⟩
    simp only [loopEnd]
    split_ifs
    · exact Keeps.refl
    · exact hcount _
    · exact ((hcount _).trans (hdepth _)).trans ih

end

/-- The effect of an instruction that computes: OVF, DIVZ, or a change of its own core. -/
inductive Computed (core : BitVec 5) (wr fl : Bool) (home : Nat) (s1 : State) : Eff → Prop
  | overflow : Computed core wr fl home s1 (.trap 6 0 none none s1)
  | divZero : Computed core wr fl home s1 (.trap 5 0 none none s1)
  | change {f : GCore → GCore} (hf : Keeps wr fl home (coreOf s1.dev core.toNat) (f (coreOf s1.dev core.toNat))) :
      Computed core wr fl home s1 (retires core f s1)

section
variable {core : BitVec 5} {ext : List (BitVec 10)} {fm : Form} {s s1 t : State} {wr fl : Bool} {home rd : Nat}

theorem computed_alu {ovf : Bool} (f : GCore → Word × Flags) :
    Computed core true true (homeOf (coreOf s1.dev core.toNat) rd) s1 (aluBody core.toNat rd ovf f s1) := by
  simp only [aluBody]
  split
  · exact .overflow
  · exact .change (keeps_writeResult ..)

theorem computed_div {ovf : Bool} {rs : Nat} (f : Word → Word → Flags → Word × Flags) :
    Computed core true true (homeOf (coreOf s1.dev core.toNat) rd) s1 (divBody core.toNat rd ext rs ovf f s1) := by
  simp only [divBody]
  split_ifs
  · exact .divZero
  · exact computed_alu _
  · exact computed_alu _

theorem computed_flags (f : GCore → Word × Flags) : Computed core false true home s1 (flagBody core.toNat f s1) :=
  .change (f := fun g => { g with st := withFlags g.st (f g).2 }) (keeps_withFlags _)

theorem computed_move (f : GCore → Word) :
    Computed core true false (homeOf (coreOf s1.dev core.toNat) rd) s1 (moveBody core.toNat rd f s1) :=
  .change (f := fun g => putW rd (f g) g) (keeps_putW ..)

/-- A retirement counts, and changes its own core. -/
structure Retired (core : BitVec 5) (wr fl : Bool) (home : Nat) (s1 t : State) : Prop where
  mem : t.mem = s1.mem
  pending : t.pending = s1.pending
  dev : t.dev = { s1.dev with regs := t.dev.regs, gc := t.dev.gc }
  regs : ∀ off, off ≠ GCORE_RETIRED core.toNat → off ≠ GCORE_PAIRED core.toNat → getR t.dev off = getR s1.dev off
  others : ∀ k, k ≠ core.toNat → coreOf t.dev k = coreOf s1.dev k
  own : Keeps wr fl home (coreOf s1.dev core.toNat) (coreOf t.dev core.toNat)

theorem getR_countRetired (c : Nat) (paired : Bool) (d : Dev) {off : Nat} (h : off ≠ GCORE_RETIRED c) (hp : off ≠ GCORE_PAIRED c) :
    getR (countRetired c paired d) off = getR d off := by
  cases paired
  · exact getR_setF_other _ _ _ _ h.symm
  · exact (getR_setF_other _ _ _ _ hp.symm).trans (getR_setF_other _ _ _ _ h.symm)

/-- The counts change registers only. -/
theorem countRetired_eq (c : Nat) (paired : Bool) (d : Dev) :
    countRetired c paired d = { d with regs := (countRetired c paired d).regs } := by
  cases paired <;> rfl

theorem coreOf_countRetired (c : Nat) (paired : Bool) (d : Dev) (k : Nat) : coreOf (countRetired c paired d) k = coreOf d k := by
  rw [countRetired_eq]; rfl

theorem retireAt_eq (c : Nat) (a : BitVec 20) (paired : Bool) (head : Option GroupHead) (d : Dev) : retireAt c a paired head d =
    countRetired c paired (setCore d c { (loopEnd (coreOf d c) a (loopDepth (coreOf d c))).1 with
      pc := (loopEnd (coreOf d c) a (loopDepth (coreOf d c))).2, group := if paired then none else head }) := rfl

theorem retired_of_change {f : GCore → GCore} (hstep : stepping s1.dev core.toNat = false)
    (hf : Keeps wr fl home (coreOf s1.dev core.toNat) (f (coreOf s1.dev core.toNat))) :
    Retired core wr fl home s1 (doneBy core ext fm s s1 (retires core f s1)) := by
  rw [retires, doneBy_retire hstep]
  generalize pairs s.dev core.toNat (ext.length + 1) fm = paired
  generalize opens s1.dev core.toNat (instrAt core ext s).toNat (ext.length + 1) fm = head
  have hnext (g : GCore) (pc : BitVec 20) (group : Option GroupHead) : Keeps wr fl home g { g with pc := pc, group := group } :=
    ⟨rfl, fun _ _ => rfl, fun _ _ _ => rfl⟩
  constructor
  case mem | pending => rfl
  case dev => rw [onDev_dev, retireAt_eq, countRetired_eq]; rfl
  case regs => exact fun off h hp => getR_countRetired _ _ _ h hp
  case others =>
    intro k hk
    rw [onDev_dev, retireAt_eq, coreOf_countRetired, coreOf_setCore_other _ _ _ _ hk.symm]
    exact coreOf_setCore_other _ _ _ _ hk.symm
  case own =>
    rw [onDev_dev, coreOf_retireAt, onDev_dev, onCore, coreOf_setCore_same]
    exact (hf.trans (keeps_loopEnd _ _)).trans (hnext _ _ _)

/-- What a computing instruction comes to: OVF, DIVZ, or a retirement. -/
def ComputedTo (core : BitVec 5) (wr fl : Bool) (home : Nat) (s s1 t : State) : Prop :=
  t = enter core.toNat 6 0 none (coreOf s.dev core.toNat).pc s1 ∨ t = enter core.toNat 5 0 none (coreOf s.dev core.toNat).pc s1 ∨
    Retired core wr fl home s1 t

theorem issue_computed {body : BitVec 20 → State → Eff} (hr : Ready core ext fm neverFull s s1)
    (hstep : stepping s1.dev core.toNat = false) (hbody : Computed core wr fl home s1 (body (instrAt core ext s) s1))
    (ht : issue core ext (fun _ _ _ => fm) neverFull body s = .next t) : ComputedTo core wr fl home s s1 t := by
  rw [issue_body hr rfl] at ht
  obtain rfl := Host.Outcome.next.inj ht
  generalize body (instrAt core ext s) s1 = e at hbody
  cases hbody with
  | overflow => exact .inl rfl
  | divZero => exact .inr (.inl rfl)
  | change hf => exact .inr (.inr (retired_of_change hstep hf))

section
variable (hr : Ready core ext fm neverFull s s1) (hstep : stepping s1.dev core.toNat = false)
include hr hstep

theorem move_computes {f : GCore → Word}
    (ht : issue core ext (fun _ _ _ => fm) neverFull (fun _ => moveBody core.toNat rd f) s = .next t) :
    ComputedTo core true false (homeOf (coreOf s1.dev core.toNat) rd) s s1 t := issue_computed hr hstep (computed_move f) ht

theorem flags_computes {f : GCore → Word × Flags}
    (ht : issue core ext (fun _ _ _ => fm) neverFull (fun _ => flagBody core.toNat f) s = .next t) :
    ComputedTo core false true home s s1 t := issue_computed hr hstep (computed_flags f) ht

theorem alu_computes {ovf : Bool} {f : GCore → Word × Flags}
    (ht : issue core ext (fun _ _ _ => fm) neverFull (fun _ => aluBody core.toNat rd ovf f) s = .next t) :
    ComputedTo core true true (homeOf (coreOf s1.dev core.toNat) rd) s s1 t := issue_computed hr hstep (computed_alu f) ht

theorem div_computes {ovf : Bool} {rs : Nat} {f : Word → Word → Flags → Word × Flags}
    (ht : issue core ext (fun _ _ _ => fm) neverFull (fun _ => divBody core.toNat rd ext rs ovf f) s = .next t) :
    ComputedTo core true true (homeOf (coreOf s1.dev core.toNat) rd) s s1 t := issue_computed hr hstep (computed_div f) ht

end

end

/-- The instructions that write no flag: MOV, MOVI and the extensions, CLZ and REV. -/
def leavesFlags : Instr → Bool
  | .mov .. | .movi .. | .sextb .. | .sexth .. | .zextb .. | .zexth .. | .clz .. | .rev .. => true
  | _ => false

/-- The instructions that write flags only: CMP, TST and CMPI. -/
def flagsOnly : Instr → Bool
  | .cmp .. | .tst .. | .cmpi .. => true
  | _ => false

/-- Settles O57: the effect of each instruction on its core keeps what the statement lists, and a retirement keeps the rest. -/
theorem computingInstructionFrame : Obligations.ComputingInstructionFrame := by
  intro s s1 t core ext rd rs imm6 c g F M moves compares computes x hx hr hstep hexec
  have hmoves : ∀ y ∈ moves, leavesFlags y.1 = true := by simp [moves, leavesFlags]
  have hcompares : ∀ y ∈ compares, flagsOnly y.1 = true := by simp [compares, flagsOnly]
  have hto : ComputedTo core (!flagsOnly x.1) (!leavesFlags x.1) (homeOf g rd.toNat) s s1 t := by
    clear hmoves hcompares
    revert x
    simp only [List.forall_mem_append]
    refine ⟨⟨?moves, ?compares⟩, ?computes⟩
    case moves =>
      simp only [moves, List.forall_mem_cons]
      refine ⟨?_, ?_, ?_, ?_, ?_, ?_, ?_, ?_, List.forall_mem_nil _⟩ <;> exact fun hr hexec => move_computes hr hstep hexec
    case compares =>
      simp only [compares, List.forall_mem_cons]
      refine ⟨?_, ?_, ?_, List.forall_mem_nil _⟩ <;> exact fun hr hexec => flags_computes hr hstep hexec
    case computes =>
      simp only [computes, List.forall_mem_cons]
      refine ⟨?_, ?_, ?_, ?_, ?_, ?_, ?_, ?_, ?_, ?_, ?_, ?div, ?divu, ?_, ?_, ?_, ?_, List.forall_mem_nil _⟩
      case div | divu => exact fun hr hexec => div_computes hr hstep hexec
      all_goals exact fun hr hexec => alu_computes hr hstep hexec
  refine hto.imp_right (Or.imp_right fun h => ?_)
  have hk := h.own
  refine ⟨h.mem, h.pending, h.dev, h.regs, h.others, fun k hk' => hk.homes k (hk'.imp_right fun hx => ?compare), ?_, ?_, ?_, ?_, ?_, ?_,
    ?_, ?_, ?_, ?_, ?_, ?_, ?_, ?_, fun j hj => hk.bits j (hj.imp_right fun hx => ?move)⟩
  case compare => rw [hcompares x hx]; rfl
  case move => rw [hmoves x hx]; rfl
  all_goals rw [hk.rest]

/-! Exception entry (R348). -/

/-- Of state `s` only core `c` has changed, to `g`. -/
structure CoreChanged (c : Nat) (s : State) (g : GCore) (t : State) : Prop where
  mem : t.mem = s.mem
  dev : t.dev = { s.dev with gc := t.dev.gc }
  others : ∀ k, k ≠ c → coreOf t.dev k = coreOf s.dev k
  own : coreOf t.dev c = g

section
variable {c : Nat} {s t : State} {g : GCore}

theorem CoreChanged.refl : CoreChanged c s (coreOf s.dev c) s := ⟨rfl, rfl, fun _ _ => rfl, rfl⟩

theorem CoreChanged.set (h : CoreChanged c s g t) (g' : GCore) : CoreChanged c s g' (onDev (fun d => setCore d c g') t) where
  mem := h.mem
  dev := by rw [onDev_dev, h.dev]; rfl
  others k hk := (coreOf_setCore_other _ _ _ _ hk.symm).trans (h.others k hk)
  own := coreOf_setCore_same _ _ _

theorem CoreChanged.of_eq (h : CoreChanged c s g t) {f : Dev → Dev} {g' : GCore} (hf : f t.dev = setCore t.dev c g') :
    CoreChanged c s g' (onDev f t) := by
  have hset := h.set g'
  rwa [onDev, ← hf] at hset

theorem CoreChanged.step (h : CoreChanged c s g t) (f : GCore → GCore) : CoreChanged c s (f g) (onDev (onCore c f) t) := by
  have hset := h.set (f g)
  rwa [← h.own] at hset ⊢

theorem CoreChanged.regs (h : CoreChanged c s g t) : t.dev.regs = s.dev.regs := by
  rw [h.dev]

/-- A core with one more store in its buffer. -/
def pushStore (e : SBuf) (g : GCore) : GCore := { g with sbuf := g.sbuf ++ [e] }

/-- A store goes into a store buffer that has room (R345). -/
theorem CoreChanged.bufStore (h : CoreChanged c s g t) (ta : Nat) (bs : List Byte) (hroom : g.sbuf.length < 8) :
    CoreChanged c s (pushStore ⟨ta, bs⟩ g) (bufStore c ta bs t) := by
  have heq : Machine.bufStore c ta bs t = onDev (onCore c (pushStore ⟨ta, bs⟩)) t := by
    simp only [Machine.bufStore, h.own, Nat.not_le.mpr hroom, if_false]; rfl
  exact heq ▸ h.step _

/-- Errors of program words are no state of a core. -/
theorem CoreChanged.progBad (h : CoreChanged c s g t) (a : Nat) : progBad t.dev c a = progBad s.dev c a := by
  rw [h.dev]; rfl

/-- The core after exception entry: the frame in the store buffer, CAUSE and FADDR, and supervisor mode at the vector. -/
def enteredCore (c vector detail : Nat) (addr : Option Word) (ret : BitVec 20) (g : GCore) : GCore :=
  { g with
    sbuf := g.sbuf ++ [⟨localBase c + g.ssp.toNat - 4, bytesOf 4 g.st.toNat⟩, ⟨localBase c + g.ssp.toNat - 8, bytesOf 4 ret.toNat⟩]
    ssp := g.ssp - 8
    cause := BitVec.ofNat 32 (vector + 16 * (detail % 16))
    faddr := addr.getD g.faddr
    resv := none
    st := withDepth ((g.st ||| 0x10#32) &&& ~~~0x20#32) 0
    nmi := if vector == 1 then some (g.ssp - 8) else g.nmi
    vector := vector
    pc := BitVec.ofNat 20 (8 * vector)
    waiting := false
    group := none }

theorem deliverAll_of_none (h : g.loads = []) : deliverAll g = g := by
  cases g; cases h; rfl

/-- Exception entry on a good stack, with room for the frame and a good vector (R348). -/
theorem enter_changes {vector detail : Nat} {addr : Option Word} {ret : BitVec 20} (hok : stackOk (coreOf s.dev c).ssp = true)
    (hroom : (coreOf s.dev c).sbuf.length ≤ 6) (hloads : (coreOf s.dev c).loads = [])
    (hgood : progBad s.dev c (8 * vector) = false) :
    CoreChanged c s (enteredCore c vector detail addr ret (coreOf s.dev c)) (enter c vector detail addr ret s) := by
  have h1 := CoreChanged.refl.step (c := c) (s := s) deliverAll
  rw [deliverAll_of_none hloads] at h1
  have h2 := (h1.bufStore (localBase c + (coreOf s.dev c).ssp.toNat - 4) (bytesOf 4 (coreOf s.dev c).st.toNat) (by omega)).bufStore
    (localBase c + (coreOf s.dev c).ssp.toNat - 8) (bytesOf 4 ret.toNat)
    (by simp only [pushStore, List.length_append, List.length_singleton]; omega)
  simp only [enter, h1.own, hok, Bool.not_true, Bool.false_eq_true, if_false]
  generalize bufStore c _ _ (bufStore c _ _ _) = t at h2
  have hbad (g' : GCore) : progBad (setCore t.dev c g') c (8 * vector) = false := ((h2.set g').progBad _).trans hgood
  refine h2.of_eq ?_
  simp only [h2.own, hbad, Bool.false_eq_true, if_false]
  simp only [pushStore, enteredCore, List.append_assoc, List.singleton_append]

end

/-- Setting S and clearing IE keeps the other bits of ST. -/
theorem getLsbD_or_and_not {st : Word} {j : Nat} (h4 : j ≠ 4) (h5 : j ≠ 5) :
    ((st ||| 0x10#32) &&& ~~~0x20#32).getLsbD j = st.getLsbD j := by
  have hbit (k : Nat) (hk : j ≠ k) : (BitVec.twoPow 32 k).getLsbD j = false := by simp [BitVec.getLsbD_twoPow, hk.symm]
  have hs : (0x10#32).getLsbD j = false := hbit 4 h4
  have hi : (0x20#32).getLsbD j = false := hbit 5 h5
  rw [BitVec.getLsbD_and, BitVec.getLsbD_or, BitVec.getLsbD_not, hs, hi]
  by_cases h : j < 32
  · simp [h]
  · simp [h, BitVec.getLsbD_of_ge _ _ (Nat.le_of_not_lt h)]

/-- Settles O58: the exception entry, read field by field. -/
theorem trapEntersVectorSeven : Obligations.TrapEntersVectorSeven := by
  intro s s1 core n c g hr hok hroom hloads hgood
  have hexec : exec (.trap core [] n) s = .next (enter c 7 n.toNat none (instrAt core [] s + 1) s1) :=
    issue_body (body := fun a s => .trap 7 n.toNat none (some (a + 1)) s) hr rfl
  rw [show instrAt core [] s = (coreOf s.dev c).pc from BitVec.add_zero _] at hexec
  have h := enter_changes (vector := 7) (detail := n.toNat) (addr := none) (ret := (coreOf s.dev c).pc + 1) hok hroom hloads hgood
  refine ⟨_, hexec, h.mem, h.others, h.regs, ?_⟩
  rw [h.own]
  have hst {j : Nat} (hj : j < 8 ∨ 10 < j) : (enteredCore c 7 n.toNat none ((coreOf s.dev c).pc + 1) g).st.getLsbD j =
      ((g.st ||| 0x10#32) &&& ~~~0x20#32).getLsbD j := getLsbD_withDepth _ 0 hj
  refine ⟨rfl, rfl, rfl, ?cause, rfl, rfl, ?supervisor, ?interrupts, loopDepth_withDepth _ (Nat.zero_le 4) g,
    fun j h4 h5 hj => ?bits, rfl, rfl, rfl⟩
  case cause => exact congrArg (fun k => BitVec.ofNat 32 (7 + 16 * k)) (Nat.mod_eq_of_lt n.isLt)
  case supervisor => rw [hst (by decide)]; simp
  case interrupts => rw [hst (by decide)]; simp
  case bits => rw [hst hj, getLsbD_or_and_not h4 h5]

end Sys2Proof.Machine
end

section
/-! PROOF. The interrupt controller and the pins: what a claim selects, and their commands (R352-R358, R368-R374). -/

namespace Sys2Proof.Machine

open Sys2Proof.Safety

/-! The source a claim selects (R356). -/

/-- Source `x` is eligible, of the highest priority below `n`, and of those the lowest. -/
structure Leads (d : Dev) (c n x : Nat) : Prop where
  pos : 1 ≤ x
  lt : x < n
  isEligible : eligible d c x = true
  best : ∀ y, 1 ≤ y → y < n → eligible d c y = true →
    getF d (ICU_SRC_PRIO y) < getF d (ICU_SRC_PRIO x) ∨ (getF d (ICU_SRC_PRIO y) = getF d (ICU_SRC_PRIO x) ∧ x ≤ y)

/-- What is selected among the sources below `n`: none when none is eligible. -/
inductive SelectedBelow (d : Dev) (c n : Nat) : Option Nat → Prop
  | none (h : ∀ y, 1 ≤ y → y < n → eligible d c y = false) : SelectedBelow d c n none
  | some {x : Nat} (h : Leads d c n x) : SelectedBelow d c n (some x)

/-- What one more source makes of the selection. -/
def selectNext (d : Dev) (c : Nat) (b : Option Nat) (s : Nat) : Option Nat :=
  if s != 0 && eligible d c s then
    match b with
    | none => some s
    | some x => if getF d (ICU_SRC_PRIO x) < getF d (ICU_SRC_PRIO s) then some s else b
  else b

theorem bestSource_eq (d : Dev) (c : Nat) : bestSource d c = (List.range 512).foldl (selectNext d c) none := rfl

section
variable {d : Dev} {c n : Nat}

/-- A source that is not eligible does not count. -/
theorem SelectedBelow.skip {b : Option Nat} (h : SelectedBelow d c n b) (hn : 1 ≤ n → eligible d c n = false) :
    SelectedBelow d c (n + 1) b := by
  have hbelow {y : Nat} (h1 : 1 ≤ y) (hy : y < n + 1) : y < n ∨ eligible d c y = false :=
    (Nat.lt_succ_iff_lt_or_eq.mp hy).imp_right fun heq : y = n => heq.symm ▸ hn (heq ▸ h1)
  cases h with
  | none h => exact .none fun y h1 hy => (hbelow h1 hy).elim (h y h1) id
  | some h =>
    refine .some ⟨h.pos, Nat.lt_succ_of_lt h.lt, h.isEligible,
      fun y h1 hy he => (hbelow h1 hy).elim (fun hlt => h.best y h1 hlt he) fun hf => ?_⟩
    exact absurd (hf.symm.trans he) Bool.false_ne_true

/-- One of a priority above all before it is selected. -/
theorem Leads.of_above (h1 : 1 ≤ n) (hn : eligible d c n = true)
    (hbelow : ∀ y, 1 ≤ y → y < n → eligible d c y = true → getF d (ICU_SRC_PRIO y) < getF d (ICU_SRC_PRIO n)) :
    Leads d c (n + 1) n := by
  refine ⟨h1, n.lt_succ_self, hn, fun y hy1 hy he => ?_⟩
  rcases Nat.lt_succ_iff_lt_or_eq.mp hy with hlt | rfl
  · exact .inl (hbelow y hy1 hlt he)
  · exact .inr ⟨rfl, le_rfl⟩

/-- One of a priority not above the leader's leaves it leading. -/
theorem Leads.keep {x : Nat} (h : Leads d c n x) (hp : ¬ getF d (ICU_SRC_PRIO x) < getF d (ICU_SRC_PRIO n)) :
    Leads d c (n + 1) x := by
  have hx := h.lt
  refine ⟨h.pos, by omega, h.isEligible, fun y hy1 hy he => ?_⟩
  rcases Nat.lt_succ_iff_lt_or_eq.mp hy with hlt | rfl
  · exact h.best y hy1 hlt he
  · omega

theorem SelectedBelow.next {b : Option Nat} (h : SelectedBelow d c n b) : SelectedBelow d c (n + 1) (selectNext d c b n) := by
  cases hsel : n != 0 && eligible d c n with
  | false =>
    simp only [selectNext, hsel, Bool.false_eq_true, if_false]
    exact h.skip fun h1 => (Bool.and_eq_false_iff.mp hsel).resolve_left (by simp; omega)
  | true =>
    obtain ⟨h0, he⟩ := Bool.and_eq_true_iff.mp hsel
    have h1 : 1 ≤ n := Nat.one_le_iff_ne_zero.mpr (bne_iff_ne.mp h0)
    simp only [selectNext, hsel, if_true]
    cases h with
    | none h => exact .some (.of_above h1 he fun y hy1 hy hey => absurd ((h y hy1 hy).symm.trans hey) Bool.false_ne_true)
    | @some x h =>
      by_cases hp : getF d (ICU_SRC_PRIO x) < getF d (ICU_SRC_PRIO n)
      · simp only [hp, if_true]
        exact .some (.of_above h1 he fun y hy1 hy hey => (h.best y hy1 hy hey).elim (fun hlt => hlt.trans hp) fun heq => heq.1 ▸ hp)
      · simp only [hp, if_false]
        exact .some (h.keep hp)

theorem selectedBelow_foldl (d : Dev) (c n : Nat) : SelectedBelow d c n ((List.range n).foldl (selectNext d c) none) := by
  induction n with
  | zero => exact .none fun y _ hy => absurd hy y.not_lt_zero
  | succ n ih => rw [List.range_succ, List.foldl_append]; exact ih.next

theorem selected_bestSource (d : Dev) (c : Nat) : SelectedBelow d c 512 (bestSource d c) := by
  rw [bestSource_eq]; exact selectedBelow_foldl d c 512

variable {x : Nat}

theorem claim_none (h : bestSource d c = none) (nse : Bool) : claim nse c d = { d with busRead := 0x80000000#32 } := by
  unfold claim claimWord; rw [h]

theorem claim_quiet (h : bestSource d c = some x) :
    claim true c d = { d with busRead := BitVec.ofNat 32 (x + getF d (ICU_SRC_PRIO x) * 2 ^ 12) } := by
  unfold claim claimWord; rw [h]; rfl

theorem claim_some (h : bestSource d c = some x) : claim false c d = { d with
    busRead := BitVec.ofNat 32 (x + getF d (ICU_SRC_PRIO x) * 2 ^ 12)
    icu := { pend := sset (fun _ => false) d.icu.pend x false, active := d.icu.active ++ [(x, c, getF d (ICU_SRC_PRIO x))] } } := by
  unfold claim claimWord; rw [h]; rfl

end

/-- Settles O55: the fold over the sources keeps the selection among those before. -/
theorem claimSelectsHighestPriority : Obligations.ClaimSelectsHighestPriority := by
  intro s a c hw prio
  cases hbest : bestSource s.dev c.toNat with
  | none =>
    cases hbest ▸ selected_bestSource s.dev c.toNat with
    | none h => exact .inr ⟨h, fun nse => next_whenWritable_onDev hw (claim_none hbest nse)⟩
  | some x =>
    cases hbest ▸ selected_bestSource s.dev c.toNat with
    | some h =>
    refine .inl ⟨x, h.pos, h.lt, h.isEligible, h.best, next_whenWritable_onDev hw (claim_quiet hbest), _,
      next_whenWritable_onDev hw (claim_some hbest), rfl, rfl, rfl, fun y => ?_, rfl⟩
    refine (sget_sset (fun _ => false) s.dev.icu.pend x false y).trans ?_
    by_cases hy : x = y
    · simp [hy]
    · simp [hy, Ne.symm hy]

/-- Settles O7: each is a register write that has its effect. -/
theorem interruptCommandsComplete : Obligations.InterruptCommandsComplete := by
  intro s a hw
  exact ⟨fun c x h => next_whenWritable_onDev hw (claim_some h), fun c h => next_whenWritable_onDev hw (claim_none h false),
    fun c v => next_whenWritable_onDev hw rfl, fun v => next_whenWritable_onDev hw rfl, fun x v => next_whenWritable_onDev hw rfl,
    fun v => next_whenWritable_onDev hw rfl⟩

/-! A pin's input that has held a new value (R354, R371). -/

section
variable {d : Dev} {n : Nat} {level : Bool}

/-- The edges that SENSE selects (R354). -/
theorem edgeSelected_iff (k : Nat) : (k == 2 || (k == 0 && level) || (k == 1 && !level)) = true ↔
    (k = 2 ∨ (k = 0 ∧ level = true) ∨ (k = 1 ∧ level = false)) := by
  simp [or_assoc]

/-- A new value of a pin that its own pad does not hold passes. -/
theorem filterPass_eq (hgood : bankGood d n = true) (hold : sget (fun _ => false) d.pins.ext n = !level)
    (hpad : (padOut d n).enable = false) : filterPass n level d =
      let d' := { d with pins := { d.pins with ext := sset (fun _ => false) d.pins.ext n level } }
      let k := senseOf d (160 + n)
      if k == 2 || (k == 0 && level) || (k == 1 && !level) then irqEvent (160 + n) d' else d' := by
  have hcond : (!bankGood d n || sget (fun _ => false) d.pins.ext n == level ||
      ((padOut d n).enable && (padOut d n).value != level)) = false := by
    rw [hgood, hold, hpad]; cases level <;> rfl
  exact if_neg (Bool.eq_false_iff.mp hcond)

end

/-- Settles O6: each is the model's operation, and the pin's change one of two by its SENSE. -/
theorem pinCommandsComplete : Obligations.PinCommandsComplete := by
  intro s
  refine ⟨fun a n v hw => next_whenWritable_onDev hw rfl,
    fun a bankB v hw => ⟨next_whenWritable_onDev hw rfl, next_whenWritable_onDev hw rfl⟩,
    fun p ha => next_whenAlive_onDev ha rfl, fun n level ha hgood hold hpad => ?_⟩
  have hpass := filterPass_eq hgood hold hpad
  exact ⟨fun hk => next_whenAlive_onDev ha (hpass.trans (if_pos ((edgeSelected_iff _).mpr hk))),
    fun hk => next_whenAlive_onDev ha (hpass.trans (if_neg (mt (edgeSelected_iff _).mp hk)))⟩

end Sys2Proof.Machine
end

section
/-! PROOF. Timers, the alarm and the watchdogs (R360-R366). -/

namespace Sys2Proof.Machine

open Sys2Proof.Safety

/-- A timer that no gate holds and no chain clocks advances (R360, R362). -/
theorem countTick_eq {d : Dev} {n : Nat} (hgate : slaveOf d n ≠ 1) (hchain : slaveOf d n ≠ 3) :
    countTick n d = spread n (advance n d) := by
  simp [countTick, hgate, hchain]

/-- Settles O4: each is the model's operation under the conditions of its rule. -/
theorem timerCommandsComplete : Obligations.TimerCommandsComplete := by
  intro s
  refine ⟨fun n ha hgate hchain => ?tick, fun a n hw => ?latch, fun n k edge ha hcap => ?capture, fun a n k hw => ⟨?quiet, ?read⟩,
    fun a v hw => ?arm, fun ha harmed hdue => ?alarm⟩
  case tick => exact next_whenAlive_onDev ha (countTick_eq hgate hchain)
  case latch => exact next_whenWritable_onDev hw rfl
  case capture => exact next_whenAlive_onDev ha (if_pos hcap)
  case quiet => exact next_whenWritable_onDev hw rfl
  case read => exact next_whenWritable_onDev hw rfl
  case arm => exact next_whenWritable_onDev hw rfl
  case alarm => exact next_whenAlive_onDev ha (if_pos (by simp only [harmed, hdue, decide_true, Bool.and_self]))

/-- Settles O5: the key decides a kick, and a watchdog that counts warns or expires. -/
theorem watchdogCommandsComplete : Obligations.WatchdogCommandsComplete := by
  intro s c
  refine ⟨fun a v hw hkey => ?kick, fun a v hw hkey => ?wrong, fun ha hcounts h0 hle => ?warning, fun ha hcounts => ?expiry⟩
  case kick =>
    have hkick : writeKick c.toNat v s = onDev (reload c.toNat) s := if_pos (beq_iff_eq.mpr hkey)
    exact congrArg Host.Outcome.next ((whenWritable_of_writable hw _).trans (congrArg settle hkick))
  case wrong =>
    have hkick : writeKick c.toNat v s = expire c.toNat s := if_neg (mt beq_iff_eq.mp hkey)
    exact congrArg Host.Outcome.next ((whenWritable_of_writable hw _).trans (congrArg settle hkick))
  case warning =>
    refine next_whenAlive_onDev ha (if_pos ?_)
    simp only [hcounts, hle, decide_true, Bool.and_true, Bool.true_and, bne_iff_ne, ne_eq, h0, not_false_eq_true]
  case expiry => exact congrArg Host.Outcome.next ((whenAlive_of_alive ha _).trans (if_pos hcounts))

end Sys2Proof.Machine
end

section
/-! PROOF. Parking, the mailboxes, DMA and Float (R379-R395). -/

namespace Sys2Proof.Machine

open Sys2Proof.Safety

section
variable {c : Nat} {d : Dev}

/-- The domain of a core that waits, with nothing left to do, parks (R389). -/
theorem parkCore_eq (hpark : flag d (MBX_CTL_PARK c) = true) (hup : parked d c = false) (hwait : coreState d c = 2)
    (hstores : (coreOf d c).sbuf = []) (hloads : (coreOf d c).loads = []) (hint : presents d c = false)
    (hnmi : c = 0 → d.cn.nmi = false) :
    parkCore c d = setFlag (setCore d c { coreOf d c with wake := false, group := none }) (MBX_CTL_PARKED c) true := by
  have hquiet : (c == 0 && d.cn.nmi) = false := by
    by_cases h0 : c = 0
    · simp [hnmi h0]
    · simp [h0]
  refine if_pos ?_
  simp only [hpark, hup, hwait, hstores, hloads, hint, hquiet, List.isEmpty_nil, beq_self_eq_true, Bool.not_false, Bool.true_or,
    Bool.and_self]

/-- A parked domain powers up for an event or an interrupt (R389). -/
theorem unparkCore_eq (hparked : parked d c = true) (hwake : (coreOf d c).wake = true ∨ presents d c = true) :
    unparkCore c d = setFlag (setCore d c { coreOf d c with wake := false }) (MBX_CTL_PARKED c) false := by
  refine if_pos ?_
  rcases hwake with h | h <;> simp [hparked, h]

/-- A GO on a channel that is not FULL (R387). -/
theorem mbGo_eq {k : Nat} {v : Word} (hgo : v.getLsbD 0 = true) (hfull : mbFull d c k = false) :
    mbGo c k v d =
      let d := wakeCore c { d with mbxFull := sset (fun _ => false) d.mbxFull (36 * c + k) true }
      if flag d (MBX_CTL_WAKE_RUN c) && !flag d (GCORE_CTL_RUN c) then runCore c d else d :=
  if_neg (by simp [hgo, hfull])

end

/-- Settles O10: each is the model's operation under the conditions of its rule. -/
theorem mailboxAndParkingCommandsComplete : Obligations.MailboxAndParkingCommandsComplete := by
  intro s c
  refine ⟨fun hg hpark hup hwait hstores hloads hint hnmi => ?park, fun hg hparked hwake => ?unpark, fun a v k hw hk hgo hfull => ?go,
    fun a v hw hk => ?release⟩
  case park => exact next_whenGranted_onDev hg (parkCore_eq hpark hup hwait hstores hloads hint hnmi)
  case unpark => exact next_whenGranted_onDev hg (unparkCore_eq hparked hwake)
  case go =>
    refine next_whenWritable_onDev hw ?_
    simp only [hk]
    exact mbGo_eq hgo hfull
  case release => exact next_whenWritable_onDev hw (if_pos hk)

theorem next_whenServed {a : Agent} {s : State} (hw : writable s.dev a = true) (hrun : flag s.dev DBG_HALT_HALTED = false)
    (f : State → State) : (.next (whenServed a f s) : Host.Outcome State Fault Refusal) = .next (f s) :=
  congrArg Host.Outcome.next (whenServed_of_running hw hrun f)

section
variable {s : State} {d : Dev} {n : Nat}

/-- A START that passes its checks (R380). -/
theorem dmaStart_good (hidle : flag d (DMA_STAT_BUSY n) = false) (hrun : engineStopped d = false) (hgood : dmaParamBad d n = false) :
    dmaStart n d = if getF d (DMA_LEN_LEN n) == 0 then dmaEnd n 0 0 d else setFlag d (DMA_STAT_BUSY n) true := by
  simp only [dmaStart, hidle, hrun, hgood, Bool.false_eq_true, if_false]

/-- A busy channel moves all its bytes (R384). -/
theorem dmaFinish_busy (hbusy : flag s.dev (DMA_STAT_BUSY n) = true) (hrun : engineStopped s.dev = false) :
    dmaFinish n s = dmaMove n (getF s.dev (DMA_LEN_LEN n)) 0 s := by
  simp only [dmaFinish, hbusy, hrun, Bool.not_true, Bool.false_eq_true, if_false]

/-- A busy channel stops at the burst boundary (R384). -/
theorem dmaStopAt_busy {moved : Nat} (hbusy : flag s.dev (DMA_STAT_BUSY n) = true) (hrun : engineStopped s.dev = false)
    (hmoved : moved < getF s.dev (DMA_LEN_LEN n)) : dmaStopAt n moved s = dmaMove n (moved / 64 * 64) 5 s := by
  simp only [dmaStopAt, hbusy, hrun, Nat.not_le.mpr hmoved, Bool.not_true, Bool.false_eq_true, if_false, Bool.false_or, decide_false]

/-- An operation that passes every check makes Float BUSY (R392). -/
theorem startOp_good {op : Nat} {v : Word} (hv : v.getLsbD 0 = true) (hop : getF d FLOAT_OP_OP = op)
    (hidle : flag d FLOAT_STAT_BUSY = false) (hrun : engineStopped d = false) (hgood : floatCheck (floatOp d) = 0) :
    startOp op v d = setFlag d FLOAT_STAT_BUSY true := by
  simp only [startOp, hv, hop, beq_self_eq_true, Bool.and_self, if_true, floatStart, hidle, hrun, hgood, Bool.false_eq_true, if_false,
    bne_self_eq_false]

end

/-- Settles O13: the checks of a START, and a busy channel of running engines. -/
theorem dmaCommandsComplete : Obligations.DmaCommandsComplete := by
  intro s ch
  refine ⟨fun a v hw hhalt hv hidle hrun hgood => ?start, fun hg hbusy hrun => ?complete,
    fun a v moved hw hhalt hv hbusy hrun hlt => ?stop⟩
  case start =>
    have hstart := dmaStart_good hidle hrun hgood
    have hserved := (next_whenServed hw hhalt (onDev fun d => if v.getLsbD 0 then dmaStart ch.toNat d else d)).trans
      (congrArg (Host.Outcome.next ∘ setDev s) ((if_pos hv).trans hstart))
    exact ⟨fun hlen => hserved.trans (congrArg (Host.Outcome.next ∘ setDev s) (if_neg (by simpa using hlen))),
      fun hlen => hserved.trans (congrArg (Host.Outcome.next ∘ setDev s) (if_pos (by simpa using hlen)))⟩
  case complete => exact (next_whenGranted hg _).trans (congrArg (Host.Outcome.next ∘ settle) (dmaFinish_busy hbusy hrun))
  case stop =>
    have hstop := congrArg settle (dmaStopAt_busy hbusy hrun hlt)
    exact (next_whenServed hw hhalt _).trans (congrArg Host.Outcome.next ((if_pos hv).trans hstop))

/-- Settles O14: the checks of a START, and a busy engine. -/
theorem floatCommandsComplete : Obligations.FloatCommandsComplete := by
  intro s
  refine ⟨fun a v hw hhalt hv hidle hrun hgood => ?start, fun a v hw hhalt hv hbusy => ?abort, fun hg hbusy hrun => ?complete⟩
  case start =>
    have hstart {op : Nat} (hop : getF s.dev FLOAT_OP_OP = op) : Host.Outcome.next (whenServed a (onDev (startOp op v)) s) =
        (.next (setDev s (setFlag s.dev FLOAT_STAT_BUSY true)) : Host.Outcome State Fault Refusal) :=
      (next_whenServed hw hhalt _).trans (congrArg (Host.Outcome.next ∘ setDev s) (startOp_good hv hop hidle hrun hgood))
    exact ⟨hstart, hstart, hstart⟩
  case abort =>
    exact (next_whenServed hw hhalt _).trans (congrArg Host.Outcome.next (if_pos (by simp [hv, hbusy])))
  case complete =>
    refine (next_whenGranted hg _).trans (congrArg Host.Outcome.next ?_)
    simp only [hbusy, hrun, Bool.not_true, Bool.false_eq_true, if_false]

end Sys2Proof.Machine
end

section
/-! PROOF. The guide cores from outside: their memory events, entries, control register and program port (R337-R351, R441). -/

namespace Sys2Proof.Machine

open Sys2Proof.Safety

section
variable {s s1 : State} {c : Nat}

theorem loadReturn_oldest {d : Dev} {l : PendLoad} {r : List PendLoad} (h : (coreOf d c).loads = l :: r) :
    loadReturn c d = setCore d c (landLoad l { coreOf d c with loads := r }) := by
  simp only [loadReturn, onCore, h]

/-- The fill of a missing line that HBM gives (R337, R339). -/
theorem fillProgram_missing {line : Nat} {bs : List Byte} (hexec : executing s.dev c = true) (hdet : detMode s.dev c = false)
    (hline : 0x800 ≤ line) (hvalid : flag s.dev (GCORE_PBASE_VALID c) = true) (hin : programAddr s.dev c (32 * line) < hbmSize)
    (hmiss : sget (fun _ => []) (coreOf s.dev c).ic line = [])
    (hread : hbmRead (programAddr s.dev c (32 * line)) 64 s = (.data bs, s1)) :
    fillProgram c line s = onDev (fun d => cacheProgram c line bs (countF d (GCORE_MISS_IMISS c) 1)) s1 := by
  have hcond : (!executing s.dev c || detMode s.dev c || line < 0x800 || !flag s.dev (GCORE_PBASE_VALID c) ||
      hbmSize ≤ programAddr s.dev c (32 * line) || !(sget (fun _ => []) (coreOf s.dev c).ic line).isEmpty) = false := by
    simp only [hexec, hdet, hvalid, hmiss, Nat.not_lt.mpr hline, Nat.not_le.mpr hin, decide_false, Bool.not_true, Bool.or_self,
      List.isEmpty_nil]
  simp only [fillProgram, hcond, hread, Bool.false_eq_true, if_false]

/-- An interrupt enters vector 9 (R347). -/
theorem takeExt_due (hwait : endWait c s = s) (hexec : executing s.dev c = true) (hext : extDue s.dev c = true)
    (hnmi : nmiDue s.dev c = false) : takeExt c s = enter c 9 0 none (coreOf s.dev c).pc s := by
  simp only [takeExt, hwait, hexec, hext, hnmi, Bool.not_false, Bool.and_self, if_true]

/-- An NMI enters vector 1 (R347). -/
theorem takeNmi_due (hwait : endWait 0 s = s) (hexec : executing s.dev 0 = true) (hnmi : nmiDue s.dev 0 = true) :
    takeNmi s = enterNmi 0 s := by
  simp only [takeNmi, hwait, hexec, hnmi, Bool.and_self, if_true]

theorem writeDbgCtl_request {v : Word} (hres : v.getLsbD 2 = false) (hreq : v.getLsbD 3 = true) :
    writeDbgCtl c v s = debugRequest c (setDev s (plainWrite (DBG_CORE_CTL c) v s.dev)) := by
  simp only [writeDbgCtl, hres, hreq, Bool.false_eq_true, if_false, if_true]
  rfl

theorem writeDbgCtl_resume {v : Word} (hres : v.getLsbD 2 = true) (hreq : v.getLsbD 3 = false) :
    writeDbgCtl c v s = setDev s (resumeCore c (plainWrite (DBG_CORE_CTL c) v s.dev)) := by
  simp only [writeDbgCtl, hres, hreq, Bool.false_eq_true, if_false, if_true]
  rfl

end

/-- Settles O11: the oldest entry goes where its address points. -/
theorem guideMemoryEventsComplete : Obligations.GuideMemoryEventsComplete := by
  intro s c hg
  refine ⟨fun e r hb => ⟨fun hhbm => ?hbm, fun n hsram => ?sram⟩, fun l r hl => ?load, ?fill⟩
  case hbm =>
    have hdrain := drainOne_oldest hb
    rw [hhbm] at hdrain
    exact (next_whenGranted hg _).trans (congrArg Host.Outcome.next hdrain)
  case sram =>
    have hdrain := drainOne_oldest hb
    rw [hsram] at hdrain
    exact (next_whenGranted hg _).trans (congrArg Host.Outcome.next hdrain)
  case load => exact next_whenGranted_onDev hg (loadReturn_oldest hl)
  case fill =>
    intro line bs s1 d ha hexec hdet hline hvalid hin hmiss hread
    exact (next_whenGranted hg _).trans
      (congrArg Host.Outcome.next (fillProgram_missing hexec hdet hline hvalid hin hmiss hread))

/-- Settles O12: what is due, or the bits written, decide the entry. -/
theorem coreEntryEventsComplete : Obligations.CoreEntryEventsComplete := by
  intro s c
  refine ⟨fun hg hwait hexec hext hnmi => ?ext, fun hg hwait hexec hnmi => ?nmi, fun a v hw hres hreq => ?request,
    fun a v hw hres hreq => ?resume⟩
  case ext => exact (next_whenGranted hg _).trans (congrArg Host.Outcome.next (takeExt_due hwait hexec hext hnmi))
  case nmi => exact (next_whenGranted hg _).trans (congrArg Host.Outcome.next (takeNmi_due hwait hexec hnmi))
  case request => exact congrArg Host.Outcome.next ((whenWritable_of_writable hw _).trans (writeDbgCtl_request hres hreq))
  case resume => exact congrArg Host.Outcome.next ((whenWritable_of_writable hw _).trans (writeDbgCtl_resume hres hreq))

end Sys2Proof.Machine
end

section
/-! PROOF. GCORE_CTL and GCORE_PDATA: what a write leaves of a guide core and of the program port (R342, R344, R351). -/

namespace Sys2Proof.Machine

open Sys2Proof.Safety

/-! A plain write of GCORE_CTL (R344). -/

theorem flag_eq_getLsbD (d : Dev) (off j : Nat) : flag d ⟨off, j, j⟩ = (getR d off).getLsbD j := (getLsbD_eq_fieldOf _ _).symm

/-- The writable bits of GCORE_CTL are RUN, DET, SCREED_NC and HBM_NC. -/
theorem regDesc?_gcoreCtl : ∀ c : BitVec 5, (regDesc? (GCORE_CTL c.toNat)).map (fun r => (r.rw ||| r.sh, r.w1c)) = some (0x1D, 0) := by
  decide

theorem getR_plainWrite_gcoreCtl (c : BitVec 5) (v : Word) (d : Dev) : getR (plainWrite (GCORE_CTL c.toNat) v d) (GCORE_CTL c.toNat) =
    (getR d (GCORE_CTL c.toNat) &&& ~~~0x1D#32 ||| v &&& 0x1D#32) := by
  obtain ⟨r, hr, hmask⟩ := Option.map_eq_some_iff.mp (regDesc?_gcoreCtl c)
  obtain ⟨hrw, hw1c⟩ := Prod.mk.inj hmask
  have hclear : ~~~(v &&& BitVec.ofNat 32 0) = BitVec.allOnes 32 := by simp
  simp only [plainWrite, hr, hrw, hw1c, getR_setR_same, hclear, BitVec.and_allOnes]

theorem flag_plainWrite_run (c : BitVec 5) (v : Word) (d : Dev) :
    flag (plainWrite (GCORE_CTL c.toNat) v d) (GCORE_CTL_RUN c.toNat) = v.getLsbD 0 := by
  rw [flag_eq_getLsbD, getR_plainWrite_gcoreCtl]; simp

theorem flag_plainWrite_det (c : BitVec 5) (v : Word) (d : Dev) :
    flag (plainWrite (GCORE_CTL c.toNat) v d) (GCORE_CTL_DET c.toNat) = v.getLsbD 2 := by
  rw [flag_eq_getLsbD, getR_plainWrite_gcoreCtl]; simp

theorem plainWrite_eq (off : Nat) (v : Word) (d : Dev) : plainWrite off v d = { d with regs := (plainWrite off v d).regs } := by
  unfold plainWrite; split <;> rfl

/-! A write of GCORE_CTL in steps (R344, R351). -/

/-- RUN and the fields as written. -/
def putCtl (c : Nat) (v : Word) (d : Dev) : Dev := plainWrite (GCORE_CTL c) v (writeCoreCtl.withRun c (v.getLsbD 0) d)

/-- A change of a core under a condition. -/
def onCoreIf (c : Nat) (b : Bool) (f : GCore → GCore) (d : Dev) : Dev := if b then onCore c f d else d

/-- A core asked to power up (R389). -/
def woken (g : GCore) : GCore := { g with wake := true }

/-- A core whose DET has changed. -/
def emptied (g : GCore) : GCore := { g with pred := [], ic := [], dc := [], group := none }

/-- A core after ICINV. -/
def programInvalid (g : GCore) : GCore := { g with ic := [] }

/-- A core after DCINV. -/
def dataInvalid (g : GCore) : GCore := { g with dc := [] }

/-- The write without RESET. -/
def ctlWritten (c : Nat) (v : Word) (s : State) : State :=
  onDev (onCoreIf c (v.getLsbD 6) dataInvalid) (onDev (onCoreIf c (v.getLsbD 5) programInvalid)
    (onDev (fun d => onCoreIf c (flag d (GCORE_CTL_DET c) != flag s.dev (GCORE_CTL_DET c)) emptied d)
      (onDev (wakeCore c) (onDev (putCtl c v) s))))

section
variable {c : Nat} {v : Word} {s t : State} {g : GCore}

theorem writeCoreCtl_unreset (h : v.getLsbD 1 = false) : writeCoreCtl c v s = ctlWritten c v s :=
  if_neg (Bool.eq_false_iff.mp h)

theorem writeCoreCtl_reset (h : v.getLsbD 1 = true) : writeCoreCtl c v s = coreReset c (ctlWritten c v s) :=
  if_pos h

theorem CoreChanged.stepIf (h : CoreChanged c s g t) (b : Bool) (f : GCore → GCore) :
    CoreChanged c s (if b then f g else g) (onDev (onCoreIf c b f) t) := by
  cases b
  · exact h
  · exact h.step f

/-- The same for a condition on the device. -/
theorem CoreChanged.stepWhen (h : CoreChanged c s g t) (b : Dev → Bool) (f : GCore → GCore) :
    CoreChanged c s (if b t.dev then f g else g) (onDev (fun d => onCoreIf c (b d) f d) t) :=
  h.stepIf (b t.dev) f

theorem CoreChanged.flag (h : CoreChanged c s g t) (f : Fld) : flag t.dev f = flag s.dev f := by
  simp only [Machine.flag, getF, getR, h.regs]

theorem CoreChanged.wake (h : CoreChanged c s g t) :
    CoreChanged c s (if parked t.dev c then woken g else g) (onDev (wakeCore c) t) :=
  h.stepIf (parked t.dev c) woken

end

/-- What the steps after the fields make of the core: its wake-up request, and its caches by DET, ICINV and DCINV. -/
def ctlCore (wake det icinv dcinv : Bool) (g : GCore) : GCore :=
  let g := if wake then woken g else g
  let g := if det then emptied g else g
  let g := if icinv then programInvalid g else g
  if dcinv then dataInvalid g else g

section
variable {wake det icinv dcinv : Bool} {g : GCore}

theorem ctlCore_sbuf : (ctlCore wake det icinv dcinv g).sbuf = g.sbuf := by
  simp only [ctlCore]; split_ifs <;> rfl

theorem ctlCore_ic (h : icinv = true) : (ctlCore wake det icinv dcinv g).ic = [] := by
  subst h; simp only [ctlCore]; split_ifs <;> rfl

theorem ctlCore_dc (h : dcinv = true) : (ctlCore wake det icinv dcinv g).dc = [] := by
  subst h; rfl

theorem ctlCore_emptied (h : det = true) : (ctlCore wake det icinv dcinv g).pred = [] ∧ (ctlCore wake det icinv dcinv g).ic = [] ∧
    (ctlCore wake det icinv dcinv g).dc = [] := by
  subst h; simp only [ctlCore]; split_ifs <;> exact ⟨rfl, rfl, rfl⟩

end

/-- After the fields are written only the core changes. -/
theorem ctlWritten_changes (c : BitVec 5) (v : Word) (s : State) : CoreChanged c.toNat (onDev (putCtl c.toNat v) s)
    (ctlCore (parked (putCtl c.toNat v s.dev) c.toNat) (v.getLsbD 2 != flag s.dev (GCORE_CTL_DET c.toNat)) (v.getLsbD 5) (v.getLsbD 6)
      (coreOf (putCtl c.toNat v s.dev) c.toNat)) (ctlWritten c.toNat v s) := by
  have hwake := (CoreChanged.refl (c := c.toNat) (s := onDev (putCtl c.toNat v) s)).wake
  have hdet := (hwake.flag (GCORE_CTL_DET c.toNat)).trans (flag_plainWrite_det c v _)
  have hemptied := hwake.stepWhen (fun d => flag d (GCORE_CTL_DET c.toNat) != flag s.dev (GCORE_CTL_DET c.toNat)) emptied
  rw [hdet] at hemptied
  exact (hemptied.stepIf (v.getLsbD 5) programInvalid).stepIf (v.getLsbD 6) dataInvalid

/-! RESET (R351). -/

/-- What a reset leaves of GCORE_CTL and of the check bits. -/
structure CtlKept (c : Nat) (d d' : Dev) : Prop where
  ctl : getR d' (GCORE_CTL c) = getR d (GCORE_CTL c)
  ecc : d'.ecc = d.ecc

section
variable {c : Nat} {d d1 d2 : Dev}

theorem CtlKept.refl : CtlKept c d d := ⟨rfl, rfl⟩

theorem CtlKept.trans (h1 : CtlKept c d d1) (h2 : CtlKept c d1 d2) : CtlKept c d d2 := ⟨h2.ctl.trans h1.ctl, h2.ecc.trans h1.ecc⟩

theorem CtlKept.run (h : CtlKept c d d1) : flag d1 (GCORE_CTL_RUN c) = flag d (GCORE_CTL_RUN c) :=
  congrArg (fun w => fieldOf w ⟨0, 0, 0⟩ == 1) h.ctl

theorem ctlKept_setR {off : Nat} (h : off ≠ GCORE_CTL c) (v : Word) : CtlKept c d (setR d off v) := ⟨getR_setR_other _ _ _ _ h, rfl⟩

theorem ctlKept_setF {f : Fld} (h : f.off ≠ GCORE_CTL c) (v : Nat) : CtlKept c d (setF d f v) := ctlKept_setR h _

theorem ctlKept_setCore (g : GCore) : CtlKept c d (setCore d c g) := ⟨rfl, rfl⟩

theorem ctlKept_watchGrace (hc : c < 32) : CtlKept c d (watchGrace c d) := by
  simp only [watchGrace]
  split
  · exact ctlKept_setR (by simp only [TMR_WDT_COUNT, GCORE_CTL]; omega) _
  · exact .refl

theorem ctlKept_swapThresh (hc : c < 32) : CtlKept c d (swapThresh c d) :=
  (ctlKept_setF (by simp only [ICU_THRESH, GCORE_CTL]; omega) _).trans (ctlKept_setF (by simp only [DBG_CORE_CTL, GCORE_CTL]; omega) _)

theorem ctlKept_leaveMonitor (hc : c < 32) : CtlKept c d (leaveMonitor c d) := by
  simp only [leaveMonitor]
  have hswap := (ctlKept_setCore { coreOf d c with monitor := none }).trans (ctlKept_swapThresh (d := setCore d c _) hc)
  split_ifs
  · exact .refl
  · exact hswap.trans (ctlKept_watchGrace hc)
  · exact hswap

/-- RESET is taken once RUN is 1, and a good first word locks nothing (R348, R351). -/
theorem takeReset_good (h : flag d (GCORE_CTL_RUN c) = true → popcount (eccMask d (eccKey 7 (65536 * c))) < 2) :
    takeReset c d = onCoreIf c ((coreOf d c).resetDue && flag d (GCORE_CTL_RUN c)) (fun g => { g with resetDue := false }) d := by
  cases hrun : flag d (GCORE_CTL_RUN c) with
  | false => simp [takeReset, onCoreIf, hrun]
  | true =>
    have hecc (g : GCore) : ¬ 2 ≤ popcount (eccMask (setCore d c g) (eccKey 7 (65536 * c))) := Nat.not_le.mpr (h hrun)
    simp only [takeReset, hecc, if_false, hrun]
    rfl

/-- A core after a reset; its power domain keeps a wake-up request. -/
def resetCore (c : Nat) (wake : Bool) : GCore := { gcore0 c with resetDue := true, wake := wake }

/-- The core that takes RESET, or waits for RUN. -/
theorem takeReset_reset {wake : Bool} (hcore : coreOf d c = resetCore c wake)
    (h : flag d (GCORE_CTL_RUN c) = true → popcount (eccMask d (eccKey 7 (65536 * c))) < 2) :
    CtlKept c d (takeReset c d) ∧
      coreOf (takeReset c d) c = { gcore0 c with resetDue := !flag d (GCORE_CTL_RUN c), wake := wake } := by
  rw [takeReset_good h, hcore]
  cases flag d (GCORE_CTL_RUN c) with
  | false => exact ⟨.refl, hcore⟩
  | true => exact ⟨ctlKept_setCore _, (coreOf_setCore_same _ _ _).trans (by rw [hcore]; rfl)⟩

/-- A reset of a core with no buffered store: monitor and halt end, and then the core is as reset (R351). -/
theorem coreReset_unbuffered {s : State} (hc : c < 32) (h : (coreOf s.dev c).sbuf = []) : ∃ d wake, CtlKept c s.dev d ∧
    coreReset c s = setDev s (takeReset c (setR (setCore d c (resetCore c wake)) (GCORE_LOCK c) 0)) := by
  have hdrain : drainStores c s = s := by rw [drainStores, h]; rfl
  refine ⟨if (coreOf (leaveMonitor c s.dev) c).halted then watchGrace c (leaveMonitor c s.dev) else leaveMonitor c s.dev, _,
    ?_, (congrArg (onDev _) hdrain).trans rfl⟩
  split
  · exact (ctlKept_leaveMonitor hc).trans (ctlKept_watchGrace hc)
  · exact ctlKept_leaveMonitor hc

end

/-- RUN as written leaves the buffered stores and the check bits; a good first word is needed to run a core that waits to take RESET. -/
theorem withRun_keeps {c : Nat} {run : Bool} {d : Dev} (h : run = true → popcount (eccMask d (eccKey 7 (65536 * c))) < 2) :
    (coreOf (writeCoreCtl.withRun c run d) c).sbuf = (coreOf d c).sbuf ∧ (writeCoreCtl.withRun c run d).ecc = d.ecc := by
  cases run with
  | false => exact ⟨(congrArg GCore.sbuf (coreOf_setCore_same (setFlag d (GCORE_CTL_RUN c) false) c _)).trans rfl, rfl⟩
  | true =>
    have htake := takeReset_good (c := c) (d := setFlag d (GCORE_CTL_RUN c) true) fun _ => h rfl
    have hrun : writeCoreCtl.withRun c true d = takeReset c (setFlag d (GCORE_CTL_RUN c) true) := rfl
    rw [hrun, htake, onCoreIf]
    split
    · exact ⟨(congrArg GCore.sbuf (coreOf_setCore_same (setFlag d (GCORE_CTL_RUN c) true) c _)).trans rfl, rfl⟩
    · exact ⟨rfl, rfl⟩

theorem putCtl_keeps {c : Nat} {v : Word} {d : Dev} (h : v.getLsbD 0 = true → popcount (eccMask d (eccKey 7 (65536 * c))) < 2) :
    (coreOf (putCtl c v d) c).sbuf = (coreOf d c).sbuf ∧ (putCtl c v d).ecc = d.ecc := by
  obtain ⟨hs, he⟩ := withRun_keeps h
  rw [putCtl, plainWrite_eq]
  exact ⟨hs, he⟩

section
variable {s : State} {a : Agent} {c : BitVec 5} {v : Word}

/-- RESET leaves the core as a reset does, due to take RESET while RUN is 0 (R351). -/
theorem writeCoreCtl_resets (hv : v.getLsbD 1 = true) (hstores : (coreOf s.dev c.toNat).sbuf = [])
    (hgood : v.getLsbD 0 = true → popcount (eccMask s.dev (eccKey 7 (65536 * c.toNat))) < 2) :
    ∃ t, writeCoreCtl c.toNat v s = t ∧ t.mem = s.mem ∧ flag t.dev (GCORE_CTL_RUN c.toNat) = v.getLsbD 0 ∧
      coreOf t.dev c.toNat = { gcore0 c.toNat with resetDue := !v.getLsbD 0, wake := (coreOf t.dev c.toNat).wake } := by
  have h := ctlWritten_changes c v s
  obtain ⟨hsbuf, hecc⟩ := putCtl_keeps hgood
  have hempty : (coreOf (ctlWritten c.toNat v s).dev c.toNat).sbuf = [] := by
    rw [h.own, ctlCore_sbuf]; exact hsbuf.trans hstores
  obtain ⟨d, wake, hkept, heq⟩ := coreReset_unbuffered c.isLt hempty
  have hrun : flag (ctlWritten c.toNat v s).dev (GCORE_CTL_RUN c.toNat) = v.getLsbD 0 :=
    (h.flag _).trans (flag_plainWrite_run c v _)
  have hreset := hkept.trans ((ctlKept_setCore (resetCore c.toNat wake)).trans
    (ctlKept_setR (off := GCORE_LOCK c.toNat) (by simp only [GCORE_LOCK, GCORE_CTL]; omega) 0))
  obtain ⟨htake, hcore⟩ := takeReset_reset (c := c.toNat)
      (d := setR (setCore d c.toNat (resetCore c.toNat wake)) (GCORE_LOCK c.toNat) 0)
      (coreOf_setCore_same d c.toNat (resetCore c.toNat wake)) fun hflag => by
    have heccs := hreset.ecc.trans ((congrArg Dev.ecc h.dev).trans hecc)
    have hone := hgood ((hreset.run.trans hrun).symm.trans hflag)
    rwa [eccMask, ← heccs] at hone
  refine ⟨_, (writeCoreCtl_reset hv).trans heq, h.mem, htake.run.trans (hreset.run.trans hrun), ?_⟩
  rw [hreset.run.trans hrun] at hcore
  exact hcore.trans (by rw [hcore])

/-- Without RESET the fields are as written, and the caches empty as DET, ICINV and DCINV say (R344). -/
theorem writeCoreCtl_sets (hv : v.getLsbD 1 = false) : ∃ t, writeCoreCtl c.toNat v s = t ∧ t.mem = s.mem ∧
    flag t.dev (GCORE_CTL_RUN c.toNat) = v.getLsbD 0 ∧ flag t.dev (GCORE_CTL_DET c.toNat) = v.getLsbD 2 ∧
    (v.getLsbD 5 = true → (coreOf t.dev c.toNat).ic = []) ∧ (v.getLsbD 6 = true → (coreOf t.dev c.toNat).dc = []) ∧
    (flag s.dev (GCORE_CTL_DET c.toNat) ≠ v.getLsbD 2 → (coreOf t.dev c.toNat).pred = [] ∧ (coreOf t.dev c.toNat).ic = [] ∧
      (coreOf t.dev c.toNat).dc = []) := by
  have h := ctlWritten_changes c v s
  refine ⟨_, writeCoreCtl_unreset hv, h.mem, (h.flag _).trans (flag_plainWrite_run c v _),
    (h.flag _).trans (flag_plainWrite_det c v _), ?_⟩
  rw [h.own]
  exact ⟨ctlCore_ic, ctlCore_dc, fun hne => ctlCore_emptied (bne_iff_ne.mpr hne.symm)⟩

end

/-! GCORE_PDATA (R342). -/

section
variable {d : Dev} {nse : Bool} {v : Word}

/-- ADDR moves on with AUTOINC, but for an access without side effects. -/
def moveOn (nse : Bool) (i : Nat) (d : Dev) : Dev :=
  if flag d GCORE_PSEL_AUTOINC && !nse then setF d GCORE_PSEL_ADDR (i + 1) else d

theorem accessProg_read : accessProg false nse v d = moveOn nse (getF d GCORE_PSEL_ADDR)
    { d with busRead := (progWord d (getF d GCORE_PSEL_CORE) (getF d GCORE_PSEL_ADDR)).setWidth 32 } := rfl

theorem accessProg_write (h : progWritable d (getF d GCORE_PSEL_CORE) = true) : accessProg true nse v d =
    moveOn nse (getF d GCORE_PSEL_ADDR)
      (setProgWord (getF d GCORE_PSEL_CORE) (getF d GCORE_PSEL_ADDR) (v.setWidth 14) d) := by
  simp only [accessProg, if_true, writeProg, h]
  rfl

theorem moveOn_quiet (i : Nat) : moveOn true i d = d := if_neg (by simp)

theorem moveOn_still (i : Nat) (h : flag d GCORE_PSEL_AUTOINC = false) : moveOn nse i d = d := if_neg (by simp [h])

theorem moveOn_moves (i : Nat) (h : flag d GCORE_PSEL_AUTOINC = true) : moveOn false i d = setF d GCORE_PSEL_ADDR (i + 1) :=
  if_pos (by simp [h])

theorem moveOn_eq (i : Nat) : moveOn nse i d = { d with regs := (moveOn nse i d).regs } := by
  unfold moveOn; split <;> rfl

theorem getF_moveOn (i : Nat) (h : getF d GCORE_PSEL_ADDR = i) :
    getF (moveOn nse i d) GCORE_PSEL_ADDR = if flag d GCORE_PSEL_AUTOINC && !nse then (i + 1) % 65536 else i := by
  unfold moveOn
  split
  · exact getF_setF_same d GCORE_PSEL_ADDR _ (by decide) (by decide)
  · exact h

theorem setProgWord_eq (c i : Nat) (w : BitVec 14) (d : Dev) : setProgWord c i w d = { d with
    psram := sset (fun _ => 0#14) d.psram (65536 * c + i) w, ecc := (setProgWord c i w d).ecc, cn := (setProgWord c i w d).cn } := by
  simp only [setProgWord, eccClear, eccDrop]; split <;> rfl

theorem flag_setProgWord (c i : Nat) (w : BitVec 14) (f : Fld) : flag (setProgWord c i w d) f = flag d f := by
  rw [setProgWord_eq]; rfl

theorem getF_setProgWord (c i : Nat) (w : BitVec 14) (f : Fld) : getF (setProgWord c i w d) f = getF d f := by
  rw [setProgWord_eq]; rfl

theorem progWord_moveOn_setProgWord (c i k : Nat) (w : BitVec 14) : progWord (moveOn nse k (setProgWord c i w d)) c i = w := by
  rw [moveOn_eq, setProgWord_eq]
  exact sget_sset_same _ _ _ _

end

/-- Settles O9: without RESET the fields are as written and only caches go, and with it the core is as reset. -/
theorem coreControlAndProgramPortComplete : Obligations.CoreControlAndProgramPortComplete := by
  intro s a c v hw n
  have hctl : Host.Outcome.next (whenWritable a (writeCoreCtl n v) s) =
      (.next (writeCoreCtl n v s) : Host.Outcome State Fault Refusal) := congrArg Host.Outcome.next (whenWritable_of_writable hw _)
  refine ⟨fun hv => ?ctl, fun hv hstores hgood => ?reset, fun nse => ?read, fun nse hwritable => ?write⟩
  case ctl =>
    obtain ⟨t, ht, hrest⟩ := writeCoreCtl_sets (s := s) (c := c) hv
    have hnext := hctl.trans (congrArg Host.Outcome.next ht)
    simp only [List.forall_mem_cons]
    exact ⟨⟨t, hnext, hrest⟩, ⟨t, hnext, hrest⟩, ⟨t, hnext, hrest⟩, ⟨t, hnext, hrest⟩, List.forall_mem_nil _⟩
  case reset =>
    obtain ⟨t, ht, hrest⟩ := writeCoreCtl_resets hv hstores hgood
    exact ⟨t, hctl.trans (congrArg Host.Outcome.next ht), hrest⟩
  case read =>
    exact ⟨_, next_whenWritable_onDev hw accessProg_read, rfl, congrArg Dev.busRead (moveOn_eq _), getF_moveOn _ rfl⟩
  case write =>
    refine ⟨_, next_whenWritable_onDev hw (accessProg_write hwritable), rfl, progWord_moveOn_setProgWord .., ?_⟩
    exact (getF_moveOn _ (getF_setProgWord ..)).trans (by rw [flag_setProgWord])

/-- Settles O8: cases of the write of GCORE_CTL, and the program port's accesses. -/
theorem guideCoreControlCommandsComplete : Obligations.GuideCoreControlCommandsComplete := by
  refine ⟨fun s a c v hw => ?ctl, fun s a v hw => ?port⟩
  case ctl =>
    have hctl : Host.Outcome.next (whenWritable a (writeCoreCtl c.toNat v) s) =
        (.next (writeCoreCtl c.toNat v s) : Host.Outcome State Fault Refusal) :=
      congrArg Host.Outcome.next (whenWritable_of_writable hw _)
    refine ⟨hctl, hctl, hctl, fun hrun hv hstores => ?reset, fun hv h5 => ?icinv, fun hv h6 => ?dcinv⟩
    case reset =>
      obtain ⟨t, ht, hmem, -, hcore⟩ := writeCoreCtl_resets (s := s) hv hstores fun h => absurd (hrun.symm.trans h) Bool.false_ne_true
      rw [hrun] at hcore
      exact ⟨t, hctl.trans (congrArg Host.Outcome.next ht), hcore, hmem⟩
    case icinv =>
      obtain ⟨t, ht, hmem, -, -, hic, -⟩ := writeCoreCtl_sets (s := s) (c := c) hv
      exact ⟨t, hctl.trans (congrArg Host.Outcome.next ht), hic h5, hmem⟩
    case dcinv =>
      obtain ⟨t, ht, hmem, -, -, -, hdc, -⟩ := writeCoreCtl_sets (s := s) (c := c) hv
      exact ⟨t, hctl.trans (congrArg Host.Outcome.next ht), hdc h6, hmem⟩
  case port =>
    intro c i read
    refine ⟨next_whenWritable_onDev hw (moveOn_quiet _), fun h => next_whenWritable_onDev hw (moveOn_still _ h),
      fun h => next_whenWritable_onDev hw (moveOn_moves _ h), fun nse hwritable h => ?_, fun hwritable h => ⟨?_, ?_⟩⟩
    · exact next_whenWritable_onDev hw ((accessProg_write hwritable).trans (moveOn_still _ (by rw [flag_setProgWord, h])))
    · exact next_whenWritable_onDev hw ((accessProg_write hwritable).trans (moveOn_quiet _))
    · exact next_whenWritable_onDev hw ((accessProg_write hwritable).trans (moveOn_moves _ (by rw [flag_setProgWord, h])))

end Sys2Proof.Machine
end

section
/-! PROOF. The video and audio bridges (R397-R402, R411, R417, R418, R421-R433). -/

namespace Sys2Proof.Machine

open Sys2Proof.Safety

section
variable {s : State} {d : Dev}

/-- The same with what becomes possible with the change. -/
theorem next_whenGranted_settle {f : State → State} (h : granted s.dev = true) :
    (.next (whenGranted (fun s => settle (f s)) s) : Host.Outcome State Fault Refusal) = .next (settle (f s)) :=
  next_whenGranted h _

/-- The blanking before an active line of a running picture (R411). -/
theorem applyList_active {line : Nat} (hen : flag d VID_CTRL_ENABLE = true) (hmode : mode d ≠ 0)
    (hline : line < getSh d VID_VTIM_VACTIVE) :
    applyList line d = if getSh (setF (setFlag d VID_STAT_VBLANK false) VID_STAT_LINE line) VID_LL_BASE_EN == 1 then
      runList line (screedSize / 8) (setF (setFlag d VID_STAT_VBLANK false) VID_STAT_LINE line)
      else setF (setFlag d VID_STAT_VBLANK false) VID_STAT_LINE line := by
  refine if_neg ?_
  simp only [hen, beq_eq_false_iff_ne.mpr hmode, Nat.not_le.mpr hline, Bool.not_true, Bool.or_self, decide_false, Bool.false_eq_true,
    not_false_eq_true]

/-- While EN is 1 only EN is written (R400). -/
theorem writeCapture_bound {p : Nat} {v : Word} (h : flag d (VID_C_CFG_EN p) = true) :
    writeCapture p v d = setFlag d (VID_C_CFG_EN p) (v.getLsbD 0) := if_pos h

/-- EN set to 1 with nothing against it binds the queue (R400). -/
theorem writeCapture_binds {p : Nat} {v : Word} (h : flag d (VID_C_CFG_EN p) = false) (hv : v.getLsbD 0 = true)
    (hcode : captureCode (setFlag (plainWrite (VID_C_CFG p) v d) (VID_C_CFG_EN p) false) p = 0) : writeCapture p v d =
      setFlag (setF (setFlag (plainWrite (VID_C_CFG p) v d) (VID_C_CFG_EN p) false) (VID_C_STAT_ERR p) 0) (VID_C_CFG_EN p) true := by
  simp only [writeCapture, h, hv, hcode, Bool.not_true, Bool.false_eq_true, if_false, beq_self_eq_true, if_true]

/-- START sends the request unless one runs (R417). -/
theorem writeAux_start {v : Word} (hv : v.getLsbD 31 = true) (hidle : flag (plainWrite VID_AUX_CMD v d) VID_AUX_STAT_BUSY = false) :
    writeAux v d = emit (.aux (getF (plainWrite VID_AUX_CMD v d) VID_AUX_CMD_REQ) (getF (plainWrite VID_AUX_CMD v d) VID_AUX_CMD_ADDR)
      (if getF (plainWrite VID_AUX_CMD v d) VID_AUX_CMD_REQ % 2 == 0 then
        (auxBytes (plainWrite VID_AUX_CMD v d)).take (getF (plainWrite VID_AUX_CMD v d) VID_AUX_CMD_LEN) else []))
      (setFlag (plainWrite VID_AUX_CMD v d) VID_AUX_STAT_BUSY true) := by
  simp only [writeAux, hv, hidle, Bool.not_true, Bool.or_self, Bool.false_eq_true, if_false]

/-- A change of level is reported (R418). -/
theorem hpdChange_level {h : Bool} (hnew : flag d VID_DP_STAT_HPD = !h) :
    hpdChange (.level h) d = vidEvent 4 (setFlag (setFlag d VID_DP_STAT_HPD h) VID_DP_STAT_PLUG true) :=
  if_neg (by simp [hnew])

end

/-- Settles O15: each is the model's operation under the conditions of its rule. -/
theorem videoCommandsComplete : Obligations.VideoCommandsComplete := by
  intro s
  refine ⟨fun hg hen hmode hready => ?frame, fun a v hw hv => ?commit, fun line hg hen hmode hline => ?list,
    fun a p v hw => ⟨fun hen => ?bound, fun hen hv => ?bind⟩, fun p hg => ?entry, fun a v hw hv => ?aux,
    fun reply data ha hbusy hreply hdata => ?reply, fun ha => ?irq, fun h ha hnew => ?level⟩
  case frame => exact next_whenGranted_settle (f := onDev frameBoundary) hg
  case commit => exact next_whenWritable_onDev hw (if_pos hv)
  case list =>
    have happly := applyList_active hen hmode hline
    exact ⟨fun hll => next_whenGranted_onDev hg (happly.trans (if_pos (beq_iff_eq.mpr hll))),
      fun hll => next_whenGranted_onDev hg (happly.trans (if_neg (mt beq_iff_eq.mp hll)))⟩
  case bound => exact next_whenWritable_onDev hw (writeCapture_bound hen)
  case bind => exact fun hcode => next_whenWritable_onDev hw (writeCapture_binds hen hv hcode)
  case entry => exact next_whenGranted_settle (f := captureEntry p.toNat) hg
  case aux => exact fun hidle => next_whenWritable_onDev hw (writeAux_start hv hidle)
  case reply => exact next_whenAlive_onDev ha rfl
  case irq => exact next_whenAlive_onDev ha rfl
  case level => exact next_whenAlive_onDev ha (hpdChange_level hnew)

section
variable {d : Dev}

/-- A block boundary of locked clocks (R421). -/
theorem blockBoundary_locked (hlock : flag d AUD_STAT_LOCK = true) (hmode : mode d ≠ 0) : blockBoundary d =
    each ((List.range 2).filter fun p => flag (audEvent 0 (bumpF d (whole AUD_BLOCKS))) (AUD_P_CFG_EN p))
      (fun p d => startOutput p (endInput p d)) (audEvent 0 (bumpF d (whole AUD_BLOCKS))) := by
  refine if_neg ?_
  simp only [hlock, beq_eq_false_iff_ne.mpr hmode, Bool.not_true, Bool.or_self, Bool.false_eq_true, not_false_eq_true]

/-- A gain change that has waited long enough is applied (R426). -/
theorem zcTimeout_due {i n : Nat} (hwait : (pathOf d i).wait = some n) (hcur : (pathOf d i).cur ≠ gainTarget d i)
    (hdue : max 1 (getF d (gainFlds i).2) ≤ n) :
    zcTimeout i d = audEvent 2 (setPath d i { pathOf d i with cur := gainTarget d i, wait := none }) := by
  simp only [zcTimeout, hwait, bne_iff_ne.mpr hcur, decide_eq_true hdue, Bool.and_self, if_true]

/-- FSYNC of a clock slave changes (R423). -/
theorem fsync_slave {p : Nat} {absent : Bool} (hen : flag d (AUD_P_CFG_EN p) = true) (hslave : flag d (AUD_P_CFG_MASTER p) = false)
    (hnew : (audOf d p).absent = !absent) : fsync p absent d =
      setF (setAud d p { audOf d p with absent := absent }) (AUD_P_STAT_ERR p) (b2n absent) :=
  if_neg (by cases absent <;> simp [hen, hslave, hnew])

end

/-- Settles O16: each is the model's operation under the conditions of its rule. -/
theorem audioCommandsComplete : Obligations.AudioCommandsComplete := by
  intro s
  refine ⟨fun ha hlock hmode => ?block, fun a p v hw => ?bind, fun p hg => ?entry, fun output path n => ?timeout,
    fun p ha hen hslave => ⟨fun hnew => ?absent, fun hnew => ?returns⟩, fun p din slip ha hen hlock hmode => ?frame⟩
  case block => exact next_whenAlive_settle ha (blockBoundary_locked hlock hmode)
  case bind => exact next_whenWritable_onDev hw rfl
  case entry => exact next_whenGranted_settle (f := outputEntry p.toNat) hg
  case timeout =>
    intro i ha hwait hcur hdue
    exact next_whenAlive_onDev ha (zcTimeout_due hwait hcur hdue)
  case absent => exact next_whenAlive_onDev ha (fsync_slave hen hslave hnew)
  case returns => exact next_whenAlive_onDev ha (fsync_slave hen hslave hnew)
  case frame => exact congrArg Host.Outcome.next (whenAlive_of_alive ha _)

end Sys2Proof.Machine
end

section
/-! PROOF. The test access port, debug, and the power controller (R435-R452). -/

namespace Sys2Proof.Machine

open Sys2Proof.Safety

section
variable {s : State} {d : Dev}

theorem next_tapOn {f : Dev → Dev} {d : Dev} (h : s.dev.pw.vauxGood = true) (hf : f s.dev = d) :
    (.next (tapOn f s) : Host.Outcome State Fault Refusal) = .next (setDev s d) := by
  subst hf; exact congrArg Host.Outcome.next (if_pos h)

/-- A scan while a request runs shows busy (R437). -/
theorem scan_busy {request r : BitVec 80} (h : d.dbg.request = some r) : scan request d = selectIr 8 (bitList 80 1) d := by
  simp only [scan, h]

/-- A scan with no request running starts a read or a write (R437). -/
theorem scan_idle {request : BitVec 80} (h : d.dbg.request = none) (hop : request.toNat % 4 = 1 ∨ request.toNat % 4 = 2) :
    scan request d = (fun d => { d with dbg := { d.dbg with request := some request } })
      (selectIr 8 (bitList 80 (d.dbg.status + d.dbg.data.toNat * 2 ^ 48)) d) := by
  have hstart : (request.toNat % 4 == 1 || request.toNat % 4 == 2) = true := by simpa using hop
  simp only [scan, h, hstart, if_true]

end

/-- Settles O17: each selects its instruction and shifts its data register out. -/
theorem tapCommandsComplete : Obligations.TapCommandsComplete := by
  intro s hv
  refine ⟨next_tapOn hv rfl, next_tapOn hv rfl, next_tapOn hv rfl, fun pins => ⟨_, next_tapOn hv rfl, rfl, rfl, rfl, rfl⟩,
    next_tapOn hv rfl, next_tapOn hv rfl, next_tapOn hv rfl, fun request hidle hop => ?start, fun request r hbusy => ?busy⟩
  case start => exact ⟨_, next_tapOn hv (scan_idle hidle hop), rfl, rfl⟩
  case busy => exact next_tapOn hv (scan_busy hbusy)

/-- Settles O18: the request that waits decides a DAP command, and bit 0 a write of DBG_HALT. -/
theorem debugCommandsComplete : Obligations.DebugCommandsComplete := by
  intro s
  refine ⟨fun r hw hreq => ⟨fun hop => ?read, fun hop => ?write⟩, fun a v hw => ⟨fun hv => ?halt, fun hv => ?release⟩,
    fun n c k v hw => next_whenWritable_onDev hw rfl, fun a nse hw => next_whenWritable_onDev hw rfl⟩
  case read =>
    refine congrArg Host.Outcome.next ((whenWritable_of_writable hw _).trans ?_)
    simp only [hreq, hop, beq_self_eq_true, if_true]
  case write =>
    refine congrArg Host.Outcome.next ((whenWritable_of_writable hw _).trans ?_)
    simp only [hreq, hop, beq_self_eq_true, if_true]
  case halt => exact next_whenWritable_settle hw (if_pos hv)
  case release => exact next_whenWritable_settle hw (if_neg (Bool.eq_false_iff.mp hv))

section
variable {d : Dev} {rail : Nat}

/-- A monitored rail that has been in its window takes the event (R448, R449). -/
theorem railOut_seen (hrail : rail < 12) (hseen : bitOf d.pw.railSeen rail = true) : railOut rail d =
    let d := if rail == 0 then { d with pw := { d.pw with vinGood := false } } else d
    let d := { d with pw := { d.pw with pwrGood := false } }
    raise 0x1D rail (setFlag (setFlag d (bitFld PWR_RAILS rail) false) (bitFld PWR_RAILS (16 + rail)) true) :=
  if_neg (by simp [hseen, Nat.not_le.mpr hrail])

theorem railOut_module (h0 : rail ≠ 0) (hrail : rail < 12) (hseen : bitOf d.pw.railSeen rail = true) : railOut rail d =
    raise 0x1D rail (setFlag (setFlag { d with pw := { d.pw with pwrGood := false } } (bitFld PWR_RAILS rail) false)
      (bitFld PWR_RAILS (16 + rail)) true) := by
  rw [railOut_seen hrail hseen, if_neg (by simpa using h0)]

end

/-- Settles O2: rail 0 is VIN itself; the other rails leave it. -/
theorem powerControllerCommandsComplete : Obligations.PowerControllerCommandsComplete := by
  intro s ha
  exact ⟨fun rail h0 hrail hseen => next_whenAlive_settle ha (railOut_module h0 hrail hseen),
    fun hseen => next_whenAlive_settle ha (railOut_seen (by decide) hseen),
    fun watts vinMv vinCa mj capMv excess => next_whenAlive_settle ha rfl,
    fun face col reg0 reg1 hbm tempMv => next_whenAlive_settle ha rfl⟩

end Sys2Proof.Machine
end

section
/-! PROOF. The commands of timers, pins, interrupts, mailboxes, parking and the TAP leave every memory (R352-R389, R435-R437). -/

namespace Sys2Proof.Machine

open Sys2Proof.Safety

/-- The Faces' state, the SRAMs and the queues: what holds data beside HBM. -/
def stores (d : Dev) : Fabric × Store Byte × Store Byte × Queues := (d.fab, d.screed, d.dsram, d.qu)

section
variable (d : Dev) (n c : Nat) (v : Word)

@[simp] theorem stores_setR (off : Nat) : stores (setR d off v) = stores d := rfl

@[simp] theorem stores_setF (f : Fld) : stores (setF d f n) = stores d := rfl

@[simp] theorem stores_setFlag (f : Fld) (b : Bool) : stores (setFlag d f b) = stores d := rfl

@[simp] theorem stores_setCore (g : GCore) : stores (setCore d c g) = stores d := rfl

@[simp] theorem stores_setOut (b : Bool) : stores (setOut n c b d) = stores d := rfl

@[simp] theorem stores_setBetween (b : Bool) : stores (setBetween n c b d) = stores d := rfl

@[simp] theorem stores_irqEvent : stores (irqEvent n d) = stores d := rfl

@[simp] theorem stores_withPins (p : Pins) : stores { d with pins := p } = stores d := rfl

theorem stores_plainWrite (off : Nat) : stores (plainWrite off v d) = stores d := by
  rw [plainWrite_eq]; rfl

/-! Timers (R360-R365). -/

theorem stores_syncOut : stores (syncOut n c d) = stores d := by
  simp only [syncOut]; split_ifs <;> simp

theorem stores_matchChannel : stores (matchChannel n c d) = stores d := by
  simp only [matchChannel]
  split_ifs <;> simp [stores_syncOut]

theorem stores_landCount : stores (landCount n v d).2 = stores d :=
  each_invariant (obs := stores) (fun c d => stores_matchChannel d n c) _ _

theorem stores_wrapTimer : stores (wrapTimer n d).2 = stores d := by
  refine (stores_landCount _ n 0).trans ?_
  refine (each_invariant (obs := stores) (fun c d => stores_syncOut (setBetween n c true d) n c) _ _).trans ?_
  exact each_invariant (obs := stores) (fun off d => (rfl : stores (commitSh d off) = stores d)) _ d

theorem stores_advance : stores (advance n d).2 = stores d := by
  simp only [advance]
  split
  · exact stores_wrapTimer d n
  · exact stores_landCount d n _

theorem stores_toSlaves (k : Nat) (ev : List Nat) : stores (toSlaves k n ev d) = stores d := by
  induction k generalizing n ev d with
  | zero => rfl
  | succ k ih =>
    simp only [toSlaves]
    split_ifs
    · rfl
    · rfl
    · exact (ih _ _ _).trans (stores_landCount d (n + 1) 0)
    · exact (ih _ _ _).trans (stores_advance d (n + 1))
    · rfl

theorem stores_spread (r : List Nat × Dev) : stores (spread n r) = stores r.2 := stores_toSlaves r.2 n 16 r.1

theorem stores_countTick : stores (countTick n d) = stores d := by
  simp only [countTick]
  split
  · rfl
  · exact (stores_spread n _).trans (stores_advance d n)

theorem stores_readCount : stores (readCount n d) = stores d :=
  each_invariant (obs := stores) (f := fun m d => setR d (TMR_LATCH m) (getR d (TMR_COUNT m))) (fun _ _ => rfl) _ _

theorem stores_capture (k : Nat) (edge : Option Bool) :
    stores (if captures d n k edge then captureNow n k d else d) = stores d := by
  split
  · refine (stores_spread n _).trans ?_
    simp only [stores_setFlag, stores_setR]
    split <;> simp
  · rfl

theorem stores_readCapture (nse : Bool) (k : Nat) : stores (readCapture nse n k d) = stores d := by
  simp only [readCapture]; split
  · rfl
  · exact stores_setFlag _ _ _

theorem stores_ringAlarm : stores (ringAlarm d) = stores d := by
  unfold ringAlarm; split <;> rfl

/-! Pins (R354, R368-R374). -/

theorem stores_holdPad (p : Pad) : stores (holdPad n p d) = stores d := by
  unfold holdPad; split <;> simp

theorem stores_releasePad : stores (releasePad n d) = stores d := by
  unfold releasePad; split <;> simp

/-- A pin's fields as written; FUNC 7 to 14 act as 15 (R368). -/
def pinFields (n : Nat) (v : Word) (d : Dev) : Dev :=
  if 7 ≤ v.toNat % 16 then setF (plainWrite (GPIO_PIN n) v d) (GPIO_PIN_FUNC n) 15 else plainWrite (GPIO_PIN n) v d

theorem writePin_eq : writePin n v d =
    if flag (pinFields n v d) (GPIO_PIN_HOLD n) && !flag d (GPIO_PIN_HOLD n) then holdPad n (padNow d n) (pinFields n v d)
    else if flag d (GPIO_PIN_HOLD n) && !flag (pinFields n v d) (GPIO_PIN_HOLD n) then releasePad n (pinFields n v d)
    else pinFields n v d := rfl

theorem stores_writePin : stores (writePin n v d) = stores d := by
  have hfields : stores (pinFields n v d) = stores d := by
    unfold pinFields; split <;> simp [stores_plainWrite]
  rw [writePin_eq]
  split_ifs
  · exact (stores_holdPad _ n _).trans hfields
  · exact (stores_releasePad _ n).trans hfields
  · exact hfields

theorem stores_writeOuts (bankB value : Bool) : stores (writeOuts bankB value v d) = stores d :=
  each_invariant (obs := stores) (f := fun i d => setFlag d (GPIO_PIN_OUT (i + 32 * b2n bankB)) value) (fun _ _ => rfl) _ d

theorem stores_endPulse (p : Pulse) : stores (endPulse p d) = stores d := by
  cases p <;> rfl

theorem stores_filterPass (level : Bool) : stores (filterPass n level d) = stores d := by
  simp only [filterPass]; split_ifs <;> simp

/-! Interrupts, mailboxes and parking (R352-R358, R388, R389). -/

theorem stores_claim (nse : Bool) : stores (claim nse c d) = stores d := by
  unfold claim
  generalize bestSource d c = best, claimWord d c = word
  cases best with
  | none => rfl
  | some x => cases nse <;> rfl

/-- TARGET of all but the per-core sources (R355). -/
def srcTarget (n w : Nat) (d : Dev) : Dev := if 64 ≤ n ∧ n < 160 then d else setF d (ICU_SRC_TARGET n) (bitsOf w 8 4)

/-- SENSE and FILTER of pin sources only (R354). -/
def srcFilter (n w : Nat) (d : Dev) : Dev :=
  if pinSource n then setF (setF d (ICU_SRC_SENSE n) (bitsOf w 18 16)) (ICU_SRC_FILTER n) (bitsOf w 31 24) else d

/-- A source's fields as written. -/
def srcFields (n w : Nat) (d : Dev) : Dev := srcFilter n w (srcTarget n w (setF d (ICU_SRC_PRIO n) (w % 16)))

theorem stores_srcTarget (w : Nat) : stores (srcTarget n w d) = stores d := by
  unfold srcTarget; split
  · rfl
  · exact stores_setF _ _ _

theorem stores_srcFilter (w : Nat) : stores (srcFilter n w d) = stores d := by
  unfold srcFilter; split
  · exact (stores_setF _ _ _).trans (stores_setF _ _ _)
  · rfl

theorem stores_srcFields (w : Nat) : stores (srcFields n w d) = stores d :=
  (stores_srcFilter _ n w).trans ((stores_srcTarget _ n w).trans (stores_setF _ _ _))

theorem writeIcuSrc_eq : writeIcuSrc n v d = if n == 0 then d else
    if bitOf v.toNat 12 && !isLevel (srcFields n v.toNat d) n then
      { srcFields n v.toNat d with icu := { (srcFields n v.toNat d).icu with
        pend := sset (fun _ => false) (srcFields n v.toNat d).icu.pend n false } }
    else srcFields n v.toNat d := rfl

theorem stores_writeIcuSrc : stores (writeIcuSrc n v d) = stores d := by
  rw [writeIcuSrc_eq]
  have hfields := stores_srcFields d n v.toNat
  generalize srcFields n v.toNat d = d1 at hfields
  split
  · rfl
  · split <;> exact hfields

theorem stores_mbRelease : stores (mbRelease c v d) = stores d := by
  simp only [mbRelease]; split <;> rfl

theorem stores_parkCore : stores (parkCore c d) = stores d := by
  simp only [parkCore]; split <;> simp

theorem stores_unparkCore : stores (unparkCore c d) = stores d := by
  simp only [unparkCore]; split <;> simp

/-! The TAP (R435-R437). -/

theorem stores_scan (request : BitVec 80) : stores (scan request d) = stores d := by
  simp only [scan]
  split
  · rfl
  · split <;> rfl

end

section
variable {s t : State} {f : Dev → Dev}

/-- HBM and the other memories are as they were. -/
def LeavesMemory (s t : State) : Prop :=
  t.mem = s.mem ∧ t.dev.fab = s.dev.fab ∧ t.dev.screed = s.dev.screed ∧ t.dev.dsram = s.dev.dsram ∧ t.dev.qu = s.dev.qu

theorem leavesMemory_ite {b : Bool} (hf : ∀ d, stores (f d) = stores d)
    (h : (.next (if b then onDev f s else s) : Host.Outcome State Fault Refusal) = .next t) : LeavesMemory s t := by
  obtain rfl := Host.Outcome.next.inj h
  cases b with
  | false => exact ⟨rfl, rfl, rfl, rfl, rfl⟩
  | true =>
    obtain ⟨hfab, hrest⟩ := Prod.mk.inj (hf s.dev)
    obtain ⟨hscreed, hrest⟩ := Prod.mk.inj hrest
    obtain ⟨hdsram, hqu⟩ := Prod.mk.inj hrest
    exact ⟨rfl, hfab, hscreed, hdsram, hqu⟩

theorem leavesMemory_whenAlive (h : (.next (whenAlive (onDev f) s) : Host.Outcome State Fault Refusal) = .next t)
    (hf : ∀ d, stores (f d) = stores d) : LeavesMemory s t := leavesMemory_ite hf h

theorem leavesMemory_whenGranted (h : (.next (whenGranted (onDev f) s) : Host.Outcome State Fault Refusal) = .next t)
    (hf : ∀ d, stores (f d) = stores d) : LeavesMemory s t := leavesMemory_ite hf h

theorem leavesMemory_whenWritable {a : Agent}
    (h : (.next (whenWritable a (onDev f) s) : Host.Outcome State Fault Refusal) = .next t)
    (hf : ∀ d, stores (f d) = stores d) : LeavesMemory s t := leavesMemory_ite hf h

theorem leavesMemory_tapOn (h : (.next (tapOn f s) : Host.Outcome State Fault Refusal) = .next t)
    (hf : ∀ d, stores (f d) = stores d) : LeavesMemory s t := leavesMemory_ite hf h

end

/-- Settles O60: each command is one change of the device that leaves the memories. -/
theorem peripheralCommandsLeaveMemory : Obligations.PeripheralCommandsLeaveMemory := by
  intro s t a c n k v pin x b nse edge p pins request
  simp only [List.forall_mem_cons]
  refine ⟨fun h => ?countTick, fun h => ?countLatch, fun h => ?capture, fun h => ?capRead, fun h => ?alarmArm, fun h => ?alarm,
    fun h => ?pinWrite, fun h => ?gpioSet, fun h => ?gpioClr, fun h => ?pulseEnd, fun h => ?filter, fun h => ?claim, fun h => ?complete,
    fun h => ?swi, fun h => ?clrpend, fun h => ?disable, fun h => ?release, fun h => ?park, fun h => ?unpark, fun h => ?tapReset,
    fun h => ?extest, fun h => ?idcode, fun h => ?samplePreload, fun h => ?clamp, fun h => ?highz, fun h => ?bypass,
    fun h => ?dapacc, List.forall_mem_nil _⟩
  case countTick => exact leavesMemory_whenAlive h (stores_countTick · _)
  case countLatch => exact leavesMemory_whenWritable h (stores_readCount · _)
  case capture => exact leavesMemory_whenAlive h (stores_capture · _ _ _)
  case capRead => exact leavesMemory_whenWritable h (stores_readCapture · _ _ _)
  case alarmArm => exact leavesMemory_whenWritable h (fun _ => rfl)
  case alarm => exact leavesMemory_whenAlive h stores_ringAlarm
  case pinWrite => exact leavesMemory_whenWritable h (stores_writePin · _ _)
  case gpioSet => exact leavesMemory_whenWritable h (stores_writeOuts · _ _ _)
  case gpioClr => exact leavesMemory_whenWritable h (stores_writeOuts · _ _ _)
  case pulseEnd => exact leavesMemory_whenAlive h (stores_endPulse · _)
  case filter => exact leavesMemory_whenAlive h (stores_filterPass · _ _)
  case claim => exact leavesMemory_whenWritable h (stores_claim · _ _)
  case complete => exact leavesMemory_whenWritable h (fun _ => rfl)
  case swi => exact leavesMemory_whenWritable h (fun _ => rfl)
  case clrpend => exact leavesMemory_whenWritable h (stores_writeIcuSrc · _ _)
  case disable => exact leavesMemory_whenWritable h (stores_plainWrite · _ _)
  case release => exact leavesMemory_whenWritable h (stores_mbRelease · _ _)
  case park => exact leavesMemory_whenGranted h (stores_parkCore · _)
  case unpark => exact leavesMemory_whenGranted h (stores_unparkCore · _)
  case tapReset | extest | idcode | samplePreload | clamp | highz | bypass => exact leavesMemory_tapOn h (fun _ => rfl)
  case dapacc => exact leavesMemory_tapOn h (stores_scan · _)

end Sys2Proof.Machine
end
